-- ==== Sys2Proof/Word.lean ====
section
/-! DEFINITION. The words of the part: bytes, 32-bit words, and their plainest arithmetic (00 section 0.6.2). -/

namespace Sys2Proof

/-- A byte of the link, of frame memory or of the catalogue flash. -/
abbrev Byte := BitVec 8

/-- A 32-bit word: a stamp, a field count, a CRC-32. -/
abbrev Word32 := BitVec 32

/-- The largest value a raw counter holds (R185). -/
def counterTop : Nat := 4294967295

/-- Adds 1 to a 32-bit saturating counter (R185). -/
def satSucc (n : Nat) : Nat := if n < counterTop then n + 1 else n

/-- Adds `k` to a 32-bit saturating counter, one by one (R185). -/
def satAdd (n k : Nat) : Nat := min (n + k) (max n counterTop)

/-- Adds 1 to a count that saturates at 255 (R153, R179). -/
def satSucc255 (n : Nat) : Nat := if n < 255 then n + 1 else n

end Sys2Proof
end

