-- ==== Sys2Proof/Syntax.lean ====
section
/-! DEFINITION. The commands of the block: one constructor for each row of spec/opcode_table.json, and the names
their operands use. -/

namespace Sys2Proof

/-- The two link ports (00 section 0.4). -/
inductive Port where
  | a | b
  deriving DecidableEq, Repr

/-- The other link port. -/
def Port.other : Port → Port
  | .a => .b
  | .b => .a

/-- The two outputs: 0 the front, 1 the marquee (00 section 0.1). -/
inductive OutputId where
  | o0 | o1
  deriving DecidableEq, Repr

/-- The two trailer streams (R88). -/
inductive StreamId where
  | s0 | s1
  deriving DecidableEq, Repr

/-- The three readers of frame memory (R150). -/
inductive Reader where
  | output0 | output1 | loader
  deriving DecidableEq, Repr

/-- A 32-byte burst of frame memory: its page and its offset in the page (R150). -/
structure Burst where
  page : Nat
  offset : Nat
  deriving DecidableEq, Repr

/-- A burst that an output reads for the line under way: the layer record it is read for, the surface row, the burst, and
whether its ECC result is uncorrectable, so that its data is not used (R63, R72; log 13, log 33). -/
structure BurstRead where
  id : Nat
  row : Nat
  burst : Burst
  failed : Bool
  deriving DecidableEq, Repr

/-- A part of an output's work on its lines: bursts read now, the number of further columns composed now, with the bursts
they still need read now too, and the number of composed pixels driven to the panel now (R48, R49, R67, R72; log 33). -/
structure LinePart where
  reads : List BurstRead
  columns : Nat
  drive : Nat
  deriving DecidableEq, Repr

/-- One value for each port. -/
structure PerPort (α : Type) where
  a : α
  b : α
  deriving DecidableEq, Repr

/-- One value for each output. -/
structure PerOutput (α : Type) where
  o0 : α
  o1 : α
  deriving DecidableEq, Repr

/-- One value for each stream. -/
structure PerStream (α : Type) where
  s0 : α
  s1 : α
  deriving DecidableEq, Repr

/-- The value of one port. -/
def PerPort.get {α : Type} (t : PerPort α) : Port → α
  | .a => t.a
  | .b => t.b

/-- Replaces the value of one port. -/
def PerPort.set {α : Type} (t : PerPort α) (p : Port) (x : α) : PerPort α :=
  match p with
  | .a => { t with a := x }
  | .b => { t with b := x }

/-- The value of one output. -/
def PerOutput.get {α : Type} (t : PerOutput α) : OutputId → α
  | .o0 => t.o0
  | .o1 => t.o1

/-- Replaces the value of one output. -/
def PerOutput.set {α : Type} (t : PerOutput α) (o : OutputId) (x : α) : PerOutput α :=
  match o with
  | .o0 => { t with o0 := x }
  | .o1 => { t with o1 := x }

/-- The value of one stream. -/
def PerStream.get {α : Type} (t : PerStream α) : StreamId → α
  | .s0 => t.s0
  | .s1 => t.s1

/-- Replaces the value of one stream. -/
def PerStream.set {α : Type} (t : PerStream α) (i : StreamId) (x : α) : PerStream α :=
  match i with
  | .s0 => { t with s0 := x }
  | .s1 => { t with s1 := x }

/-- The commands of the block. A command a port takes from its command queue names the port: its fields are those of
the frame at the head of that queue (R176, R177; log 3). -/
inductive Instr where
  /-- COLD_RESET (R187): RESET is released or power comes on, with the levels of PORTA_EN and PORTB_EN. -/
  | coldReset (strapA strapB : Bool)
  /-- PORT_RESET_ASSERT (R170). -/
  | portResetAssert (p : Port)
  /-- PORT_RESET_RELEASE (R171). -/
  | portResetRelease (p : Port)
  /-- COMMAND_FRAME (R174, R175): the bytes of a write phase, judged at its turnaround by the kind its first byte gives. -/
  | commandFrame (p : Port) (bytes : List Byte)
  /-- NOTICE_READ (R181): the write phase of Table 10-1, with its maximum count. -/
  | noticeRead (p : Port) (max : Byte)
  /-- STATUS_READ (R182). -/
  | statusRead (p : Port)
  /-- UNKNOWN_COMMAND (R177). -/
  | unknownCommand (p : Port)
  /-- QUIET_TIMER_EXPIRY (R183). -/
  | quietTimerExpiry (p : Port)
  /-- HOLD_TIMER_EXPIRY (R183). -/
  | holdTimerExpiry (p : Port)
  /-- ATTACH (R166). -/
  | attach (p : Port)
  /-- DETACH (R168). -/
  | detach (p : Port)
  /-- RESTART (R173). -/
  | restart (p : Port)
  /-- SUBSCRIBE (R180). -/
  | subscribe (p : Port)
  /-- READ_STATISTICS (R186). -/
  | readStatistics (p : Port)
  /-- DEFINE_SURFACE (R12). -/
  | defineSurface (p : Port)
  /-- WRITE_SURFACE (R14). -/
  | writeSurface (p : Port)
  /-- FREE_SURFACE (R16). -/
  | freeSurface (p : Port)
  /-- QUERY_POOL (R23). -/
  | queryPool (p : Port)
  /-- SET_LAYER (R33). -/
  | setLayer (p : Port)
  /-- CLEAR_LAYER (R34). -/
  | clearLayer (p : Port)
  /-- LATCH (R37). -/
  | latch (p : Port)
  /-- SET_PANEL (R80). -/
  | setPanel (p : Port)
  /-- OPEN_STREAM (R92). -/
  | openStream (p : Port)
  /-- START_STREAM (R94). -/
  | startStream (p : Port)
  /-- FRAME_READY (R97). -/
  | frameReady (p : Port)
  /-- PAUSE_STREAM (R103). -/
  | pauseStream (p : Port)
  /-- RESUME_STREAM (R103). -/
  | resumeStream (p : Port)
  /-- STOP_STREAM (R104). -/
  | stopStream (p : Port)
  /-- CLOSE_STREAM (R105). -/
  | closeStream (p : Port)
  /-- LOAD_POSTER (R117). -/
  | loadPoster (p : Port)
  /-- RELEASE_POSTER (R124). -/
  | releasePoster (p : Port)
  /-- QUERY_POSTER (R125). -/
  | queryPoster (p : Port)
  /-- RELOAD_DIRECTORY (R128). -/
  | reloadDirectory (p : Port)
  /-- LOADER_BEGIN (R120). -/
  | loaderBegin
  /-- LOADER_READ_END (R122). -/
  | loaderReadEnd
  /-- FLASH_READ (R139). -/
  | flashRead (p : Port)
  /-- FLASH_PROGRAM (R140). -/
  | flashProgram (p : Port)
  /-- FLASH_ERASE (R141). -/
  | flashErase (p : Port)
  /-- FLASH_READ_END (R139). -/
  | flashReadEnd
  /-- FLASH_OPERATION_DONE (R142). -/
  | flashOperationDone
  /-- OPERATION_TIMER_EXPIRY (R147). -/
  | operationTimerExpiry
  /-- DEVICE_ACCEPTS_COMMANDS (R147). -/
  | deviceAcceptsCommands
  /-- READ_ERROR (R157). -/
  | readError (p : Port)
  /-- CLEAR_ERROR (R158). -/
  | clearError (p : Port)
  /-- FIELD_START (R75). -/
  | fieldStart (o : OutputId)
  /-- COMPOSE_LINE (R48), whole or in parts, so that other events may fall within a line (R49, R63, R72; log 33). -/
  | composeLine (o : OutputId) (part : LinePart)
  /-- ECC_CORRECTED (R151): the reader and the burst of the result. -/
  | eccCorrected (r : Reader) (burst : Burst)
  /-- ECC_UNCORRECTABLE (R156): the reader and the burst of the result. -/
  | eccUncorrectable (r : Reader) (burst : Burst)
  /-- RESET_ASSERT (R187). -/
  | resetAssert
  /-- LINK_GAP (R174). -/
  | linkGap (p : Port)
  deriving DecidableEq, Repr

end Sys2Proof
end

