-- ==== Sys2Proof/Config.lean ====
section
/-! DEFINITION. The free values of the model: what the manual leaves unspecified, with no body, so that no proof can
lean on one; and the fixed numbers of Table 0-1. -/

namespace Sys2Proof

/-- The free value for the byte at a flash offset (second argument) when a program or an erase is abandoned by RESET, or
times out, where the bounds of R147 hold it in (R135, R147). The first argument is `State.freeCount` at that moment.
Log 8. -/
opaque Config.abandonedFlashByte : Nat → Nat → Byte

/-- The free value for the byte that a flash read in a mode of some lanes (first argument) returns for an offset when the
flash does not give its own bytes in that mode (R188, Section 11.6). Log 7. -/
opaque Config.strayFlashByte : Nat → Nat → Byte

/-- The free value for the maximum count of a NOTICE READ whose write phase ended before it was written (R174, R181). The
argument is `State.freeCount` at that moment. Log 47. -/
opaque Config.unwrittenMaximum : Nat → Byte

/-- Whether a timing record whose enabled byte is neither 0 nor 1 has its enabled flag set (Table 10-9, R73). Log 17. -/
opaque Config.enabledByte : Byte → Bool

namespace Config

/-- Frame-memory pages (Table 0-1). -/
def pages : Nat := 16384
/-- First page of the pool (R1). -/
def poolFirst : Nat := 64
/-- Pages of the pool (R1). -/
def poolPages : Nat := 16320
/-- Bytes of a page (R9). -/
def pageBytes : Nat := 4096
/-- Entries of the surface table (R5). -/
def surfaceEntries : Nat := 160
/-- Bytes of the fallback poster (Table 0-1). -/
def fallbackBytes : Nat := 172800
/-- What a byte of frame memory that nothing has written reads as. Log 5. -/
def frameBlank : Byte := 0x00
/-- What a byte of the flash that nothing has programmed reads as. Log 6. -/
def flashBlank : Byte := 0xFF

end Config

end Sys2Proof
end

