-- ==== Sys2Proof/Machine/State.lean ====
section
/-! DEFINITION. The state of the FK712 as plain data, its faults, and the state right after a cold reset. -/

namespace Sys2Proof.Machine

/-- What stops the model. -/
inductive Fault where
  /-- ECC_CORRECTED or ECC_UNCORRECTABLE names a burst that frame memory does not have (R150): safe, no reader of the
  part can report it. -/
  | noSuchBurst
  deriving DecidableEq, Repr

/-- Why the model gives a command no meaning. -/
inductive Refusal where
  /-- Raised by a refused arm of `exec` only: the command of that mnemonic has no meaning yet. Safe. -/
  | notModelled (mnemonic : String)
  deriving DecidableEq, Repr

/-- A memory: (address, byte) cells, addresses rising, none equal to what an unlisted address reads as. -/
abbrev Memory := List Host.Cell

/-- Red, green and blue, 0–255 each. -/
structure Rgb where
  r : Nat
  g : Nat
  b : Nat
  deriving DecidableEq, Repr

/-! ## Surfaces (chapter 1) -/

/-- Pixel formats (Table 1-2). -/
inductive Format where
  | pa8888 | rgb565 | a8 | yc420
  deriving DecidableEq, Repr

/-- The accounts of R4, and PART for entry 0. -/
inductive Account where
  | portA | portB | posters | part
  deriving DecidableEq, Repr

/-- Surface kinds (Table 1-2). -/
inductive SurfaceKind where
  | port | poster | fallback
  deriving DecidableEq, Repr

/-- Surface states other than FREE (Table 1-3); FREE is an entry without a surface. -/
inductive SurfaceState where
  | defined | loading | resident | retiring
  deriving DecidableEq, Repr

/-- A surface-table index with a generation (R6). -/
structure Handle where
  index : Nat
  gen : Byte
  deriving DecidableEq, Repr

/-- The fields of a surface-table entry that is not FREE (Table 1-2), with the reference counts of R114. -/
structure Surface where
  owner : Account
  kind : SurfaceKind
  width : Nat
  height : Nat
  format : Format
  byteSize : Nat
  pages : List Nat
  state : SurfaceState
  attached : Option (StreamId × Nat)
  damaged : Bool
  refs : PerPort Nat
  deriving DecidableEq, Repr

/-- An entry of the surface table: a FREE entry holds only its generation (R5). -/
structure SurfaceEntry where
  gen : Byte
  body : Option Surface
  deriving DecidableEq, Repr

/-- One account (R4). Its entry share is `entryShare`. -/
structure AccountRecord where
  budget : Nat
  charged : Nat
  entries : Nat
  deriving DecidableEq, Repr

/-- The surface manager: the surface table, the free list, the quarantined pages and the accounts. -/
structure SurfaceManager where
  entries : List SurfaceEntry
  freeList : List Nat
  quarantined : List Nat
  portA : AccountRecord
  portB : AccountRecord
  posters : AccountRecord
  deriving DecidableEq, Repr

/-! ## Layers (chapter 2) -/

/-- The source of a layer copy (Table 2-1). -/
inductive Source where
  | none
  | surface (h : Handle)
  | stream (i : StreamId)
  deriving DecidableEq, Repr

/-- Filters (Table 2-1). -/
inductive Filter where
  | nearest | bilinear
  deriving DecidableEq, Repr

/-- Layer classes (Table 2-1). -/
inductive LayerClass where
  | essential | decorative
  deriving DecidableEq, Repr

/-- A crop rectangle in source pixels (Table 2-1). -/
structure Crop where
  cx : Nat
  cy : Nat
  cw : Nat
  ch : Nat
  deriving DecidableEq, Repr

/-- One copy of a layer record (Table 2-1). -/
structure LayerCopy where
  output : Option OutputId
  z : Nat
  source : Source
  crop : Crop
  dx : Int
  dy : Int
  dw : Nat
  dh : Nat
  filter : Filter
  alpha : Nat
  fill : Rgb
  cls : LayerClass
  visible : Bool
  deriving DecidableEq, Repr

/-- A layer record (R27). -/
structure LayerRecord where
  active : LayerCopy
  pending : LayerCopy
  deriving DecidableEq, Repr

/-- A LATCH waiting on an output's latch list (R37). -/
structure LatchEntry where
  port : Port
  tag : Byte
  deriving DecidableEq, Repr

/-- What an output keeps of a resolved source for a whole field (R50). -/
structure ResolvedSource where
  surface : Nat
  width : Nat
  height : Nat
  format : Format
  pages : List Nat
  sx : Nat
  sy : Nat
  clampX : Bool
  clampY : Bool
  deriving DecidableEq, Repr

/-- A member of a field layer set: the record's number, the frozen copy, and its resolved source, absent when the
record is empty for the field (R41, R50). -/
structure FieldLayer where
  id : Nat
  copy : LayerCopy
  source : Option ResolvedSource
  deriving DecidableEq, Repr

/-! ## Outputs (chapter 4) -/

/-- The timing record (Table 4-1). -/
structure TimingRecord where
  flag : Bool
  width : Nat
  height : Nat
  htotal : Nat
  vtotal : Nat
  pixelKHz : Nat
  background : Rgb
  lineBudget : Nat
  wakeFields : Nat
  deriving DecidableEq, Repr

/-- Panel states (Table 4-3). -/
inductive PanelState where
  | active | blanked | waking | asleep
  deriving DecidableEq, Repr

/-- Panel wishes (R79). -/
inductive Wish where
  | active | blanked | asleep
  deriving DecidableEq, Repr

/-- A burst read for the line under way: the record, the surface row, the burst, and its 32 bytes, absent where its samples
are substituted (R62, R63, R72). -/
structure Fetched where
  id : Nat
  row : Nat
  burst : Burst
  data : Option (List Byte)
  deriving DecidableEq, Repr

/-- The line an output is composing: the bursts read so far, and how many columns are composed (R48, R72). -/
structure LineWork where
  fetched : List Fetched
  columns : Nat
  deriving DecidableEq, Repr

/-- One output, with its latch list and the internal latches of R46. Of its lines: the number of the line under way or
next, the work on it, the pixels composed and not yet driven, and the pixels driven of the line on the panel (R48, R49,
R67). -/
structure OutputState where
  timing : TimingRecord
  running : Bool
  leadIn : Bool
  fieldCount : Word32
  acc : Nat
  panel : PanelState
  wishes : PerPort (Option Wish)
  forcedBlank : Bool
  pen : Bool
  latches : List LatchEntry
  internal : PerPort Bool
  layers : List FieldLayer
  holdSet : List Nat
  nextLine : Nat
  work : Option LineWork
  ahead : List Rgb
  line : List Rgb
  deriving DecidableEq, Repr

/-! ## Streams (chapter 5) -/

/-- Stream states (Table 5-3). -/
inductive StreamState where
  | idleClosed | opened | primed | running | paused | closing
  deriving DecidableEq, Repr

/-- Slot states (Table 5-2). -/
inductive SlotState where
  | empty | ready | current | releasing
  deriving DecidableEq, Repr

/-- A slot of a stream (Table 5-1). -/
structure Slot where
  surface : Handle
  state : SlotState
  stamp : Option Word32
  deriving DecidableEq, Repr

/-- A stream record (Table 5-1), with the tag of the CLOSE STREAM in flight. -/
structure StreamRecord where
  state : StreamState
  owner : Option Port
  clockOutput : Option OutputId
  slots : List Slot
  current : Option Nat
  ready : List Nat
  clock : Word32
  startStamp : Option Word32
  lastStamp : Option Word32
  closeTag : Option Byte
  deriving DecidableEq, Repr

/-! ## Poster cache (chapter 6) -/

/-- A directory record (Table 6-1). -/
structure DirRecord where
  title : Nat
  offset : Nat
  width : Nat
  height : Nat
  format : Format
  length : Nat
  crc : Word32
  bad : Bool
  deriving DecidableEq, Repr

/-- A pair of the resident map with what was recorded at its load (R113). -/
structure MapEntry where
  title : Nat
  surface : Nat
  width : Nat
  height : Nat
  format : Format
  crc : Word32
  deriving DecidableEq, Repr

/-- A LOAD POSTER waiting on a title (R119). -/
structure Waiter where
  port : Port
  tag : Byte
  deriving DecidableEq, Repr

/-- A load queue entry (R119); `removed` marks one whose surface left the map for damage (R127). -/
structure LoadEntry where
  title : Nat
  waiters : List Waiter
  removed : Bool
  deriving DecidableEq, Repr

/-- A fill under way (R122): the surface, the image in flash, the transaction that is next or under way, the CRC-32
register over the bytes so far. -/
structure Fill where
  title : Nat
  surface : Nat
  offset : Nat
  length : Nat
  imageCrc : Word32
  k : Nat
  crc : Word32
  deriving DecidableEq, Repr

/-- A directory load under way (R112): where the records lie, how many, their CRC, and the bytes read so far. -/
structure DirLoad where
  offset : Nat
  count : Nat
  crc : Word32
  got : List Byte
  deriving DecidableEq, Repr

/-- Read modes (R133). -/
inductive ReadMode where
  | one | two | four
  deriving DecidableEq, Repr

/-- What the loader is doing (R120, R122, R129, R188, R191). -/
inductive LoaderWork where
  /-- It serves no entry. -/
  | idle
  /-- The head entry waits on an overlapping program or erase (R120). -/
  | waiting
  /-- It fills a LOADING surface (R122). -/
  | filling (f : Fill)
  /-- Start-up reads the configuration image in a mode (R188). -/
  | startConfig (m : ReadMode)
  /-- RELOAD DIRECTORY re-reads the configuration image (R129). -/
  | reloadConfig
  /-- It loads the directory, at start-up or for RELOAD DIRECTORY (R112). -/
  | directory (d : DirLoad)
  /-- Start-up loads the fallback poster: the next transaction and the CRC-32 register (R191). -/
  | fallback (offset : Nat) (crcWanted : Word32) (k : Nat) (crc : Word32)
  deriving DecidableEq, Repr

/-- The poster cache and its loader. -/
structure PosterCache where
  directory : Option (List DirRecord)
  map : List MapEntry
  queue : List LoadEntry
  idle : List Nat
  stale : List Nat
  reload : Option Waiter
  work : LoaderWork
  deriving DecidableEq, Repr

/-! ## Catalogue flash (chapter 7) -/

/-- A read transaction or a range of the flash. -/
structure FlashRange where
  offset : Nat
  length : Nat
  deriving DecidableEq, Repr

/-- What a pass-through operation does (R139–R141). -/
inductive FlashOpKind where
  | read (offset length : Nat)
  | program (offset : Nat) (data : List Byte)
  | erase (offset : Nat)
  deriving DecidableEq, Repr

/-- A pass-through operation in a port's queue. -/
structure FlashOp where
  tag : Byte
  kind : FlashOpKind
  deriving DecidableEq, Repr

/-- The requesters of the arbiter (R137). -/
inductive Requester where
  | loader
  | port (p : Port)
  deriving DecidableEq, Repr

/-- The transaction the device carries out (Table 7-2). -/
inductive Grant where
  | loader (r : FlashRange)
  | port (p : Port) (op : FlashOp)
  deriving DecidableEq, Repr

/-- A timer: stopped, or running for a time in µs (log 10). -/
inductive Timer where
  | stopped
  | running (us : Nat)
  deriving DecidableEq, Repr

/-- The arbiter (Table 7-2) with the read mode and the device size it holds (R133). -/
structure Arbiter where
  request : Option FlashRange
  queues : PerPort (List FlashOp)
  grant : Option Grant
  turn : Requester
  loadingRange : Option FlashRange
  reread : Bool
  timer : Timer
  recovering : Bool
  mode : ReadMode
  deviceSize : Nat
  deriving DecidableEq, Repr

/-- What a read of the flash in a lane mode returns (R188; log 7): the flash's bytes; bytes that are not the flash's, as a
flash wired for two lanes gives in 1-lane mode (Section 11.6), where any of the tests may pass; or, of a flash that returns no
answer, bytes that fail the signature test. -/
inductive LaneAnswer where
  | bytes | garbled | silent
  deriving DecidableEq, Repr

/-- How the flash, as the board wires it, answers in each lane mode (R188; log 7). -/
structure LaneWiring where
  one : LaneAnswer
  two : LaneAnswer
  four : LaneAnswer
  deriving DecidableEq, Repr

/-! ## Memory errors (chapter 8) -/

/-- The error capture record (Table 8-1). -/
structure Capture where
  sequence : Nat
  page : Option Nat
  surface : Option Handle
  reader : Option Reader
  offset : Option Nat
  pageAdded : Bool
  locked : Bool
  lost : Bool
  lostCount : Nat
  deriving DecidableEq, Repr

/-- The memory error block. -/
structure MemoryErrors where
  bad : List Nat
  capture : Capture
  fault : Bool
  deriving DecidableEq, Repr

/-! ## Counters (chapter 10) -/

/-- Counters of groups 0 and 1 (Table 10-3). -/
structure OutputCounters where
  fields : Nat
  shed : Nat
  damage : Nat
  deriving DecidableEq, Repr

/-- Counters of groups 2 and 3. -/
structure StreamCounters where
  shown : Nat
  dropped : Nat
  repeated : Nat
  starved : Nat
  deriving DecidableEq, Repr

/-- Counters of group 4. -/
structure MemoryCounters where
  corrected : Nat
  uncorrectable : Nat
  deriving DecidableEq, Repr

/-- Counters of group 5. -/
structure PosterCounters where
  hits : Nat
  misses : Nat
  loads : Nat
  failures : Nat
  evictions : Nat
  deriving DecidableEq, Repr

/-- Counters of groups 6 and 7. -/
structure PortCounters where
  accepted : Nat
  checkError : Nat
  queueFull : Nat
  tooLong : Nat
  eventsLost : Nat
  deriving DecidableEq, Repr

/-- The 31 raw counters (R185); also the shape of a port's baselines (R186). -/
structure Counters where
  output : PerOutput OutputCounters
  stream : PerStream StreamCounters
  memory : MemoryCounters
  posters : PosterCounters
  port : PerPort PortCounters
  deriving DecidableEq, Repr

/-! ## Start-up (chapter 11) -/

/-- The notes of the configuration status (Table 10-9, bits 0–14). -/
structure ConfigNotes where
  defaultsUsed : Bool
  output0Disabled : Bool
  output1Disabled : Bool
  lineBudget0 : Bool
  lineBudget1 : Bool
  wakeFields0 : Bool
  wakeFields1 : Bool
  flashSize : Bool
  directoryCount : Bool
  directoryRange : Bool
  fallbackRange : Bool
  fallbackFailed : Bool
  budgetsReduced : Bool
  timesA : Bool
  timesB : Bool
  deriving DecidableEq, Repr

/-- How a directory load ended (Table 10-8). -/
inductive DirStatus where
  | ok | truncated | noDirectory
  deriving DecidableEq, Repr

/-- The configuration status (R189). -/
structure ConfigStatus where
  mode : ReadMode
  notes : ConfigNotes
  directory : DirStatus
  records : Nat
  deriving DecidableEq, Repr

/-- An accepted RESTART whose completion waits for the end of start-up (R173). -/
structure PendingRestart where
  port : Port
  tag : Byte
  discarded : Nat
  deriving DecidableEq, Repr

/-- The start-up block, and the damage colour of the configuration. -/
structure StartUp where
  resetPin : Bool
  starting : Bool
  straps : PerPort Bool
  status : ConfigStatus
  dirSource : Option (Nat × Nat × Word32)
  fallbackSource : Option (Nat × Word32)
  restart : Option PendingRestart
  damageColour : Rgb
  deriving DecidableEq, Repr

/-! ## Ports (chapters 9 and 10) -/

/-- Port states (Table 9-1). -/
inductive PortStatus where
  | absent | detached | attached | detaching | resetting
  deriving DecidableEq, Repr

/-- Part states (Table 11-1). -/
inductive PartState where
  | starting | running | fault
  deriving DecidableEq, Repr

/-- Completion statuses (Table 10-8). -/
inductive Status where
  | ok | clamped | placeholder | pageBad | directoryTruncated
  | badCommand | notAttached | wrongState | badHandle | notOwner | badGeometry | noSurface | noBudget | noPages
  | inUse | attached | slotBusy | stampOrder | noOutput | outputFull | refLimit | denied | busy | shared
  | staleClear | fault | outOfRange
  | cancelled | flashTimeout | directoryBad
  deriving DecidableEq, Repr

/-- Placeholder reasons (Table 10-8). -/
inductive PlaceholderReason where
  | noDirectory | unknownTitle | badImage | loadBusy | noSpace
  deriving DecidableEq, Repr

/-- Poster conditions that RELEASE POSTER reports (Table 10-8). -/
inductive PosterCondition where
  | pinned | idle | draining | retiring | freed
  deriving DecidableEq, Repr

/-- Poster cache conditions that QUERY POSTER reports (Table 10-8). -/
inductive CacheCondition where
  | absent | queued | loading | resident
  deriving DecidableEq, Repr

/-- The stream report (R93). -/
structure StreamReport where
  stream : StreamId
  state : StreamState
  owner : Option Port
  clockOutput : Option OutputId
  slots : List SlotState
  readyLength : Nat
  clock : Word32
  deriving DecidableEq, Repr

/-- The result of ATTACH (R166). -/
structure AttachReport where
  partCode : Nat
  revision : Nat
  part : PartState
  status : ConfigStatus
  singlePort : Bool
  budget : Nat
  share : Nat
  firstLayer : Nat
  lastLayer : Nat
  maintainer : Bool
  outputs : PerOutput (Option (Nat × Nat))
  deriving DecidableEq, Repr

/-- The result of QUERY POOL (R23). -/
structure PoolReport where
  free : Nat
  reserved : Nat
  allocated : Nat
  quarantined : Nat
  portA : AccountRecord
  portB : AccountRecord
  posters : AccountRecord
  bad : Nat
  deriving DecidableEq, Repr

/-- The result of QUERY POSTER (R125). -/
structure PosterReport where
  hasDirectory : Bool
  listed : Bool
  bad : Bool
  condition : CacheCondition
  handle : Option Handle
  resident : Option (Nat × Bool)
  deriving DecidableEq, Repr

/-- The result fields of a completion (Table 10-7, Table 10-9), one shape for each list of fields of the chapters. -/
inductive Result where
  | none
  | attach (r : AttachReport)
  | detach (cancelled : Nat)
  | restart (part : PartState) (status : ConfigStatus) (singlePort : Bool) (discarded : Nat)
  | subscribe (old new : Byte)
  | statistics (group : Nat) (clear : Bool) (values : List Nat)
  | surface (h : Handle) (width height byteSize pages : Nat)
  | written (mark : List Byte) (discarded : Option Nat)
  | freed (state : Option SurfaceState)
  | pool (r : PoolReport)
  | layer (crop : Crop) (cropClamp stepClamp : Bool)
  | latch (o : OutputId) (count : Word32)
  | panel (o : OutputId) (wish other : Option Wish) (target : Wish) (state : PanelState) (forcedBlank : Bool)
  | stream (r : StreamReport)
  | position (k : Nat)
  | closed (i : StreamId)
  | poster (h : Handle) (title : Nat) (image : Option (Nat × Nat × Format))
  | released (count : Nat) (condition : PosterCondition)
  | posterQuery (r : PosterReport)
  | reload (records removed stale : Nat)
  | flashRead (offset length : Nat) (data : List Byte)
  | flashProgram (offset length : Nat)
  | flashErase (offset : Nat)
  | errors (c : Capture) (fault : Bool) (bad : List Nat)
  | cleared (lost : Bool) (lostCount : Nat)
  | staleClear (sequence : Nat) (locked : Bool)
  deriving DecidableEq, Repr

/-- Notices (Table 10-7). -/
inductive Notice where
  | completion (tag code : Byte) (status : Status) (reason : Option PlaceholderReason) (result : Result)
  | fieldStart (o : OutputId) (count : Word32)
  | slotFreed (i : StreamId) (slot : Nat)
  | panelState (o : OutputId) (state : PanelState) (forcedBlank : Bool) (count : Word32)
  | portChange (p : Port) (state : PortStatus)
  | memoryError (page : Nat) (reader : Reader) (offset : Nat) (surface : Option Handle) (added : Bool)
      (badLength sequence lostCount : Nat)
  | fault (page : Nat) (reader : Reader) (sequence : Nat)
  | streamState (i : StreamId) (state : StreamState) (owner : Option Port) (clockOutput : Option OutputId)
      (clock : Word32)
  deriving DecidableEq, Repr

/-- A command in a port's command queue (R176). -/
structure Frame where
  code : Byte
  tag : Byte
  payload : List Byte
  deriving DecidableEq, Repr

/-- An entry of the in-flight table (R177); its owning block follows from the code (Table 10-10). -/
structure InFlight where
  code : Byte
  tag : Byte
  deriving DecidableEq, Repr

/-- A link port. `answer` is what the part drives in the read slots of the transaction under way (R174). -/
structure PortState where
  status : PortStatus
  resetLine : Bool
  queue : List Frame
  inFlight : List InFlight
  notices : List Notice
  owed : Nat
  lost : Nat
  mask : Byte
  baselines : Counters
  quiet : Timer
  hold : Timer
  attention : Bool
  quietTime : Nat
  holdTime : Nat
  maintainer : Bool
  cancelled : Nat
  answer : Option (List Byte)
  deriving DecidableEq, Repr

/-- The whole part, its flash device, and the queue of commands that wait (log 1). -/
structure State where
  pending : List Instr
  startUp : StartUp
  surfaces : SurfaceManager
  frame : Memory
  layers : List LayerRecord
  outputs : PerOutput OutputState
  streams : PerStream StreamRecord
  cache : PosterCache
  arbiter : Arbiter
  flash : Memory
  lanes : LaneWiring
  errors : MemoryErrors
  ports : PerPort PortState
  counters : Counters
  freeCount : Nat
  deriving DecidableEq, Repr

/-! ## The state after a cold reset -/

/-- All 31 counters at 0 (R185, R186). -/
def Counters.zero : Counters :=
  { output := ⟨⟨0, 0, 0⟩, ⟨0, 0, 0⟩⟩, stream := ⟨⟨0, 0, 0, 0⟩, ⟨0, 0, 0, 0⟩⟩, memory := ⟨0, 0⟩
    posters := ⟨0, 0, 0, 0, 0⟩, port := ⟨⟨0, 0, 0, 0, 0⟩, ⟨0, 0, 0, 0, 0⟩⟩ }

/-- A layer copy after reset (R28). -/
def LayerCopy.reset : LayerCopy :=
  { output := none, z := 0, source := .none, crop := ⟨0, 0, 1, 1⟩, dx := 0, dy := 0, dw := 1, dh := 1
    filter := .nearest, alpha := 255, fill := ⟨0, 0, 0⟩, cls := .decorative, visible := false }

/-- A stream record after reset (R110). -/
def StreamRecord.reset : StreamRecord :=
  { state := .idleClosed, owner := none, clockOutput := none, slots := [], current := none, ready := [], clock := 0
    startStamp := none, lastStamp := none, closeTag := none }

/-- The fallback poster's entry (R5). -/
def SurfaceEntry.fallback : SurfaceEntry :=
  { gen := 0
    body := some { owner := .part, kind := .fallback, width := 240, height := 360, format := .rgb565
                   byteSize := 172800, pages := List.range 43, state := .resident, attached := none
                   damaged := false, refs := ⟨0, 0⟩ } }

/-- The surface manager after a cold reset (R26), before start-up sets the budgets (log 9). -/
def SurfaceManager.reset : SurfaceManager :=
  { entries := SurfaceEntry.fallback :: List.replicate 159 { gen := 0, body := none }
    freeList := List.range' Config.poolFirst Config.poolPages, quarantined := []
    portA := ⟨0, 0, 0⟩, portB := ⟨0, 0, 0⟩, posters := ⟨0, 0, 0⟩ }

/-- A timing record before start-up sets it (log 9). -/
def TimingRecord.blank : TimingRecord :=
  { flag := false, width := 0, height := 0, htotal := 0, vtotal := 0, pixelKHz := 0, background := ⟨0, 0, 0⟩
    lineBudget := 0, wakeFields := 0 }

/-- An output after a cold reset or RESTART, its timing not started (R86, Table 2-2). DESIGN CHOICE: R86 gives the panel state
only from the timing start, BLANKED; the model holds BLANKED before it too (log 9). -/
def OutputState.reset : OutputState :=
  { timing := TimingRecord.blank, running := false, leadIn := false, fieldCount := 0, acc := 0, panel := .blanked
    wishes := ⟨none, none⟩, forcedBlank := false, pen := false, latches := [], internal := ⟨false, false⟩
    layers := [], holdSet := [], nextLine := 0, work := none, ahead := [], line := [] }

/-- The poster cache as start-up begins: empty (R132), its loader on the configuration read (R188). -/
def PosterCache.reset : PosterCache :=
  { directory := none, map := [], queue := [], idle := [], stale := [], reload := none, work := .startConfig .one }

/-- The arbiter as start-up begins: the state of R135 with the 95-byte configuration read requested and granted
(R188, R137). -/
def Arbiter.reset : Arbiter :=
  { request := none, queues := ⟨[], []⟩, grant := some (.loader ⟨0, 95⟩), turn := .loader, loadingRange := none
    reread := true, timer := .stopped, recovering := false, mode := .one, deviceSize := 16777216 }

/-- The capture record after a cold reset (R162). -/
def Capture.reset : Capture :=
  { sequence := 0, page := none, surface := none, reader := none, offset := none, pageAdded := false
    locked := false, lost := false, lostCount := 0 }

/-- No note. -/
def ConfigNotes.none : ConfigNotes :=
  ⟨false, false, false, false, false, false, false, false, false, false, false, false, false, false, false⟩

/-- The start-up block as start-up begins (R187), both straps on (log 4). -/
def StartUp.reset : StartUp :=
  { resetPin := false, starting := true, straps := ⟨true, true⟩
    status := { mode := .one, notes := ConfigNotes.none, directory := .noDirectory, records := 0 }
    dirSource := none, fallbackSource := none, restart := none, damageColour := ⟨0, 0, 0⟩ }

/-- A present port after a cold reset (R184). -/
def PortState.reset : PortState :=
  { status := .detached, resetLine := false, queue := [], inFlight := [], notices := [], owed := 0, lost := 0
    mask := 0, baselines := Counters.zero, quiet := .stopped, hold := .stopped, attention := false, quietTime := 0
    holdTime := 0, maintainer := false, cancelled := 0, answer := none }

/-- The part right after a cold reset with both straps on and a blank flash (R187; log 4). -/
def State.reset : State :=
  { pending := [], startUp := StartUp.reset, surfaces := SurfaceManager.reset, frame := []
    layers := List.replicate 24 ⟨LayerCopy.reset, LayerCopy.reset⟩
    outputs := ⟨OutputState.reset, OutputState.reset⟩, streams := ⟨StreamRecord.reset, StreamRecord.reset⟩
    cache := PosterCache.reset, arbiter := Arbiter.reset, flash := [], lanes := ⟨.bytes, .bytes, .bytes⟩
    errors := { bad := [], capture := Capture.reset, fault := false }
    ports := ⟨PortState.reset, PortState.reset⟩, counters := Counters.zero, freeCount := 0 }

end Sys2Proof.Machine
end

