-- ==== Sys2Proof/Machine/Operands.lean ====
section
/-! DEFINITION. The operand forms: command codes and payload lengths (Table 10-10), the fields of a payload
(Table 10-9), the codes of Table 10-8, the two CRCs, and the bytes of results and notices (Table 10-7). -/

namespace Sys2Proof.Machine

/-! ## Little-endian fields (00 section 0.6.3) -/

/-- The byte at `i` as a number. -/
def u8 (bs : List Byte) (i : Nat) : Nat := (bs.getD i 0).toNat

/-- The 2-byte field at `i`. -/
def u16 (bs : List Byte) (i : Nat) : Nat := u8 bs i + 256 * u8 bs (i + 1)

/-- The 4-byte field at `i`. -/
def u32 (bs : List Byte) (i : Nat) : Nat := u16 bs i + 65536 * u16 bs (i + 2)

/-- The 2-byte two's complement field at `i`. -/
def i16 (bs : List Byte) (i : Nat) : Int :=
  let n := u16 bs i
  if n < 32768 then (n : Int) else (n : Int) - 65536

/-- The colour at `i`. -/
def rgb (bs : List Byte) (i : Nat) : Rgb := ⟨u8 bs i, u8 bs (i + 1), u8 bs (i + 2)⟩

/-- The handle at `i` (Table 10-9). -/
def handleAt (bs : List Byte) (i : Nat) : Handle := ⟨u8 bs i, bs.getD (i + 1) 0⟩

/-- A number as one byte. -/
def b8 (n : Nat) : List Byte := [BitVec.ofNat 8 n]

/-- A number as two bytes. -/
def b16 (n : Nat) : List Byte := [BitVec.ofNat 8 n, BitVec.ofNat 8 (n / 256)]

/-- A number as four bytes. -/
def b32 (n : Nat) : List Byte :=
  [BitVec.ofNat 8 n, BitVec.ofNat 8 (n / 256), BitVec.ofNat 8 (n / 65536), BitVec.ofNat 8 (n / 16777216)]

/-- A flag as one byte. -/
def bFlag (b : Bool) : List Byte := [if b then 1 else 0]

/-- The signature of a configuration image (R188). -/
def imageSignature : Nat := 0x3F71A6C2

/-! ## CRCs -/

/-- One bit of the CRC-32 in reflected bit order (R111). -/
def crc32Bit (c : Word32) : Word32 := if c.getLsbD 0 then (c >>> 1) ^^^ 0xEDB88320#32 else c >>> 1

/-- One byte of the CRC-32 register. -/
def crc32Byte (c : Word32) (b : Byte) : Word32 :=
  crc32Bit (crc32Bit (crc32Bit (crc32Bit (crc32Bit (crc32Bit (crc32Bit (crc32Bit (c ^^^ b.setWidth 32))))))))

/-- The CRC-32 register before the first byte: all ones (R111). -/
def crc32Init : Word32 := 0xFFFFFFFF#32

/-- Runs the CRC-32 register over bytes. -/
def crc32Run (c : Word32) (bs : List Byte) : Word32 := bs.foldl crc32Byte c

/-- The CRC-32 a register stands for: its inversion (R111). -/
def crc32Final (c : Word32) : Word32 := ~~~c

/-- The CRC-32 of a run of bytes (R111). -/
def crc32 (bs : List Byte) : Word32 := crc32Final (crc32Run crc32Init bs)

/-- One bit of the CRC-16 (Section 10.8): polynomial 0x1021, no reflection. -/
def crc16Bit (c : BitVec 16) : BitVec 16 := if c.getLsbD 15 then (c <<< 1) ^^^ 0x1021#16 else c <<< 1

/-- One byte of the CRC-16 register. -/
def crc16Byte (c : BitVec 16) (b : Byte) : BitVec 16 :=
  crc16Bit (crc16Bit (crc16Bit (crc16Bit (crc16Bit (crc16Bit (crc16Bit (crc16Bit
    (c ^^^ (b.setWidth 16 <<< 8)))))))))

/-- The CRC-16 of a run of bytes (Section 10.8): initial value 0xFFFF, no final inversion. -/
def crc16 (bs : List Byte) : BitVec 16 := bs.foldl crc16Byte 0xFFFF#16

/-! ## Commands (Table 10-10) -/

/-- The commands a port takes from its command queue. -/
inductive Cmd where
  | attach | detach | restart | subscribe | readStatistics | defineSurface | writeSurface | freeSurface | queryPool
  | setLayer | clearLayer | latch | setPanel | openStream | startStream | frameReady | pauseStream | resumeStream
  | stopStream | closeStream | loadPoster | releasePoster | queryPoster | reloadDirectory | flashRead
  | flashProgram | flashErase | readError | clearError
  deriving DecidableEq, Repr

/-- The command of a code, if the code is known (Table 10-10). -/
def Cmd.ofCode (c : Byte) : Option Cmd :=
  match c.toNat with
  | 0x01 => some .attach
  | 0x02 => some .detach
  | 0x03 => some .restart
  | 0x08 => some .subscribe
  | 0x09 => some .readStatistics
  | 0x10 => some .defineSurface
  | 0x11 => some .writeSurface
  | 0x12 => some .freeSurface
  | 0x13 => some .queryPool
  | 0x20 => some .setLayer
  | 0x21 => some .clearLayer
  | 0x22 => some .latch
  | 0x23 => some .setPanel
  | 0x30 => some .openStream
  | 0x31 => some .startStream
  | 0x32 => some .frameReady
  | 0x33 => some .pauseStream
  | 0x34 => some .resumeStream
  | 0x35 => some .stopStream
  | 0x36 => some .closeStream
  | 0x40 => some .loadPoster
  | 0x41 => some .releasePoster
  | 0x42 => some .queryPoster
  | 0x43 => some .reloadDirectory
  | 0x50 => some .flashRead
  | 0x51 => some .flashProgram
  | 0x52 => some .flashErase
  | 0x60 => some .readError
  | 0x61 => some .clearError
  | _ => none

/-- The code of a command (Table 10-10). -/
def Cmd.code : Cmd → Byte
  | .attach => 0x01
  | .detach => 0x02
  | .restart => 0x03
  | .subscribe => 0x08
  | .readStatistics => 0x09
  | .defineSurface => 0x10
  | .writeSurface => 0x11
  | .freeSurface => 0x12
  | .queryPool => 0x13
  | .setLayer => 0x20
  | .clearLayer => 0x21
  | .latch => 0x22
  | .setPanel => 0x23
  | .openStream => 0x30
  | .startStream => 0x31
  | .frameReady => 0x32
  | .pauseStream => 0x33
  | .resumeStream => 0x34
  | .stopStream => 0x35
  | .closeStream => 0x36
  | .loadPoster => 0x40
  | .releasePoster => 0x41
  | .queryPoster => 0x42
  | .reloadDirectory => 0x43
  | .flashRead => 0x50
  | .flashProgram => 0x51
  | .flashErase => 0x52
  | .readError => 0x60
  | .clearError => 0x61

/-- Whether a payload of `n` bytes fits the command (Table 10-10). An OPEN STREAM whose length differs from what its
slot count byte says is judged by R91, not here. -/
def Cmd.fits (c : Cmd) (n : Nat) : Bool :=
  match c with
  | .attach | .detach | .restart | .queryPool | .reloadDirectory | .readError => n == 0
  | .subscribe | .clearLayer | .latch | .pauseStream | .resumeStream | .stopStream | .closeStream => n == 1
  | .readStatistics | .freeSurface | .setPanel | .loadPoster | .releasePoster | .queryPoster | .clearError => n == 2
  | .flashErase => n == 4
  | .defineSurface | .startStream => n == 5
  | .frameReady | .flashRead => n == 6
  | .setLayer => n == 29
  | .openStream => 3 ≤ n
  | .flashProgram => 5 ≤ n && n ≤ 260
  | .writeSurface => 17 ≤ n && n ≤ 4112

/-- The commands of the class long (Table 10-10). -/
def Cmd.isLong : Cmd → Bool
  | .detach | .restart | .latch | .closeStream | .loadPoster | .reloadDirectory | .flashRead | .flashProgram
  | .flashErase => true
  | _ => false

/-- The command a frame holds: none when its code is unknown or its payload length does not fit the code (R177). -/
def Frame.cmd? (f : Frame) : Option Cmd :=
  match Cmd.ofCode f.code with
  | some c => if c.fits f.payload.length then some c else none
  | none => none

/-- The bytes of a COMMAND frame (Table 10-5). -/
def frameBytes (code tag : Byte) (payload : List Byte) : List Byte :=
  let body := code :: tag :: (b16 payload.length ++ payload)
  (0xA5#8 :: body) ++ b16 (crc16 body).toNat

/-! ## Codes (Table 10-8) and field encodings (Table 10-9) -/

def Format.ofCode : Nat → Option Format
  | 0 => some .pa8888
  | 1 => some .rgb565
  | 2 => some .a8
  | 3 => some .yc420
  | _ => none

def Format.code : Format → Nat
  | .pa8888 => 0
  | .rgb565 => 1
  | .a8 => 2
  | .yc420 => 3

def outputOfCode : Nat → Option OutputId
  | 0 => some .o0
  | 1 => some .o1
  | _ => none

def outputNum : OutputId → Nat
  | .o0 => 0
  | .o1 => 1

def streamOfCode : Nat → Option StreamId
  | 0 => some .s0
  | 1 => some .s1
  | _ => none

def streamNum : StreamId → Nat
  | .s0 => 0
  | .s1 => 1

def portNum : Port → Nat
  | .a => 0
  | .b => 1

def readerCode : Reader → Nat
  | .output0 => 0
  | .output1 => 1
  | .loader => 2

def Wish.ofCode : Nat → Option Wish
  | 0 => some .active
  | 1 => some .blanked
  | 3 => some .asleep
  | _ => none

def Wish.code : Wish → Nat
  | .active => 0
  | .blanked => 1
  | .asleep => 3

def PanelState.code : PanelState → Nat
  | .active => 0
  | .blanked => 1
  | .waking => 2
  | .asleep => 3

def StreamState.code : StreamState → Nat
  | .idleClosed => 0
  | .opened => 1
  | .primed => 2
  | .running => 3
  | .paused => 4
  | .closing => 5

def SlotState.code : SlotState → Nat
  | .empty => 0
  | .ready => 1
  | .current => 2
  | .releasing => 3

def PortStatus.code : PortStatus → Nat
  | .absent => 0
  | .detached => 1
  | .attached => 2
  | .detaching => 3
  | .resetting => 4

def PartState.code : PartState → Nat
  | .starting => 0
  | .running => 1
  | .fault => 2

def SurfaceState.code : SurfaceState → Nat
  | .defined => 1
  | .loading => 2
  | .resident => 3
  | .retiring => 4

def PosterCondition.code : PosterCondition → Nat
  | .pinned => 0
  | .idle => 1
  | .draining => 2
  | .retiring => 3
  | .freed => 4

def CacheCondition.code : CacheCondition → Nat
  | .absent => 0
  | .queued => 1
  | .loading => 2
  | .resident => 3

def DirStatus.code : DirStatus → Nat
  | .ok => 0
  | .truncated => 1
  | .noDirectory => 2

def PlaceholderReason.code : PlaceholderReason → Nat
  | .noDirectory => 1
  | .unknownTitle => 2
  | .badImage => 3
  | .loadBusy => 4
  | .noSpace => 5

/-- The number of lanes of a read mode. -/
def ReadMode.lanes : ReadMode → Nat
  | .one => 1
  | .two => 2
  | .four => 4

def Status.code : Status → Nat
  | .ok => 0x00
  | .clamped => 0x01
  | .placeholder => 0x02
  | .pageBad => 0x03
  | .directoryTruncated => 0x04
  | .badCommand => 0x10
  | .notAttached => 0x11
  | .wrongState => 0x12
  | .badHandle => 0x13
  | .notOwner => 0x14
  | .badGeometry => 0x15
  | .noSurface => 0x16
  | .noBudget => 0x17
  | .noPages => 0x18
  | .inUse => 0x19
  | .attached => 0x1A
  | .slotBusy => 0x1B
  | .stampOrder => 0x1C
  | .noOutput => 0x1D
  | .outputFull => 0x1E
  | .refLimit => 0x1F
  | .denied => 0x20
  | .busy => 0x21
  | .shared => 0x22
  | .staleClear => 0x23
  | .fault => 0x24
  | .outOfRange => 0x25
  | .cancelled => 0x30
  | .flashTimeout => 0x31
  | .directoryBad => 0x32

def bHandle (h : Handle) : List Byte := b8 h.index ++ [h.gen]

/-- A handle or no surface, 0xFF 0xFF (Table 10-9). -/
def bHandle? : Option Handle → List Byte
  | some h => bHandle h
  | none => [0xFF, 0xFF]

/-- A one-byte number or none, 0xFF (Table 10-9). -/
def b8? : Option Nat → List Byte
  | some n => b8 n
  | none => [0xFF]

/-- A two-byte number, or 0xFFFF where it is absent (log 20). -/
def b16? : Option Nat → List Byte
  | some n => b16 n
  | none => [0xFF, 0xFF]

/-- The 15 note bits of the configuration status (Table 10-9). -/
def ConfigNotes.bits (n : ConfigNotes) : Nat :=
  let bit (b : Bool) (k : Nat) : Nat := if b then 2 ^ k else 0
  bit n.defaultsUsed 0 + bit n.output0Disabled 1 + bit n.output1Disabled 2 + bit n.lineBudget0 3 + bit n.lineBudget1 4
    + bit n.wakeFields0 5 + bit n.wakeFields1 6 + bit n.flashSize 7 + bit n.directoryCount 8 + bit n.directoryRange 9
    + bit n.fallbackRange 10 + bit n.fallbackFailed 11 + bit n.budgetsReduced 12 + bit n.timesA 13 + bit n.timesB 14

/-- The 6 bytes of the configuration status (Table 10-9). -/
def ConfigStatus.bytes (c : ConfigStatus) : List Byte :=
  b8 c.mode.lanes ++ b16 c.notes.bits ++ b8 c.directory.code ++ b16 c.records

def bAccount (a : AccountRecord) : List Byte := b16 a.budget ++ b16 a.charged ++ b8 a.entries

/-- An enabled flag and, if enabled, the active width and height (R166). -/
def bGeometry : Option (Nat × Nat) → List Byte
  | some (w, h) => bFlag true ++ b16 w ++ b16 h
  | none => bFlag false

def StreamReport.bytes (r : StreamReport) : List Byte :=
  b8 (streamNum r.stream) ++ b8 r.state.code ++ b8? (r.owner.map portNum) ++ b8? (r.clockOutput.map outputNum)
    ++ b8 r.slots.length ++ r.slots.flatMap (fun x => b8 x.code) ++ b8 r.readyLength ++ b32 r.clock.toNat

/-- The result fields on the link: those the owning chapter lists, in that order, as Table 10-9 encodes them. The
encodings the tables do not give are log 20. -/
def Result.bytes : Result → List Byte
  | .none => []
  | .attach r =>
      b16 r.partCode ++ b8 r.revision ++ b8 r.part.code ++ r.status.bytes ++ bFlag r.singlePort ++ b16 r.budget
        ++ b8 r.share ++ b8 r.firstLayer ++ b8 r.lastLayer ++ bFlag r.maintainer ++ bGeometry r.outputs.o0
        ++ bGeometry r.outputs.o1
  | .detach n => b8 n
  | .restart p c single n => b8 p.code ++ c.bytes ++ bFlag single ++ b8 n
  | .subscribe old new => [old, new]
  | .statistics g clear vs => b8 g ++ bFlag clear ++ vs.flatMap b32
  | .surface h w ht size pages => bHandle h ++ b16 w ++ b16 ht ++ b32 size ++ b16 pages
  | .written mark discarded =>
      mark ++ (match discarded with | some n => b16 n | Option.none => [])
  | .freed st => b8 ((st.map SurfaceState.code).getD 0)
  | .pool r =>
      b16 r.free ++ b16 r.reserved ++ b16 r.allocated ++ b16 r.quarantined ++ bAccount r.portA ++ bAccount r.portB
        ++ bAccount r.posters ++ b8 r.bad
  | .layer c cropClamp stepClamp =>
      b16 c.cx ++ b16 c.cy ++ b16 c.cw ++ b16 c.ch ++ bFlag cropClamp ++ bFlag stepClamp
  | .latch o n => b8 (outputNum o) ++ b32 n.toNat
  | .panel o w other t st fb =>
      b8 (outputNum o) ++ b8? (w.map Wish.code) ++ b8? (other.map Wish.code) ++ b8 t.code ++ b8 st.code ++ bFlag fb
  | .stream r => r.bytes
  | .position k => b8 k
  | .closed i => b8 (streamNum i)
  | .poster h title image =>
      bHandle h ++ b16 title ++ (match image with | some (w, ht, f) => b16 w ++ b16 ht ++ b8 f.code | Option.none => [])
  | .released n c => b8 n ++ b8 c.code
  | .posterQuery r =>
      bFlag r.hasDirectory ++ bFlag r.listed ++ bFlag r.bad ++ b8 r.condition.code
        ++ (match r.handle with | some h => bHandle h | Option.none => [])
        ++ (match r.resident with | some (n, idle) => b8 n ++ bFlag idle | Option.none => [])
  | .reload records removed stale => b16 records ++ b8 removed ++ b8 stale
  | .flashRead off len data => b32 off ++ b16 len ++ data
  | .flashProgram off len => b32 off ++ b16 len
  | .flashErase off => b32 off
  | .errors c fault bad =>
      b16 c.sequence ++ b16? c.page ++ bHandle? c.surface ++ b8? (c.reader.map readerCode) ++ b16? c.offset
        ++ bFlag c.pageAdded ++ bFlag c.locked ++ bFlag c.lost ++ b8 c.lostCount ++ bFlag fault ++ b8 bad.length
        ++ bad.flatMap b16
  | .cleared lost n => bFlag lost ++ b8 n
  | .staleClear seq locked => b16 seq ++ bFlag locked

/-- The code of a notice's kind (Table 10-7). -/
def Notice.kind : Notice → Nat
  | .completion .. => 0x80
  | .fieldStart .. => 0x81
  | .slotFreed .. => 0x82
  | .panelState .. => 0x83
  | .portChange .. => 0x84
  | .memoryError .. => 0x85
  | .fault .. => 0x86
  | .streamState .. => 0x87

/-- The body of a notice (Table 10-7). -/
def Notice.body : Notice → List Byte
  | .completion tag code st reason res =>
      [tag, code] ++ b8 st.code ++ b8 ((reason.map PlaceholderReason.code).getD 0) ++ res.bytes
  | .fieldStart o n => b8 (outputNum o) ++ b32 n.toNat
  | .slotFreed i k => b8 (streamNum i) ++ b8 k
  | .panelState o st fb n => b8 (outputNum o) ++ b8 st.code ++ bFlag fb ++ b32 n.toNat
  | .portChange p st => b8 (portNum p) ++ b8 st.code
  | .memoryError page r off h added len seq lost =>
      b16 page ++ b8 (readerCode r) ++ b16 off ++ bHandle? h ++ bFlag added ++ b8 len ++ b16 seq ++ b8 lost
  | .fault page r seq => b16 page ++ b8 (readerCode r) ++ b16 seq
  | .streamState i st owner clk t =>
      b8 (streamNum i) ++ b8 st.code ++ b8? (owner.map portNum) ++ b8? (clk.map outputNum) ++ b32 t.toNat

/-- A notice on the link: kind, body length, body (Table 10-7). -/
def Notice.bytes (n : Notice) : List Byte := b8 n.kind ++ b16 n.body.length ++ n.body

end Sys2Proof.Machine
end

