-- ==== Sys2Proof/Machine/Flags.lean ====
section
/-! DEFINITION. The part state, the attention line with its two timers (R183), and the subscription bits (R180). -/

namespace Sys2Proof.Machine

/-- The part state: STARTING while start-up runs, then FAULT or RUNNING by the FAULT flag (Table 11-1, R192). -/
def State.part (s : State) : PartState :=
  if s.startUp.starting then .starting else if s.errors.fault then .fault else .running

/-- Single-port mode: one port is ABSENT (R163). -/
def State.singlePort (s : State) : Bool := !(s.startUp.straps.a && s.startUp.straps.b)

/-- MEMORY ERROR and FAULT are urgent (Table 10-2). -/
def Notice.urgent : Notice → Bool
  | .memoryError .. => true
  | .fault .. => true
  | _ => false

/-- Starts a timer at a time, or expires it at once for a time of 0: the timer and whether the line rises (R183). -/
def startTimer (us : Nat) : Timer × Bool := if us = 0 then (.stopped, true) else (.running us, false)

/-- A notice joins the tail of a port's notice queue (R183): the quiet timer restarts, the hold timer starts if the
queue was empty, and the line rises for an urgent notice or a time of 0. -/
def PortState.join (q : PortState) (n : Notice) : PortState :=
  let quiet := startTimer q.quietTime
  let hold := if q.notices.isEmpty then startTimer q.holdTime else (q.hold, false)
  { q with notices := q.notices ++ [n], quiet := quiet.1, hold := hold.1
           attention := q.attention || n.urgent || quiet.2 || hold.2 }

/-- Both timers stop and the line is deasserted (R183). -/
def PortState.calm (q : PortState) : PortState :=
  { q with quiet := .stopped, hold := .stopped, attention := false }

/-- The subscription bits of Table 10-2. -/
inductive Topic where
  | fieldStart (o : OutputId)
  | panelState
  | portChange
  | streamState
  deriving DecidableEq, Repr

/-- The number of a subscription bit (Table 10-2). -/
def Topic.bit : Topic → Nat
  | .fieldStart .o0 => 0
  | .fieldStart .o1 => 1
  | .panelState => 2
  | .portChange => 3
  | .streamState => 4

/-- Whether a port's mask includes a topic (R180). -/
def PortState.subscribed (q : PortState) (t : Topic) : Bool := q.mask.getLsbD t.bit

end Sys2Proof.Machine
end

