-- ==== Sys2Proof/Machine/Memory.lean ====
section
/-! DEFINITION. Reading and writing a memory of (address, byte) cells in its one canonical form. `d` is the byte an
unlisted address reads as. -/

namespace Sys2Proof.Machine

/-- The byte at address `a`. -/
def Memory.read (d : Byte) : Memory → Nat → Byte
  | [], _ => d
  | c :: m, a => if c.1 = a then c.2 else Memory.read d m a

/-- The cells that hold `bs` from address `a` on: none for a byte an unlisted address reads as. -/
def Memory.cells (d : Byte) : Nat → List Byte → Memory
  | _, [] => []
  | a, b :: bs => if b = d then Memory.cells d (a + 1) bs else (a, b) :: Memory.cells d (a + 1) bs

/-- Writes the run `bs` from address `a` on. -/
def Memory.writeRun (d : Byte) (m : Memory) (a : Nat) (bs : List Byte) : Memory :=
  m.filter (fun c => c.1 < a) ++ Memory.cells d a bs ++ m.filter (fun c => a + bs.length ≤ c.1)

/-- The `n` bytes from address `a` on. -/
def Memory.readRun (d : Byte) (m : Memory) (a n : Nat) : List Byte :=
  let part := m.filter (fun c => a ≤ c.1 ∧ c.1 < a + n)
  (List.range n).map (fun i => Memory.read d part (a + i))

/-- Replaces each of the `n` bytes from address `a` on by what `f` makes of its address and its value. -/
def Memory.updateRun (d : Byte) (m : Memory) (a n : Nat) (f : Nat → Byte → Byte) : Memory :=
  Memory.writeRun d m a ((List.range n).map (fun i => f (a + i) (Memory.read d m (a + i))))

/-- The canonical form: addresses strictly rising, no cell equal to what an unlisted address reads as. -/
abbrev Memory.wf (d : Byte) (m : Memory) : Prop :=
  m.Pairwise (fun x y => x.1 < y.1) ∧ ∀ c ∈ m, c.2 ≠ d

end Sys2Proof.Machine
end

