-- ==== Sys2Proof/Machine/Ops.lean ====
section
/-! DEFINITION. The shared operations of the ports: updates of one port, output or stream, event notices (R179),
completions (R178), the taking of a command (R165, R177), and the end of a teardown (R169, R171). -/

namespace Sys2Proof.Machine

/-! ## Updates of one component -/

/-- Updates one port. -/
def State.modPort (s : State) (p : Port) (f : PortState → PortState) : State :=
  { s with ports := s.ports.set p (f (s.ports.get p)) }

/-- Updates one output. -/
def State.modOut (s : State) (o : OutputId) (f : OutputState → OutputState) : State :=
  { s with outputs := s.outputs.set o (f (s.outputs.get o)) }

/-- Updates one stream. -/
def State.modStream (s : State) (i : StreamId) (f : StreamRecord → StreamRecord) : State :=
  { s with streams := s.streams.set i (f (s.streams.get i)) }

/-- Updates the raw counters. -/
def State.modCounters (s : State) (f : Counters → Counters) : State := { s with counters := f s.counters }

/-- Updates the poster cache. -/
def State.modCache (s : State) (f : PosterCache → PosterCache) : State := { s with cache := f s.cache }

/-- Updates the arbiter. -/
def State.modArbiter (s : State) (f : Arbiter → Arbiter) : State := { s with arbiter := f s.arbiter }

/-- Raises counters of one output. -/
def Counters.onOutput (c : Counters) (o : OutputId) (f : OutputCounters → OutputCounters) : Counters :=
  { c with output := c.output.set o (f (c.output.get o)) }

/-- Raises counters of one stream. -/
def Counters.onStream (c : Counters) (i : StreamId) (f : StreamCounters → StreamCounters) : Counters :=
  { c with stream := c.stream.set i (f (c.stream.get i)) }

/-- Raises counters of one port. -/
def Counters.onPort (c : Counters) (p : Port) (f : PortCounters → PortCounters) : Counters :=
  { c with port := c.port.set p (f (c.port.get p)) }

/-! ## Notices and completions -/

/-- The bound of R176 and R179: notices held plus completions owed. -/
def noticeRoom : Nat := 32

/-- Offers an event notice to a port (R179): an ATTACHED port queues it while held plus owed is below 32, and counts
it as lost otherwise. A port in another state is offered none. -/
def State.notify (p : Port) (n : Notice) (s : State) : State :=
  let q := s.ports.get p
  if q.status = .attached then
    if q.notices.length + q.owed < noticeRoom then s.modPort p (fun q => q.join n)
    else
      (s.modPort p (fun q => { q with lost := satSucc255 q.lost })).modCounters
        (fun c => c.onPort p (fun k => { k with eventsLost := satSucc k.eventsLost }))
  else s

/-- Offers an event notice to a port that subscribes to its topic (R180). -/
def State.notifyIf (t : Topic) (p : Port) (n : Notice) (s : State) : State :=
  if (s.ports.get p).subscribed t then s.notify p n else s

/-- Offers an event notice to each subscribing port, A first. -/
def State.publish (t : Topic) (n : Notice) (s : State) : State :=
  State.notifyIf t .b n (State.notifyIf t .a n s)

/-- PORT CHANGE about `p`, offered to the other port (R167). -/
def State.portChange (p : Port) (s : State) : State :=
  State.notifyIf .portChange p.other (.portChange p (s.ports.get p).status) s

/-- A completion reaches its port (R178): it moves from owed to held, or is discarded in RESETTING. -/
def State.deliver (p : Port) (n : Notice) (s : State) : State :=
  if (s.ports.get p).status = .resetting then s
  else s.modPort p (fun q => { q.join n with owed := q.owed - 1 })

/-- Completes a command that holds no in-flight entry (R178). -/
def State.complete (p : Port) (f : Frame) (st : Status) (res : Result) (s : State) : State :=
  s.deliver p (.completion f.tag f.code st none res)

/-- Completes with PLACEHOLDER and its reason (R117), for a command that holds no in-flight entry. -/
def State.completePlaceholder (p : Port) (f : Frame) (r : PlaceholderReason) (res : Result) (s : State) : State :=
  s.deliver p (.completion f.tag f.code .placeholder (some r) res)

/-- Gives a long command an entry of the in-flight table (R177). -/
def State.enter (p : Port) (f : Frame) (s : State) : State :=
  s.modPort p (fun q => { q with inFlight := q.inFlight ++ [⟨f.code, f.tag⟩] })

/-- Completes a command of the in-flight table: its entry is freed and the completion is delivered (R178). -/
def State.completeHeld (p : Port) (c : Cmd) (tag : Byte) (st : Status) (reason : Option PlaceholderReason)
    (res : Result) (s : State) : State :=
  (s.modPort p (fun q => { q with inFlight := q.inFlight.erase ⟨c.code, tag⟩ })).deliver p
    (.completion tag c.code st reason res)

/-! ## Taking a command -/

/-- Entries of an in-flight table (R177). -/
def inFlightRoom : Nat := 8

/-- Whether a port in this state takes commands from its queue: DETACHED, ATTACHED or DETACHING (R165). -/
def PortStatus.takes : PortStatus → Bool
  | .detached | .attached | .detaching => true
  | .absent | .resetting => false

/-- The head of a port's command queue, if it may be taken now and holds the command `c?` (none: an unknown command),
and the state with the queue's rest (R177). A long command at the head of an ATTACHED port waits while the in-flight
table is full. Nothing is taken while RESET is held or the part is STARTING (R163, R187). DESIGN CHOICE: a frame with a long
command's code whose payload length does not fit it holds no command, so it is taken also while the table is full (log 41). -/
def State.takeHead (p : Port) (c? : Option Cmd) (s : State) : Option (Frame × State) :=
  let q := s.ports.get p
  if s.startUp.resetPin || s.startUp.starting || !q.status.takes then none
  else
    match q.queue with
    | [] => none
    | f :: rest =>
      if f.cmd? ≠ c? then none
      else if q.status = .attached ∧ (c?.map Cmd.isLong).getD false ∧ inFlightRoom ≤ q.inFlight.length then none
      else some (f, s.modPort p (fun q => { q with queue := rest }))

/-- Takes the command `c` from the head of a port's queue: an ATTACHED port hands it to its owning block, any other
completes it with NOT_ATTACHED (R165). When there is nothing to take the state stays (log 2). -/
def State.taking (p : Port) (c : Cmd) (owner : Frame → State → State) (s : State) : State :=
  match s.takeHead p (some c) with
  | none => s
  | some (f, t) =>
    if (s.ports.get p).status = .attached then owner f t else t.complete p f .notAttached .none

/-! ## Accounts and the end of a teardown -/

/-- The account of a port (R4). -/
def accountOf : Port → Account
  | .a => .portA
  | .b => .portB

/-- The record of an account; PART has none (R4). -/
def SurfaceManager.account (m : SurfaceManager) : Account → AccountRecord
  | .portA => m.portA
  | .portB => m.portB
  | .posters => m.posters
  | .part => ⟨0, 0, 0⟩

/-- Replaces the record of an account. -/
def SurfaceManager.setAccount (m : SurfaceManager) (a : Account) (r : AccountRecord) : SurfaceManager :=
  match a with
  | .portA => { m with portA := r }
  | .portB => { m with portB := r }
  | .posters => { m with posters := r }
  | .part => m

/-- Whether the grant belongs to a port. -/
def Arbiter.grantedTo (a : Arbiter) (p : Port) : Bool :=
  match a.grant with
  | some (.port q _) => q == p
  | _ => false

/-- Whether the five blocks have reported their part of a port's teardown done (R169): no internal latch is pending
(R47), the port owns no open stream (R109), the poster cache is done at once (R130), the flash queue is empty and the
grant is another's (R148), and the account has charged 0 (R24). -/
def State.teardownDone (s : State) (p : Port) : Bool :=
  !(s.outputs.o0.internal.get p) && !(s.outputs.o1.internal.get p)
    && s.streams.s0.owner != some p && s.streams.s1.owner != some p
    && (s.arbiter.queues.get p).isEmpty && !(s.arbiter.grantedTo p)
    && (s.surfaces.account (accountOf p)).charged == 0

/-- The tag of the DETACH that is the only entry of an in-flight table (R169). -/
def loneDetach : List InFlight → Option Byte
  | [e] => if e.code = Cmd.detach.code then some e.tag else none
  | _ => none

/-- Ends the teardown of a port whose conditions hold: DETACH completes and the port becomes DETACHED (R169), or a
RESETTING port whose line is released does (R171). -/
def State.settlePort (p : Port) (s : State) : State :=
  let q := s.ports.get p
  match q.status with
  | .detaching =>
    match loneDetach q.inFlight with
    | some tag =>
      if s.teardownDone p then
        State.portChange p
          ((s.completeHeld p .detach tag .ok none (.detach q.cancelled)).modPort p
            (fun q => { q with status := .detached, cancelled := 0 }))
      else s
    | none => s
  | .resetting =>
    if s.teardownDone p && (q.inFlight.isEmpty || (loneDetach q.inFlight).isSome) then
      if q.resetLine then s.modPort p (fun q => { q with inFlight := [] })
      else State.portChange p
        (s.modPort p (fun q => { q with inFlight := [], status := .detached, cancelled := 0 }))
    else s
  | _ => s

/-- Ends every teardown whose conditions hold, port A first. -/
def State.settle (s : State) : State := State.settlePort .b (State.settlePort .a s)

end Sys2Proof.Machine
end

