-- ==== Sys2Proof/Machine/Surfaces.lean ====
section
/-! DEFINITION. Chapter 1: the surface manager, and the meanings of DEFINE SURFACE, WRITE SURFACE, FREE SURFACE and
QUERY POOL. -/

namespace Sys2Proof.Machine

/-! ## Sizes (R9, R10) -/

/-- Byte size of a surface (Table 1-4). -/
def byteSize (f : Format) (w h : Nat) : Nat :=
  match f with
  | .pa8888 => w * h * 4
  | .rgb565 => w * h * 2
  | .a8 => w * h
  | .yc420 => w * h + 2 * ((w / 2) * (h / 2))

/-- Page count: the byte size divided by 4,096, rounded up (R9). -/
def pageCount (n : Nat) : Nat := (n + 4095) / 4096

/-! ## Lookups (R2, R6, R7) -/

/-- The surface of an entry that is not FREE. -/
def State.surfaceAt (s : State) (i : Nat) : Option Surface := (s.surfaces.entries[i]?).bind (·.body)

/-- The handle an entry answers to now. -/
def State.handleOf (s : State) (i : Nat) : Handle := ⟨i, ((s.surfaces.entries[i]?).map (·.gen)).getD 0⟩

/-- Resolves a handle (R6): the surface, if the index is 159 or below, the entry is not FREE and the generations
agree. -/
def State.resolve (s : State) (h : Handle) : Option Surface :=
  match s.surfaces.entries[h.index]? with
  | some e => if e.gen = h.gen then e.body else none
  | none => none

/-- Whether a surface is in either output's hold set: the held question of R20. -/
def State.inHoldSets (s : State) (i : Nat) : Bool := s.outputs.o0.holdSet.contains i || s.outputs.o1.holdSet.contains i

/-- Whether a surface is held: in a hold set or attached to a stream (R7). -/
def State.held (s : State) (i : Nat) : Bool :=
  s.inHoldSets i || ((s.surfaceAt i).map (fun x => x.attached.isSome)).getD false

/-- The owner of a page (R2): the surface whose page list holds it. -/
def State.pageOwner (s : State) (page : Nat) : Option Handle :=
  (s.surfaces.entries.findIdx? (fun e => (e.body.map (fun x => x.pages.contains page)).getD false)).map s.handleOf

/-- Whether a page is bad (R2). -/
def State.isBad (s : State) (page : Nat) : Bool := s.errors.bad.contains page

/-- Page states (Table 1-1). -/
inductive PageState where
  | reserved | free | allocated | quarantined
  deriving DecidableEq, Repr

/-- The state of a page, read from the free list and the page lists (R1; log 24). -/
def State.pageState (s : State) (page : Nat) : PageState :=
  if page < Config.poolFirst then .reserved
  else if s.surfaces.freeList.contains page then .free
  else if (s.pageOwner page).isSome then .allocated
  else .quarantined

/-- The account of an entry counts pages and entries (R4). -/
def entryShare : Account → Nat
  | .portA | .portB => 48
  | .posters => 63
  | .part => 1

/-- The lowest-numbered FREE entry among 1–159 (R5). -/
def SurfaceManager.lowestFree (m : SurfaceManager) : Option Nat :=
  ((m.entries.drop 1).findIdx? (fun e => e.body.isNone)).map (· + 1)

/-! ## Changes of an entry -/

/-- Updates the surface of an entry that is not FREE. -/
def SurfaceManager.modSurface (m : SurfaceManager) (i : Nat) (f : Surface → Surface) : SurfaceManager :=
  match m.entries[i]? with
  | some e => { m with entries := m.entries.set i { e with body := e.body.map f } }
  | none => m

/-- Updates the surface of an entry that is not FREE. -/
def State.modSurface (s : State) (i : Nat) (f : Surface → Surface) : State :=
  { s with surfaces := s.surfaces.modSurface i f }

/-- Sets the source of a copy to none when it is the given handle (R29). -/
def LayerCopy.forget (c : LayerCopy) (h : Handle) : LayerCopy :=
  if c.source = .surface h then { c with source := .none } else c

/-- Sets the source of both copies of a record to none when it is the given handle (R29). -/
def LayerRecord.forget (r : LayerRecord) (h : Handle) : LayerRecord :=
  { active := r.active.forget h, pending := r.pending.forget h }

/-- The surface manager's part of a surface becoming FREE (R18): good pages join the free list in page list order, bad
ones become QUARANTINED, the account is uncharged, and the generation steps. -/
def SurfaceManager.release (m : SurfaceManager) (i : Nat) (gen : Byte) (x : Surface) (bad : List Nat) :
    SurfaceManager :=
  let a := m.account x.owner
  { m.setAccount x.owner { a with charged := a.charged - x.pages.length, entries := a.entries - 1 } with
    entries := m.entries.set i { gen := gen + 1, body := none }
    freeList := m.freeList ++ x.pages.filter (fun p => !bad.contains p)
    quarantined := m.quarantined ++ x.pages.filter (fun p => bad.contains p) }

/-- A surface becomes FREE (R18), and the layer copies that name it lose their source (R29). Entry 0 is never freed
(R5). -/
def State.becomeFree (i : Nat) (s : State) : State :=
  match s.surfaces.entries[i]? with
  | some { gen := g, body := some x } =>
    if x.kind = .fallback then s
    else
      { s with surfaces := s.surfaces.release i g x s.errors.bad
               layers := s.layers.map (fun r => r.forget ⟨i, g⟩) }
  | _ => s

/-- A free taken for a DEFINED or RESIDENT surface: RETIRING if held, FREE otherwise (R16, R20, R24). -/
def State.retireOrFree (i : Nat) (s : State) : State :=
  if s.held i then s.modSurface i (fun x => { x with state := .retiring }) else s.becomeFree i

/-- The indices of the surface table. -/
def surfaceIndices : List Nat := List.range Config.surfaceEntries

/-- Whether a surface is RETIRING and no longer held (R17). -/
def State.retired (s : State) (i : Nat) : Bool :=
  match s.surfaceAt i with
  | some x => x.state == .retiring && !s.held i
  | none => false

/-- The surface manager's test of R17: RETIRING surfaces no longer held become FREE, in ascending order of index. -/
def State.freeRetired (s : State) : State :=
  surfaceIndices.foldl (fun t i => if t.retired i then t.becomeFree i else t) s

/-- An allocation's checks of the account (R12, R19). -/
def SurfaceManager.allocationRefusal (m : SurfaceManager) (a : Account) (pages : Nat) : Option Status :=
  let r := m.account a
  if entryShare a ≤ r.entries then some .noSurface
  else if r.budget < r.charged + pages then some .noBudget
  else if m.freeList.length < pages then some .noPages
  else none

/-- Allocates a surface on an entry: pages from the head of the free list, the account charged (R3, R12, R19). The
generation is left as the entry held it. -/
def SurfaceManager.allocate (m : SurfaceManager) (i : Nat) (a : Account) (kind : SurfaceKind) (st : SurfaceState)
    (f : Format) (w h : Nat) : SurfaceManager :=
  let size := byteSize f w h
  let n := pageCount size
  let r := m.account a
  let gen := ((m.entries[i]?).map (·.gen)).getD 0
  { m.setAccount a { r with charged := r.charged + n, entries := r.entries + 1 } with
    entries := m.entries.set i
      { gen := gen
        body := some { owner := a, kind := kind, width := w, height := h, format := f, byteSize := size
                       pages := m.freeList.take n, state := st, attached := none, damaged := false
                       refs := ⟨0, 0⟩ } }
    freeList := m.freeList.drop n }

/-! ## The write path (R14) -/

/-- The part of the run `bs` at offset `off` that falls in page list entry `k`: its offset in the page and its
bytes. -/
def pageSlice (k off : Nat) (bs : List Byte) : Nat × List Byte :=
  let first := max off (k * 4096)
  let last := min (off + bs.length) ((k + 1) * 4096)
  (first - k * 4096, (bs.drop (first - off)).take (last - first))

/-- Writes the run `bs` at byte offset `off` of a surface, over its pages from entry `k` on; bytes of bad pages are
discarded. Answers the memory and the count of discarded bytes (R14). -/
def writePages (bad : List Nat) (off : Nat) (bs : List Byte) : Nat → List Nat → Memory → Memory × Nat
  | _, [], m => (m, 0)
  | k, page :: pages, m =>
    let part := pageSlice k off bs
    if part.2.isEmpty then writePages bad off bs (k + 1) pages m
    else if bad.contains page then
      let rest := writePages bad off bs (k + 1) pages m
      (rest.1, rest.2 + part.2.length)
    else writePages bad off bs (k + 1) pages (m.writeRun Config.frameBlank (page * 4096 + part.1) part.2)

/-- The write path of R14 over a page list: the state and the count of discarded bytes. -/
def State.writeSurface (s : State) (pages : List Nat) (off : Nat) (bs : List Byte) : State × Nat :=
  let r := writePages s.errors.bad off bs 0 pages s.frame
  ({ s with frame := r.1 }, r.2)

/-! ## Naming by layers (R29, R35) -/

/-- Whether a copy names a surface (R29). -/
def State.copyNames (s : State) (c : LayerCopy) (i : Nat) : Bool :=
  match c.output, c.source with
  | some _, .surface h => h.index == i && (s.resolve h).isSome
  | _, _ => false

/-- The first layer record of a port (R27). -/
def firstLayer : Port → Nat
  | .a => 0
  | .b => 12

/-- Whether a layer id belongs to a port (R27). -/
def ownsLayer (p : Port) (id : Nat) : Bool := firstLayer p ≤ id && id < firstLayer p + 12

/-- Whether a pending copy of a port's records names a surface (R35). -/
def State.pendingNames (s : State) (p : Port) (i : Nat) : Bool :=
  ((s.layers.drop (firstLayer p)).take 12).any (fun r => s.copyNames r.pending i)

/-! ## DEFINE SURFACE (R11, R12) -/

/-- The geometry checks and clamps of R11: the size used, or none for BAD_GEOMETRY. -/
def defineGeometry (w h code : Nat) : Option (Format × Nat × Nat) :=
  match Format.ofCode code with
  | none => none
  | some f =>
    if w = 0 ∨ h = 0 then none
    else
      let even (n : Nat) : Nat := if f = .yc420 ∧ n % 2 = 1 then n + 1 else n
      let w' := even (min w 4096)
      let h' := even (min h 4096)
      if 4096 < pageCount (byteSize f w' h') then none else some (f, w', h')

/-- DEFINE SURFACE by its owning block. -/
def defineSurface (p : Port) (f : Frame) (s : State) : State :=
  let w := u16 f.payload 0
  let h := u16 f.payload 2
  match defineGeometry w h (u8 f.payload 4) with
  | none => s.complete p f .badGeometry .none
  | some (fmt, w', h') =>
    let size := byteSize fmt w' h'
    match s.surfaces.allocationRefusal (accountOf p) (pageCount size) with
    | some st => s.complete p f st .none
    | none =>
      if s.errors.fault then s.complete p f .fault .none
      else
        match s.surfaces.lowestFree with
        | none => s.complete p f .noSurface .none
        | some i =>
          let t := { s with surfaces := s.surfaces.allocate i (accountOf p) .port .defined fmt w' h' }
          t.complete p f (if w' = w ∧ h' = h then .ok else .clamped)
            (.surface (t.handleOf i) w' h' size (pageCount size))

/-- DEFINE_SURFACE (R11, R12). -/
def execDefineSurface (p : Port) (s : State) : Host.Outcome State Fault Refusal :=
  .next (s.taking p .defineSurface (defineSurface p))

/-! ## WRITE SURFACE (R13, R14) -/

/-- Whether a surface is a frame slot that is not EMPTY (R13). -/
def State.slotBusy (s : State) (x : Surface) : Bool :=
  match x.attached with
  | some (i, k) => (((s.streams.get i).slots[k]?).map (fun y => y.state != .empty)).getD false
  | none => false

/-- The first check of R13 that fails. -/
def State.writeRefusal (s : State) (p : Port) (h : Handle) (off count len : Nat) : Option Status :=
  if count ≠ len then some .badCommand
  else
    match s.resolve h with
    | none => some .badHandle
    | some x =>
      if x.owner ≠ accountOf p then some .notOwner
      else if x.state ≠ .defined then some .wrongState
      else if s.slotBusy x then some .slotBusy
      else if x.byteSize < off + len then some .badGeometry
      else if s.errors.fault then some .fault
      else none

/-- WRITE SURFACE by its owning block. Its payload: handle, offset, data count, write mark, data (Table 10-10); the
mark is returned unchanged (log 21). -/
def writeSurface (p : Port) (f : Frame) (s : State) : State :=
  let h := handleAt f.payload 0
  let off := u32 f.payload 2
  let data := f.payload.drop 16
  let mark := (f.payload.drop 8).take 8
  match s.writeRefusal p h off (u16 f.payload 6) data.length with
  | some st => s.complete p f st (.written mark none)
  | none =>
    let r := s.writeSurface (((s.resolve h).map (·.pages)).getD []) off data
    if r.2 = 0 then r.1.complete p f .ok (.written mark none)
    else r.1.complete p f .pageBad (.written mark (some r.2))

/-- WRITE_SURFACE (R13, R14). -/
def execWriteSurface (p : Port) (s : State) : Host.Outcome State Fault Refusal :=
  .next (s.taking p .writeSurface (writeSurface p))

/-! ## FREE SURFACE (R15, R16) -/

/-- The first check of R15 that fails. -/
def State.freeRefusal (s : State) (p : Port) (h : Handle) : Option Status :=
  match s.resolve h with
  | none => some .badHandle
  | some x =>
    if x.owner ≠ accountOf p then some .notOwner
    else if x.state = .retiring then some .wrongState
    else if x.attached.isSome then some .attached
    else if s.pendingNames p h.index then some .inUse
    else none

/-- FREE SURFACE by its owning block. -/
def freeSurface (p : Port) (f : Frame) (s : State) : State :=
  let h := handleAt f.payload 0
  match s.freeRefusal p h with
  | some st => s.complete p f st .none
  | none =>
    let t := s.retireOrFree h.index
    t.complete p f .ok (.freed ((t.surfaceAt h.index).map (·.state)))

/-- FREE_SURFACE (R15, R16). -/
def execFreeSurface (p : Port) (s : State) : Host.Outcome State Fault Refusal :=
  .next (s.taking p .freeSurface (freeSurface p))

/-! ## QUERY POOL (R23) -/

/-- The pages in the page lists of entries 1–159: the ALLOCATED pages (R1). -/
def SurfaceManager.allocatedPages (m : SurfaceManager) : Nat :=
  ((m.entries.drop 1).map (fun e => ((e.body.map (fun x => x.pages.length)).getD 0))).sum

/-- The figures of QUERY POOL (R23). -/
def State.poolReport (s : State) : PoolReport :=
  { free := s.surfaces.freeList.length, reserved := Config.poolFirst, allocated := s.surfaces.allocatedPages
    quarantined := s.surfaces.quarantined.length, portA := s.surfaces.portA, portB := s.surfaces.portB
    posters := s.surfaces.posters, bad := s.errors.bad.length }

/-- QUERY POOL by its owning block. -/
def queryPool (p : Port) (f : Frame) (s : State) : State := s.complete p f .ok (.pool s.poolReport)

/-- QUERY_POOL (R23). -/
def execQueryPool (p : Port) (s : State) : Host.Outcome State Fault Refusal :=
  .next (s.taking p .queryPool (queryPool p))

/-! ## Teardown (R24) -/

/-- The surface manager's part of a port's teardown (R24): every DEFINED surface of the account is freed, in ascending
order, RETIRING if held. -/
def State.tearSurfaces (p : Port) (s : State) : State :=
  surfaceIndices.foldl
    (fun t i =>
      match t.surfaceAt i with
      | some x => if x.owner = accountOf p ∧ x.state = .defined then t.retireOrFree i else t
      | none => t) s

end Sys2Proof.Machine
end

