-- ==== Sys2Proof/Machine/Pinning.lean ====
section
/-! DEFINITION. Chapter 6, the lists of the poster cache: pinning, the idle and stale lists, draining, and the removal
of damaged posters (R113–R116, R127). -/

namespace Sys2Proof.Machine

/-- Whether a surface is a POSTER surface. -/
def State.isPoster (s : State) (i : Nat) : Bool :=
  match s.surfaceAt i with
  | some x => x.kind == .poster
  | none => false

/-- The state of a surface that is not FREE. -/
def State.surfaceStateOf (s : State) (i : Nat) : Option SurfaceState := (s.surfaceAt i).map (·.state)

/-- Whether a POSTER surface is named by layers: by any copy of any record (R36). -/
def State.namedByLayers (s : State) (i : Nat) : Bool :=
  s.layers.any (fun r => s.copyNames r.active i || s.copyNames r.pending i)

/-- Whether either port counts a reference on a surface (R114). -/
def State.referenced (s : State) (i : Nat) : Bool :=
  match s.surfaceAt i with
  | some x => 0 < x.refs.a || 0 < x.refs.b
  | none => false

/-- Whether a poster surface is pinned (R114). -/
def State.pinned (s : State) (i : Nat) : Bool := s.referenced i || s.namedByLayers i

/-- Whether the resident map holds a surface (R113). -/
def State.inMap (s : State) (i : Nat) : Bool := s.cache.map.any (fun e => e.surface == i)

/-- The cache's free request for a POSTER surface (R20): LOADING becomes FREE at once, RESIDENT becomes RETIRING if
held and FREE otherwise, RETIRING stays. -/
def State.freePoster (i : Nat) (s : State) : State :=
  match s.surfaceAt i with
  | some x =>
    if x.kind ≠ .poster then s
    else
      match x.state with
      | .loading => s.becomeFree i
      | .resident => s.retireOrFree i
      | _ => s
  | none => s

/-- A surface joins the tail of the idle list, once (R115). -/
def State.joinIdle (i : Nat) (s : State) : State :=
  s.modCache (fun c => if c.idle.contains i then c else { c with idle := c.idle ++ [i] })

/-- The cache acts on a poster surface after an event that can unpin it (R114). A draining surface is one that stays
in the map and on neither list (R115; log 25). -/
def State.unpinEvent (i : Nat) (s : State) : State :=
  if s.pinned i || !s.isPoster i then s
  else
    match s.surfaceStateOf i with
    | some .resident =>
      if s.inMap i then (if s.inHoldSets i then s else s.joinIdle i)
      else if s.cache.stale.contains i then
        (s.modCache (fun c => { c with stale := c.stale.erase i })).freePoster i
      else s
    | _ => s

/-- Whether a surface is draining: in the map, RESIDENT, unpinned and not on the idle list (Table 6-2). -/
def State.draining (s : State) (i : Nat) : Bool :=
  s.inMap i && s.surfaceStateOf i == some .resident && !s.pinned i && !s.cache.idle.contains i

/-- At a hold-set replacement each draining surface found unheld joins the idle list, in ascending order (R115). -/
def State.drainToIdle (s : State) : State :=
  surfaceIndices.foldl (fun t i => if t.draining i && !t.inHoldSets i then t.joinIdle i else t) s

/-- Takes a surface out of the map. -/
def State.unmap (i : Nat) (s : State) : State :=
  s.modCache (fun c => { c with map := c.map.filter (fun e => e.surface ≠ i) })

/-- The cache removes a RESIDENT surface from the map (R116): pinned, it joins the stale list; unpinned, it leaves the
idle list and is given back. -/
def State.removeResident (i : Nat) (s : State) : State :=
  let t := s.unmap i
  if s.pinned i then t.modCache (fun c => if c.stale.contains i then c else { c with stale := c.stale ++ [i] })
  else (t.modCache (fun c => { c with idle := c.idle.erase i })).freePoster i

/-- Marks the load queue's head as one whose surface left the map for damage (R127). -/
def markHeadRemoved : List LoadEntry → List LoadEntry
  | [] => []
  | e :: q => { e with removed := true } :: q

/-- The cache's answer to a damage report (R126, R127). -/
def State.damagedPoster (i : Nat) (s : State) : State :=
  if s.inMap i then
    match s.surfaceStateOf i with
    | some .resident => s.removeResident i
    | some .loading => (s.unmap i).modCache (fun c => { c with queue := markHeadRemoved c.queue })
    | _ => s.unmap i
  else s

/-- The POSTER surfaces that were named by layers before a change and are not after it, ascending (R36). -/
def unnamedBetween (s t : State) : List Nat :=
  surfaceIndices.filter (fun i => s.isPoster i && s.namedByLayers i && t.isPoster i && !t.namedByLayers i)

/-- The layer block's layer-unnamed reports after a change of copies, one by one in ascending order (R36). -/
def State.reportUnnamed (before s : State) : State :=
  (unnamedBetween before s).foldl (fun t i => t.unpinEvent i) s

end Sys2Proof.Machine
end

