-- ==== Sys2Proof/Machine/Panels.lean ====
section
/-! DEFINITION. Chapter 4: which outputs are enabled, the timing start, the panel wishes and SET PANEL. -/

namespace Sys2Proof.Machine

/-- Whether the five fields of R73 lie within the ranges of Table 4-1. -/
def TimingRecord.inRange (t : TimingRecord) : Bool :=
  320 ≤ t.width && t.width ≤ 4096 && 240 ≤ t.height && t.height ≤ 4096
    && t.width + 16 ≤ t.htotal && t.htotal ≤ 8192 && t.height + 4 ≤ t.vtotal && t.vtotal ≤ 8192
    && 25000 ≤ t.pixelKHz && t.pixelKHz ≤ 300000

/-- Whether a timing record enables its output (R73). -/
def TimingRecord.enabled (t : TimingRecord) : Bool := t.flag && t.inRange

/-- Whether an output is enabled (R73). -/
def State.outputEnabled (s : State) (o : OutputId) : Bool := (s.outputs.get o).timing.enabled

/-- The enabled output a number names, if any: the NO_OUTPUT test. -/
def State.enabledOutput (s : State) (n : Nat) : Option OutputId :=
  match outputOfCode n with
  | some o => if s.outputEnabled o then some o else none
  | none => none

/-- Starts an output's timing in a panel state: counts at 0, panel enable asserted, lead-in field begun (R74). -/
def OutputState.start (q : OutputState) (st : PanelState) : OutputState :=
  { q with running := true, leadIn := true, fieldCount := 0, acc := 0, panel := st, pen := true, nextLine := 0
           work := none, ahead := [], line := [] }

/-- The more awake of two wishes (R79). -/
def Wish.max : Wish → Wish → Wish
  | .active, _ | _, .active => .active
  | .blanked, _ | _, .blanked => .blanked
  | .asleep, .asleep => .asleep

/-- The target of an output: the most awake of the wishes that are not none, BLANKED when both are none (R79,
Table 4-4). -/
def panelTarget (w : PerPort (Option Wish)) : Wish :=
  match w.a, w.b with
  | none, none => .blanked
  | some x, none => x
  | none, some y => y
  | some x, some y => x.max y

/-- Offers PANEL STATE for an output as it now stands (R84). -/
def State.panelNotice (o : OutputId) (s : State) : State :=
  let q := s.outputs.get o
  s.publish .panelState (.panelState o q.panel q.forcedBlank q.fieldCount)

/-- What an output does at a change of its target (R81): an ASLEEP output wakes to WAKING or BLANKED at once, any
other waits for its field start. -/
def State.targetChanged (o : OutputId) (target : Wish) (s : State) : State :=
  if (s.outputs.get o).panel = .asleep then
    match target with
    | .active => (s.modOut o (fun q => q.start .waking)).panelNotice o
    | .blanked => (s.modOut o (fun q => q.start .blanked)).panelNotice o
    | .asleep => s
  else s

/-- Sets a port's wish on an enabled output, and acts on a change of target (R79, R81). A disabled output holds no
wish. -/
def State.setWish (p : Port) (w : Option Wish) (o : OutputId) (s : State) : State :=
  if s.outputEnabled o then
    let old := panelTarget (s.outputs.get o).wishes
    let t := s.modOut o (fun q => { q with wishes := q.wishes.set p w })
    let new := panelTarget (t.outputs.get o).wishes
    if new = old then t else t.targetChanged o new
  else s

/-- Sets a port's wish on both outputs (R79). DESIGN CHOICE: output 0 acts first (log 34). -/
def State.setWishes (p : Port) (w : Option Wish) (s : State) : State :=
  State.setWish p w .o1 (State.setWish p w .o0 s)

/-- SET PANEL by its owning block (R80). -/
def setPanel (p : Port) (f : Frame) (s : State) : State :=
  match Wish.ofCode (u8 f.payload 1) with
  | none => s.complete p f .badCommand .none
  | some w =>
    match s.enabledOutput (u8 f.payload 0) with
    | none => s.complete p f .noOutput .none
    | some o =>
      let t := State.setWish p (some w) o s
      let q := t.outputs.get o
      t.complete p f .ok
        (.panel o (q.wishes.get p) (q.wishes.get p.other) (panelTarget q.wishes) q.panel q.forcedBlank)

/-- SET_PANEL (R80). -/
def execSetPanel (p : Port) (s : State) : Host.Outcome State Fault Refusal :=
  .next (s.taking p .setPanel (setPanel p))

/-! ## The field start's share (R77, R82, R83) -/

/-- N of R77. -/
def TimingRecord.advanceN (t : TimingRecord) : Nat := 90000 * t.htotal * t.vtotal

/-- D of R77. -/
def TimingRecord.advanceD (t : TimingRecord) : Nat := t.pixelKHz * 1000

/-- The panel state settled at a field start (Table 4-5), from the state held, the target, the field count and the
wake fields. -/
def settlePanel (held : PanelState) (target : Wish) (count wake : Nat) : PanelState :=
  match held, target with
  | _, .asleep => .asleep
  | _, .blanked => .blanked
  | .waking, .active => if count ≤ wake then .waking else .active
  | _, .active => .active

end Sys2Proof.Machine
end

