-- ==== Sys2Proof/Machine/Layers.lean ====
section
/-! DEFINITION. Chapter 2: the layer block: SET LAYER, CLEAR LAYER, LATCH, the latch of a field start, the field layer
set, the hold set, and a port's layer teardown. -/

namespace Sys2Proof.Machine

/-! ## SET LAYER (R30–R33) -/

/-- Clamps one axis of a crop against a source of size `n`: the start and the length (R33). -/
def clampAxis (start len n : Nat) : Nat × Nat :=
  let start' := if n ≤ start then n - 1 else start
  (start', if len = 0 then 1 else if n < start' + len then n - start' else len)

/-- Clamps a crop against a source of width `w` and height `h` (R33). -/
def Crop.clamp (c : Crop) (w h : Nat) : Crop :=
  let x := clampAxis c.cx c.cw w
  let y := clampAxis c.cy c.ch h
  ⟨x.1, y.1, x.2, y.2⟩

/-- The raw scale step of one axis: floor(crop × 65,536 / destination) (R33, R52). -/
def rawStep (crop dest : Nat) : Nat := crop * 65536 / dest

/-- Whether a raw step lies outside the limits (R33, R52). -/
def stepClamped (step : Nat) : Bool := step < 8192 || 262144 < step

/-- The step used in composition (R52). -/
def clampStep (step : Nat) : Nat := max 8192 (min step 262144)

/-- The copy a SET LAYER payload gives, or none where a field lies outside its encoded range (R30 step 2, Table 10-9;
log 16). The source is not resolved here. -/
def decodeLayer (b : List Byte) : Option (LayerCopy × Option Nat) := do
  let output ← match u8 b 1 with
    | 0xFF => some none
    | n => (outputOfCode n).map some
  let (source, streamNumber) ← match u8 b 3 with
    | 0 => some (Source.none, none)
    | 1 => some (Source.surface (handleAt b 4), none)
    | 2 => some ((match streamOfCode (u8 b 4) with | some i => Source.stream i | none => Source.none), some (u8 b 4))
    | _ => none
  let filter ← match u8 b 22 with
    | 0 => some Filter.nearest
    | 1 => some Filter.bilinear
    | _ => none
  let cls ← match u8 b 27 with
    | 0 => some LayerClass.essential
    | 1 => some LayerClass.decorative
    | _ => none
  let visible ← match u8 b 28 with
    | 0 => some false
    | 1 => some true
    | _ => none
  let dx := i16 b 14
  let dy := i16 b 16
  let dw := u16 b 18
  let dh := u16 b 20
  if -4096 ≤ dx ∧ dx ≤ 8191 ∧ -4096 ≤ dy ∧ dy ≤ 8191 ∧ 1 ≤ dw ∧ dw ≤ 8192 ∧ 1 ≤ dh ∧ dh ≤ 8192 then
    some
      ({ output := output, z := u8 b 2, source := source, crop := ⟨u16 b 6, u16 b 8, u16 b 10, u16 b 12⟩
         dx := dx, dy := dy, dw := dw, dh := dh, filter := filter, alpha := u8 b 23, fill := rgb b 24
         cls := cls, visible := visible }, streamNumber)
  else none

/-- The source check of R31: the status that refuses it, if any. `streamNumber` is the number of a stream source. -/
def State.sourceRefusal (s : State) (p : Port) (c : LayerCopy) (streamNumber : Option Nat) : Option Status :=
  match streamNumber with
  | some n =>
    match streamOfCode n with
    | none => some .badHandle
    | some i => if (s.streams.get i).state = .idleClosed then some .wrongState else none
  | none =>
    match c.source with
    | .surface h =>
      match s.resolve h with
      | none => some .badHandle
      | some x =>
        if (x.kind = .port ∧ x.owner ≠ accountOf p) ∨ (x.kind = .poster ∧ x.refs.get p = 0) then some .notOwner
        else none
    | _ => none

/-- Whether a record counts against an output: its active or its pending copy names it (R32). -/
def LayerRecord.names (r : LayerRecord) (o : OutputId) : Bool := r.active.output == some o || r.pending.output == some o

/-- The number of records that count against an output (R32). -/
def layerCount (layers : List LayerRecord) (o : OutputId) : Nat := (layers.filter (fun r => r.names o)).length

/-- Replaces the pending copy of a record. -/
def setPending (layers : List LayerRecord) (id : Nat) (c : LayerCopy) : List LayerRecord :=
  match layers[id]? with
  | some r => layers.set id { r with pending := c }
  | none => layers

/-- The capacity test of R32, with the new pending copy in place. -/
def outputFull (layers : List LayerRecord) (id : Nat) (c : LayerCopy) : Bool :=
  match c.output with
  | some o => 12 < layerCount (setPending layers id c) o
  | none => false

/-- The crop as stored: clamped against a surface source, as given otherwise (R33). -/
def State.storedCrop (s : State) (c : LayerCopy) : Crop :=
  match c.source with
  | .surface h =>
    match s.resolve h with
    | some x => c.crop.clamp x.width x.height
    | none => c.crop
  | _ => c.crop

/-- Whether a copy's steps are clamped; not tested for source none (R33). -/
def LayerCopy.stepClamp (c : LayerCopy) : Bool :=
  match c.source with
  | .none => false
  | _ => stepClamped (rawStep c.crop.cw c.dw) || stepClamped (rawStep c.crop.ch c.dh)

/-- Writes a pending copy and reports the posters it unnames (R33, R36). -/
def State.writePending (id : Nat) (c : LayerCopy) (s : State) : State :=
  State.reportUnnamed s { s with layers := setPending s.layers id c }

/-- SET LAYER by its owning block (R30–R33). -/
def setLayer (p : Port) (f : Frame) (s : State) : State :=
  let id := u8 f.payload 0
  if !ownsLayer p id then s.complete p f .notOwner .none
  else
    match decodeLayer f.payload with
    | none => s.complete p f .badGeometry .none
    | some (c, streamNumber) =>
      if ((c.output.map s.outputEnabled).getD true) = false then s.complete p f .noOutput .none
      else
        match s.sourceRefusal p c streamNumber with
        | some st => s.complete p f st .none
        | none =>
          if outputFull s.layers id c then s.complete p f .outputFull .none
          else
            let crop := s.storedCrop c
            let c' := { c with crop := crop }
            let cropClamp := decide (crop ≠ c.crop)
            let t := s.writePending id c'
            t.complete p f (if cropClamp || c'.stepClamp then .clamped else .ok) (.layer crop cropClamp c'.stepClamp)

/-- SET_LAYER (R30–R33). -/
def execSetLayer (p : Port) (s : State) : Host.Outcome State Fault Refusal :=
  .next (s.taking p .setLayer (setLayer p))

/-! ## CLEAR LAYER (R34) -/

/-- CLEAR LAYER by its owning block. -/
def clearLayer (p : Port) (f : Frame) (s : State) : State :=
  let id := u8 f.payload 0
  if !ownsLayer p id then s.complete p f .notOwner .none
  else
    let t :=
      match s.layers[id]? with
      | some r => s.writePending id { r.pending with output := none }
      | none => s
    t.complete p f .ok .none

/-- CLEAR_LAYER (R34). -/
def execClearLayer (p : Port) (s : State) : Host.Outcome State Fault Refusal :=
  .next (s.taking p .clearLayer (clearLayer p))

/-! ## LATCH (R37–R39) -/

/-- LATCH by its owning block: it joins the output's latch list and holds an in-flight entry (R37). -/
def latch (p : Port) (f : Frame) (s : State) : State :=
  match s.enabledOutput (u8 f.payload 0) with
  | none => s.complete p f .noOutput .none
  | some o => (s.enter p f).modOut o (fun q => { q with latches := q.latches ++ [⟨p, f.tag⟩] })

/-- LATCH (R37). -/
def execLatch (p : Port) (s : State) : Host.Outcome State Fault Refusal :=
  .next (s.taking p .latch (latch p))

/-- Writes the pending copy into the active copy of a record that concerns an output (R38). -/
def LayerRecord.latched (r : LayerRecord) (o : OutputId) : LayerRecord :=
  if r.names o then { r with active := r.pending } else r

/-- The write of one port's latch on an output (R38): every record of the port that concerns it. -/
def latchWrite (layers : List LayerRecord) (p : Port) (o : OutputId) : List LayerRecord :=
  layers.mapIdx (fun id r => if ownsLayer p id then r.latched o else r)

/-- Whether a port has a latch due on an output: a LATCH on its list or an internal latch (R38, R46). -/
def OutputState.latchDue (q : OutputState) (p : Port) : Bool :=
  q.latches.any (fun e => e.port == p) || q.internal.get p

/-- Completes LATCHes in dispatch order with an output and a field count (R38, R47). -/
def completeLatches (o : OutputId) (count : Word32) (es : List LatchEntry) (s : State) : State :=
  es.foldl (fun t e => t.completeHeld e.port .latch e.tag .ok none (.latch o count)) s

/-- An output takes every latch due at its field start (R38): the writes, the completions, the layer-unnamed
reports. -/
def State.takeLatches (o : OutputId) (s : State) : State :=
  let q := s.outputs.get o
  let w (p : Port) (l : List LayerRecord) : List LayerRecord := if q.latchDue p then latchWrite l p o else l
  let t := { s with layers := w .b (w .a s.layers) }
  let t := t.modOut o (fun q => { q with latches := [], internal := ⟨false, false⟩ })
  let u := completeLatches o q.fieldCount q.latches t
  State.reportUnnamed s u

/-! ## The field layer set and the hold set (R41–R44, R50) -/

/-- The surface a copy draws in the field that begins: the resolved handle, or the current slot of the named stream
(R41, R42). -/
def State.drawnSurface (s : State) (c : LayerCopy) : Option Nat :=
  match c.source with
  | .none => none
  | .surface h => if (s.resolve h).isSome then some h.index else none
  | .stream i =>
    let st := s.streams.get i
    (st.current.bind (fun k => st.slots[k]?)).bind
      (fun slot => if (s.resolve slot.surface).isSome then some slot.surface.index else none)

/-- What the output keeps of a copy for the field: the frozen copy and the values of R50. A stream record's crop is
clamped against its slot (R42). -/
def State.freeze (s : State) (id : Nat) (c : LayerCopy) : FieldLayer :=
  match (s.drawnSurface c).bind (fun i => (s.surfaceAt i).map (fun x => (i, x))) with
  | none => { id := id, copy := c, source := none }
  | some (i, x) =>
    let crop :=
      match c.source with
      | .stream _ => c.crop.clamp x.width x.height
      | _ => c.crop
    let rx := rawStep crop.cw c.dw
    let ry := rawStep crop.ch c.dh
    { id := id, copy := { c with crop := crop }
      source := some { surface := i, width := x.width, height := x.height, format := x.format, pages := x.pages
                       sx := clampStep rx, sy := clampStep ry, clampX := stepClamped rx, clampY := stepClamped ry } }

/-- Whether an active copy enters the field layer set of an output (R41). -/
def LayerCopy.drawnOn (c : LayerCopy) (o : OutputId) : Bool := c.output == some o && c.visible && 0 < c.alpha

/-- The field layer set of an output, from the active copies as they stand (R41). -/
def State.fieldLayers (s : State) (o : OutputId) : List FieldLayer :=
  (s.layers.zipIdx.filter (fun r => r.1.active.drawnOn o)).map (fun r => s.freeze r.2 r.1.active)

/-- The hold set of a field layer set: the resolved sources, each once, in ascending order (R43). -/
def holdSetOf (ls : List FieldLayer) : List Nat :=
  surfaceIndices.filter (fun i => ls.any (fun l => (l.source.map (·.surface)) == some i))

/-- Forms the field layer set and the hold set of the field that begins: empty unless the output is ACTIVE and not
under FORCED BLANK (R41–R44). -/
def State.formSets (o : OutputId) (s : State) : State :=
  let q := s.outputs.get o
  let ls := if q.panel = .active ∧ q.forcedBlank = false then s.fieldLayers o else []
  s.modOut o (fun q => { q with layers := ls, holdSet := holdSetOf ls })

/-! ## Teardown of a port's layers (R46, R47) -/

/-- Sets the pending output of a port's records to none (R46). -/
def clearPending (layers : List LayerRecord) (p : Port) : List LayerRecord :=
  layers.mapIdx (fun id r => if ownsLayer p id then { r with pending := { r.pending with output := none } } else r)

/-- The layer teardown on one output: an internal latch where it is enabled and awake (R46), the write and the LATCH
completions at once where it is ASLEEP (R47), nothing where it is disabled. -/
def State.tearLayersOn (p : Port) (o : OutputId) (s : State) : State :=
  let q := s.outputs.get o
  if !s.outputEnabled o then s
  else if q.panel = .asleep then
    let t := { s with layers := latchWrite s.layers p o }
    let t := t.modOut o (fun q => { q with latches := q.latches.filter (fun e => e.port ≠ p) })
    completeLatches o q.fieldCount (q.latches.filter (fun e => e.port = p)) t
  else s.modOut o (fun q => { q with internal := q.internal.set p true })

/-- The layer block's part of a port's teardown (R46, R47). DESIGN CHOICE: what R47 does at once on an ASLEEP output is done
on output 0 before output 1 (log 34). -/
def State.tearLayers (p : Port) (s : State) : State :=
  let t := { s with layers := clearPending s.layers p }
  State.reportUnnamed s ((t.tearLayersOn p .o0).tearLayersOn p .o1)

end Sys2Proof.Machine
end

