-- ==== Sys2Proof/Machine/Streams.lean ====
section
/-! DEFINITION. Chapter 5: the stream block: the stream commands, frame selection, slot release, and a port's stream
teardown. -/

namespace Sys2Proof.Machine

/-! ## Stamps (R87) -/

/-- The offset of a stamp from a reference stamp (R87). -/
def stampOffset (x r : Word32) : Nat := (x - r).toNat

/-- Whether stamp `a` is at or before stamp `b` (R87). -/
def atOrBefore (a b : Word32) : Bool := stampOffset b a < 2147483648

/-- Whether stamp `b` is after stamp `a` (R87). -/
def isAfter (b a : Word32) : Bool := 0 < stampOffset b a && stampOffset b a < 2147483648

/-! ## Notices and reports -/

/-- Offers STREAM STATE for a stream as it now stands (R107). -/
def State.streamNotice (i : StreamId) (s : State) : State :=
  let r := s.streams.get i
  s.publish .streamState (.streamState i r.state r.owner r.clockOutput r.clock)

/-- Offers SLOT FREED to the stream's owner (R102). -/
def State.slotFreed (i : StreamId) (k : Nat) (s : State) : State :=
  match (s.streams.get i).owner with
  | some p => s.notify p (.slotFreed i k)
  | none => s

/-- The stream report (R93). -/
def State.streamReport (s : State) (i : StreamId) : StreamReport :=
  let r := s.streams.get i
  { stream := i, state := r.state, owner := r.owner, clockOutput := r.clockOutput, slots := r.slots.map (·.state)
    readyLength := r.ready.length, clock := r.clock }

/-! ## Slots (R89) -/

/-- Updates one slot of a stream record. -/
def StreamRecord.modSlot (r : StreamRecord) (k : Nat) (f : Slot → Slot) : StreamRecord :=
  match r.slots[k]? with
  | some x => { r with slots := r.slots.set k (f x) }
  | none => r

/-- A slot enters EMPTY and SLOT FREED is offered (R89, R102). -/
def State.emptySlot (i : StreamId) (k : Nat) (s : State) : State :=
  (s.modStream i (fun r => r.modSlot k (fun x => { x with state := .empty, stamp := none }))).slotFreed i k

/-- A slot leaves READY or CURRENT: RELEASING if its surface is in a hold set, EMPTY otherwise (R89). -/
def State.releaseSlot (i : StreamId) (k : Nat) (s : State) : State :=
  match (s.streams.get i).slots[k]? with
  | some x =>
    if s.inHoldSets x.surface.index then
      s.modStream i (fun r => r.modSlot k (fun x => { x with state := .releasing, stamp := none }))
    else s.emptySlot i k
  | none => s

/-! ## Opening (R91, R92) -/

/-- The handles of an OPEN STREAM payload. -/
def openHandles (b : List Byte) : List Handle := (List.range (u8 b 2)).map (fun k => handleAt b (3 + 2 * k))

/-- The check of one handle of an OPEN STREAM against the earlier ones (R91 step 5). -/
def State.slotRefusal (s : State) (p : Port) (earlier : List Handle) (h : Handle) : Option Status :=
  match s.resolve h with
  | none => some .badHandle
  | some x =>
    if x.kind ≠ .port ∨ x.owner ≠ accountOf p then some .notOwner
    else if x.state = .retiring then some .wrongState
    else if x.attached.isSome || earlier.any (fun e => e.index == h.index) then some .attached
    else none

/-- The first handle that fails step 5 of R91, with its position in the list. DESIGN CHOICE: positions count from 0
(log 39). -/
def State.slotsRefusal (s : State) (p : Port) : List Handle → List Handle → Option (Status × Nat)
  | _, [] => none
  | earlier, h :: hs =>
    match s.slotRefusal p earlier h with
    | some st => some (st, earlier.length)
    | none => s.slotsRefusal p (earlier ++ [h]) hs

/-- Whether the slot surfaces agree in width, height and format, and the format is one of those accepted (R91
step 6). -/
def State.slotsAgree (s : State) (hs : List Handle) : Bool :=
  match hs with
  | [] => true
  | h :: _ =>
    match s.resolve h with
    | none => false
    | some x =>
      x.format != .a8 && hs.all (fun g =>
        match s.resolve g with
        | some y => y.width == x.width && y.height == x.height && y.format == x.format
        | none => false)

/-- Attaches slot surfaces to a stream with their slot indices, from `k` on (R21, R92). -/
def attachSlots (i : StreamId) : Nat → List Handle → State → State
  | _, [], s => s
  | k, h :: hs, s => attachSlots i (k + 1) hs (s.modSurface h.index (fun x => { x with attached := some (i, k) }))

/-- OPEN STREAM by its owning block (R91, R92). -/
def openStream (p : Port) (f : Frame) (s : State) : State :=
  let b := f.payload
  let n := u8 b 2
  if n < 2 ∨ 6 < n ∨ b.length ≠ 3 + 2 * n then s.complete p f .badCommand .none
  else
    match streamOfCode (u8 b 0) with
    | none => s.complete p f .badHandle .none
    | some i =>
      if (s.streams.get i).state ≠ .idleClosed then s.complete p f .busy .none
      else
        match s.enabledOutput (u8 b 1) with
        | none => s.complete p f .noOutput .none
        | some o =>
          let hs := openHandles b
          match s.slotsRefusal p [] hs with
          | some (st, k) => s.complete p f st (.position k)
          | none =>
            if !s.slotsAgree hs then s.complete p f .badGeometry .none
            else
              let t := attachSlots i 0 hs s
              let t := t.modStream i (fun _ =>
                { state := .opened, owner := some p, clockOutput := some o
                  slots := hs.map (fun h => { surface := h, state := .empty, stamp := none })
                  current := none, ready := [], clock := 0, startStamp := none, lastStamp := none
                  closeTag := none })
              let t := t.streamNotice i
              t.complete p f .ok (.stream (t.streamReport i))

/-- OPEN_STREAM (R91, R92). -/
def execOpenStream (p : Port) (s : State) : Host.Outcome State Fault Refusal :=
  .next (s.taking p .openStream (openStream p))

/-! ## Commands on an open stream (R93–R105) -/

/-- The three checks of R93: the stream a number names for its owner, or the status that refuses it. -/
def State.ownStream (s : State) (p : Port) (n : Nat) : Except Status StreamId :=
  match streamOfCode n with
  | none => .error .badHandle
  | some i =>
    let r := s.streams.get i
    if r.state = .idleClosed then .error .wrongState
    else if r.owner ≠ some p then .error .notOwner
    else .ok i

/-- A command on an open stream: refused by R93, or handed its stream. -/
def State.onStream (p : Port) (f : Frame) (body : StreamId → State → State) (s : State) : State :=
  match s.ownStream p (u8 f.payload 0) with
  | .error st => s.complete p f st .none
  | .ok i => body i s

/-- Completes a short stream command with the stream report (R93). -/
def State.completeStream (p : Port) (f : Frame) (i : StreamId) (s : State) : State :=
  s.complete p f .ok (.stream (s.streamReport i))

/-- START STREAM by its owning block (R94). -/
def startStream (p : Port) (f : Frame) (s : State) : State :=
  s.onStream p f (fun i s =>
    if (s.streams.get i).state ≠ .opened then s.complete p f .wrongState .none
    else
      let t := s.modStream i (fun r =>
        { r with startStamp := some (BitVec.ofNat 32 (u32 f.payload 1)), state := .primed })
      (t.streamNotice i).completeStream p f i)

/-- START_STREAM (R94). -/
def execStartStream (p : Port) (s : State) : Host.Outcome State Fault Refusal :=
  .next (s.taking p .startStream (startStream p))

/-- The reference stamp of R96: the current slot's, else the ready list head's, else the last accepted. -/
def StreamRecord.reference (r : StreamRecord) : Option Word32 :=
  match r.current with
  | some k => (r.slots[k]?).bind (·.stamp)
  | none =>
    match r.ready with
    | k :: _ => (r.slots[k]?).bind (·.stamp)
    | [] => r.lastStamp

/-- Whether a stamp lies in the stream's stamp window (R96). -/
def StreamRecord.inWindow (r : StreamRecord) (x : Word32) : Bool :=
  match r.reference with
  | some ref => stampOffset (r.lastStamp.getD ref) ref < stampOffset x ref && stampOffset x ref < 2147483648
  | none => true

/-- The first check of R96 that fails. -/
def StreamRecord.frameRefusal (r : StreamRecord) (k : Nat) (x : Word32) : Option Status :=
  if r.state = .closing then some .wrongState
  else
    match r.slots[k]? with
    | none => some .badHandle
    | some slot =>
      if slot.state ≠ .empty then some .slotBusy
      else if !r.inWindow x then some .stampOrder
      else none

/-- FRAME READY by its owning block (R96, R97). -/
def frameReady (p : Port) (f : Frame) (s : State) : State :=
  s.onStream p f (fun i s =>
    let k := u8 f.payload 1
    let x := BitVec.ofNat 32 (u32 f.payload 2)
    match (s.streams.get i).frameRefusal k x with
    | some st => s.complete p f st .none
    | none =>
      let t := s.modStream i (fun r =>
        { r.modSlot k (fun y => { y with state := .ready, stamp := some x }) with
          ready := r.ready ++ [k], lastStamp := some x })
      t.completeStream p f i)

/-- FRAME_READY (R96, R97). -/
def execFrameReady (p : Port) (s : State) : Host.Outcome State Fault Refusal :=
  .next (s.taking p .frameReady (frameReady p))

/-- Moves a stream from one state to another, or refuses with WRONG_STATE (R103). -/
def shiftStream (p : Port) (f : Frame) (held new : StreamState) (s : State) : State :=
  s.onStream p f (fun i s =>
    if (s.streams.get i).state ≠ held then s.complete p f .wrongState .none
    else
      ((s.modStream i (fun r => { r with state := new })).streamNotice i).completeStream p f i)

/-- PAUSE_STREAM (R103). -/
def execPauseStream (p : Port) (s : State) : Host.Outcome State Fault Refusal :=
  .next (s.taking p .pauseStream (fun f => shiftStream p f .running .paused))

/-- RESUME_STREAM (R103). -/
def execResumeStream (p : Port) (s : State) : Host.Outcome State Fault Refusal :=
  .next (s.taking p .resumeStream (fun f => shiftStream p f .paused .running))

/-- Steps 1 to 3 of R104: the ready slots leave from the head, then the current slot, and the stamps become absent. -/
def State.haltStream (i : StreamId) (s : State) : State :=
  let r := s.streams.get i
  let t := s.modStream i (fun r => { r with ready := [] })
  let t := r.ready.foldl (fun t k => t.releaseSlot i k) t
  let t := match r.current with
    | some k => t.releaseSlot i k
    | none => t
  t.modStream i (fun r => { r with current := none, lastStamp := none, startStamp := none })

/-- Whether a stream is PRIMED, RUNNING or PAUSED. -/
def StreamState.started : StreamState → Bool
  | .primed | .running | .paused => true
  | _ => false

/-- STOP STREAM by its owning block (R104). -/
def stopStream (p : Port) (f : Frame) (s : State) : State :=
  s.onStream p f (fun i s =>
    if !(s.streams.get i).state.started then s.complete p f .wrongState .none
    else
      (((s.haltStream i).modStream i (fun r => { r with state := .opened })).streamNotice i).completeStream p f i)

/-- STOP_STREAM (R104). -/
def execStopStream (p : Port) (s : State) : Host.Outcome State Fault Refusal :=
  .next (s.taking p .stopStream (stopStream p))

/-! ## Closing (R105, R106) -/

/-- Detaches the slot surfaces in slot index order (R21, R106). -/
def detachSlots (xs : List Slot) (s : State) : State :=
  xs.foldl (fun t x => t.modSurface x.surface.index (fun y => { y with attached := none })) s

/-- Finishes the close of a CLOSING stream whose slots are all EMPTY (R106). -/
def State.finishClose (i : StreamId) (s : State) : State :=
  let r := s.streams.get i
  if r.state = .closing ∧ r.slots.all (fun x => x.state == .empty) then
    let t := detachSlots r.slots s
    let t := t.modStream i (fun _ => { StreamRecord.reset with clock := r.clock })
    let t := t.streamNotice i
    match r.owner, r.closeTag with
    | some p, some tag => t.completeHeld p .closeStream tag .ok none (.closed i)
    | _, _ => t
  else s

/-- Removes a stream's frames and puts it in CLOSING, then finishes the close if every slot is EMPTY (R105, R109). The
frames of an OPEN stream leave too (R90; log 32). -/
def State.beginClose (i : StreamId) (tag : Option Byte) (s : State) : State :=
  let t := (s.haltStream i).modStream i (fun r => { r with state := .closing, closeTag := tag })
  (t.streamNotice i).finishClose i

/-- CLOSE STREAM by its owning block (R105). The detach of an immediate close is an event of R17, and may end a
teardown. -/
def closeStream (p : Port) (f : Frame) (s : State) : State :=
  s.onStream p f (fun i s =>
    if (s.streams.get i).state = .closing then s.complete p f .wrongState .none
    else (((s.enter p f).beginClose i (some f.tag)).freeRetired).settle)

/-- CLOSE_STREAM (R105). -/
def execCloseStream (p : Port) (s : State) : Host.Outcome State Fault Refusal :=
  .next (s.taking p .closeStream (closeStream p))

/-! ## Field starts (R95, R98–R100) -/

/-- The stamp of a slot. -/
def StreamRecord.stampOf (r : StreamRecord) (k : Nat) : Option Word32 := (r.slots[k]?).bind (·.stamp)

/-- The candidates: the run of ready list entries from the head whose stamps are at or before the clock (R99). -/
def StreamRecord.candidates (r : StreamRecord) : List Nat :=
  r.ready.takeWhile (fun k => ((r.stampOf k).map (fun x => atOrBefore x r.clock)).getD false)

/-- What one selection adds to the stream's counters (Table 5-4). -/
def selectionCounters (r : StreamRecord) (k : StreamCounters) : StreamCounters :=
  let n := r.candidates.length
  { shown := if 0 < n then satSucc k.shown else k.shown
    dropped := satAdd k.dropped (n - 1)
    repeated := if n = 0 ∧ r.current.isSome then satSucc k.repeated else k.repeated
    starved := if r.ready.isEmpty then satSucc k.starved else k.starved }

/-- Selection (R99, R100). -/
def State.selectFrame (i : StreamId) (s : State) : State :=
  let r := s.streams.get i
  let cs := r.candidates
  let s := s.modCounters (fun c => c.onStream i (selectionCounters r))
  match cs.getLast? with
  | none => s
  | some k =>
    let t := s.modStream i (fun r =>
      { r.modSlot k (fun x => { x with state := .current }) with
        current := some k, ready := r.ready.drop cs.length })
    let t := cs.dropLast.foldl (fun t k => t.releaseSlot i k) t
    match r.current with
    | some old => t.releaseSlot i old
    | none => t

/-- The stream block's work for one stream at a field start of its clock output with a field advance (R95, R98). -/
def State.streamField (i : StreamId) (o : OutputId) (advance : Nat) (s : State) : State :=
  let r := s.streams.get i
  if r.clockOutput ≠ some o then s
  else
    match r.state with
    | .primed =>
      ((s.modStream i (fun r =>
        { r with clock := r.startStamp.getD r.clock, startStamp := none, state := .running })).selectFrame i
        ).streamNotice i
    | .running => (s.modStream i (fun r => { r with clock := r.clock + BitVec.ofNat 32 advance })).selectFrame i
    | .paused => s.selectFrame i
    | _ => s

/-! ## Slot release (R101) and the hold-set report (R43) -/

/-- The slots of a stream that are RELEASING and in no hold set, in index order (R101). -/
def State.releasableSlots (s : State) (i : StreamId) : List Nat :=
  ((s.streams.get i).slots.zipIdx.filter
    (fun x => x.1.state == .releasing && !s.inHoldSets x.1.surface.index)).map (·.2)

/-- The release test of one stream, and the close it may finish (R101, R106). -/
def State.releaseStream (i : StreamId) (s : State) : State :=
  ((s.releasableSlots i).foldl (fun t k => t.emptySlot i k) s).finishClose i

/-- The report of a hold-set replacement (R43, R44): the stream block's releasing slots (R101), the surface manager's
one pass over RETIRING surfaces (R17), the poster cache's draining posters (R115), and the teardowns that this ends. -/
def State.reportHoldSets (s : State) : State :=
  ((((s.releaseStream .s0).releaseStream .s1).freeRetired).drainToIdle).settle

/-! ## Teardown (R109) -/

/-- The stream block's part of a port's teardown on one stream. -/
def State.tearStream (p : Port) (i : StreamId) (s : State) : State :=
  let r := s.streams.get i
  if r.owner = some p ∧ r.state ≠ .closing ∧ r.state ≠ .idleClosed then s.beginClose i none else s

/-- The stream block's part of a port's teardown (R109). -/
def State.tearStreams (p : Port) (s : State) : State :=
  (((s.tearStream p .s0).tearStream p .s1)).freeRetired

end Sys2Proof.Machine
end

