-- ==== Sys2Proof/WellFormed.lean ====
section
/-! DEFINITION. Which terms of `Instr` name an event that can happen at the part's pins and memories. -/

namespace Sys2Proof

/-- A burst that frame memory has: one of 16,384 pages, an offset that is a multiple of 32 below 4,096 (R150). -/
def Burst.valid (b : Burst) : Bool := b.page < 16384 && b.offset < 4096 && b.offset % 32 == 0

/-- The well-formed commands. DESIGN CHOICE: a write phase has at least one byte, its kind being that of the first (R174,
Table 10-1): a turnaround before which no byte was written is no transaction of the model (log 44). -/
def Instr.wellFormed : Instr → Bool
  | .commandFrame _ bytes => !bytes.isEmpty
  | .composeLine _ part => part.reads.all (fun r => r.burst.valid)
  | .eccCorrected _ b => b.valid
  | .eccUncorrectable _ b => b.valid
  | _ => true

end Sys2Proof
end

