-- ==== Sys2Proof/Machine/Errors.lean ====
section
/-! DEFINITION. Chapter 8: ECC results, the bad page list, the capture record, FAULT, READ ERROR and CLEAR ERROR. -/

namespace Sys2Proof.Machine

/-! ## ECC results (R151, R156) -/

/-- The corrected counter rises (R151). -/
def State.countCorrected (s : State) : State :=
  s.modCounters (fun c => { c with memory := { c.memory with corrected := satSucc c.memory.corrected } })

/-- ECC_CORRECTED (R151). -/
def execEccCorrected (_ : Reader) (b : Burst) (s : State) : Host.Outcome State Fault Refusal :=
  if !b.valid then .fault .noSuchBurst else if s.startUp.resetPin then .next s else .next s.countCorrected

/-- Pages the bad page list can hold (R152). -/
def badRoom : Nat := 64

/-- Whether a result on a page appends it to the list (R152). -/
def MemoryErrors.appends (e : MemoryErrors) (page : Nat) : Bool := !e.bad.contains page && e.bad.length < badRoom

/-- Whether a result on a page finds the list full (R152). -/
def MemoryErrors.overflows (e : MemoryErrors) (page : Nat) : Bool := !e.bad.contains page && badRoom ≤ e.bad.length

/-- The bad page list after a result (R152). -/
def MemoryErrors.badAfter (e : MemoryErrors) (page : Nat) : List Nat :=
  if e.appends page then e.bad ++ [page] else e.bad

/-- The next capture sequence: 65,535 is followed by 1 (R153). -/
def nextSequence (n : Nat) : Nat := if n = 65535 then 1 else n + 1

/-- The capture record after a result (R153). -/
def Capture.record (c : Capture) (r : Reader) (b : Burst) (owner : Option Handle) (added : Bool) : Capture :=
  if c.locked then { c with lost := true, lostCount := satSucc255 c.lostCount }
  else
    { c with sequence := nextSequence c.sequence, page := some b.page, surface := owner, reader := some r
             offset := some b.offset, pageAdded := added, locked := true }

/-- Steps 1 and 2 of R156, and the uncorrectable counter (R161). -/
def State.noteResult (r : Reader) (b : Burst) (s : State) : State :=
  { s with
    errors := { s.errors with
      bad := s.errors.badAfter b.page
      capture := s.errors.capture.record r b (s.pageOwner b.page) (s.errors.appends b.page) }
    counters := { s.counters with
      memory := { s.counters.memory with uncorrectable := satSucc s.counters.memory.uncorrectable } } }

/-- Damage marking (R154, R22, R8): a POSTER surface that owns the page is damaged and reported to the poster cache. -/
def State.markDamage (page : Nat) (s : State) : State :=
  match s.pageOwner page with
  | some h =>
    if s.isPoster h.index then
      (s.modSurface h.index (fun x => { x with damaged := true })).damagedPoster h.index
    else s
  | none => s

/-- An output at the entry into FAULT: FORCED BLANK if it is enabled, and empty sets. Every pixel not yet driven is
background: those composed already, and those left of the line under way, which no record covers any more (R49, R159, R44,
R85). -/
def OutputState.enterFault (q : OutputState) : OutputState :=
  { q with forcedBlank := q.forcedBlank || q.timing.enabled, layers := [], holdSet := []
           work := q.work.map (fun w => { w with fetched := [] })
           ahead := q.ahead.map (fun _ => q.timing.background) }

/-- The entry into FAULT (R159 steps 1 and 2). In STARTING only the flag is set. -/
def State.enterFault (s : State) : State :=
  let t := { s with errors := { s.errors with fault := true } }
  if s.startUp.starting then t
  else
    ({ t with outputs := ⟨s.outputs.o0.enterFault, s.outputs.o1.enterFault⟩ }).reportHoldSets

/-- An uncorrectable result is handled whole (R156). -/
def State.uncorrectable (r : Reader) (b : Burst) (s : State) : State :=
  let owner := s.pageOwner b.page
  let added := s.errors.appends b.page
  let captured := !s.errors.capture.locked
  let faulting := s.errors.overflows b.page && !s.errors.fault
  let t := (s.noteResult r b).markDamage b.page
  let t := if faulting then t.enterFault else t
  let c := t.errors.capture
  let n := Notice.memoryError b.page r b.offset owner added t.errors.bad.length (if captured then c.sequence else 0)
    c.lostCount
  let t := State.notify .b n (State.notify .a n t)
  if faulting then
    let n := Notice.fault b.page r c.sequence
    State.notify .b n (State.notify .a n t)
  else t

/-- ECC_UNCORRECTABLE (R156). -/
def execEccUncorrectable (r : Reader) (b : Burst) (s : State) : Host.Outcome State Fault Refusal :=
  if !b.valid then .fault .noSuchBurst else if s.startUp.resetPin then .next s else .next (s.uncorrectable r b)

/-! ## READ ERROR and CLEAR ERROR (R157, R158) -/

/-- READ ERROR by its owning block (R157). -/
def readError (p : Port) (f : Frame) (s : State) : State :=
  s.complete p f .ok (.errors s.errors.capture s.errors.fault s.errors.bad)

/-- READ_ERROR (R157). -/
def execReadError (p : Port) (s : State) : Host.Outcome State Fault Refusal :=
  .next (s.taking p .readError (readError p))

/-- The capture record after a clear (R158). -/
def Capture.clear (c : Capture) : Capture := { c with locked := false, lost := false, lostCount := 0 }

/-- CLEAR ERROR by its owning block (R158). -/
def clearError (p : Port) (f : Frame) (s : State) : State :=
  let c := s.errors.capture
  if c.locked ∧ c.sequence = u16 f.payload 0 then
    let t := { s with errors := { s.errors with capture := c.clear } }
    t.complete p f .ok (.cleared c.lost c.lostCount)
  else s.complete p f .staleClear (.staleClear c.sequence c.locked)

/-- CLEAR_ERROR (R158). -/
def execClearError (p : Port) (s : State) : Host.Outcome State Fault Refusal :=
  .next (s.taking p .clearError (clearError p))

end Sys2Proof.Machine
end

