-- ==== Sys2Proof/Machine/Field.lean ====
section
/-! DEFINITION. Chapter 4, the field start of an output (R75–R77, R82–R84). -/

namespace Sys2Proof.Machine

/-- Step 1 of R75 at an output: the field count and the accumulator (R77). -/
def OutputState.advance (q : OutputState) : OutputState :=
  { q with fieldCount := q.fieldCount + 1
           acc := (q.acc + q.timing.advanceN) - (q.acc + q.timing.advanceN) / q.timing.advanceD * q.timing.advanceD }

/-- The field advance of a field start (R77). -/
def OutputState.fieldAdvance (q : OutputState) : Nat := (q.acc + q.timing.advanceN) / q.timing.advanceD

/-- Step 2 of R75: the panel state of the field that begins, and its notice if it changes (R82, R84). -/
def State.settleOutput (o : OutputId) (s : State) : State :=
  let q := s.outputs.get o
  let new := settlePanel q.panel (panelTarget q.wishes) q.fieldCount.toNat q.timing.wakeFields
  if new = q.panel then s else (s.modOut o (fun q => { q with panel := new })).panelNotice o

/-- Step 3 of R75: the FIELD START notice (R76). -/
def State.fieldNotice (o : OutputId) (s : State) : State :=
  s.publish (.fieldStart o) (.fieldStart o (s.outputs.get o).fieldCount)

/-- Entry into ASLEEP stops the timing and deasserts the panel enable line, after the field start's work (R83). -/
def OutputState.fallAsleep (q : OutputState) : OutputState :=
  if q.panel = .asleep then { q with running := false, pen := false } else q

/-- The work of a field start, in the order of R75. -/
def State.fieldStart (o : OutputId) (s : State) : State :=
  let adv := (s.outputs.get o).fieldAdvance
  let t := (s.modOut o OutputState.advance).modCounters
    (fun c => c.onOutput o (fun k => { k with fields := satSucc k.fields }))
  let t := (t.settleOutput o).fieldNotice o
  let t := State.streamField .s1 o adv (State.streamField .s0 o adv t)
  let t := (t.takeLatches o).formSets o
  let t := t.modOut o (fun q => { q with nextLine := 0, work := none, ahead := [], line := [], leadIn := false })
  t.reportHoldSets.modOut o OutputState.fallAsleep

/-- FIELD_START (R75): an output whose timing runs has field starts. -/
def execFieldStart (o : OutputId) (s : State) : Host.Outcome State Fault Refusal :=
  if s.startUp.resetPin || !s.outputEnabled o || !(s.outputs.get o).running then .next s
  else .next (s.fieldStart o)

end Sys2Proof.Machine
end

