-- ==== Sys2Proof/Machine/Line.lean ====
section
/-! DEFINITION. Chapter 3: the composition of one output line: geometry, sample expansion, damage substitution, filters,
line cost and shedding, layer alpha and the blend. -/

namespace Sys2Proof.Machine

/-- A sample in the one form of Section 3.3: alpha and the three premultiplied colour channels, 0–255 each. -/
structure Sample where
  a : Nat
  r : Nat
  g : Nat
  b : Nat
  deriving DecidableEq, Repr

/-- Applies a function to each channel. -/
def Sample.map (f : Nat → Nat) (x : Sample) : Sample := ⟨f x.a, f x.r, f x.g, f x.b⟩

/-- Combines two samples channel by channel. -/
def Sample.map₂ (f : Nat → Nat → Nat) (x y : Sample) : Sample := ⟨f x.a y.a, f x.r y.r, f x.g y.g, f x.b y.b⟩

/-! ## Expansion (R57–R61) -/

/-- Scales one 8-bit value by another (R57). -/
def mul255 (x y : Nat) : Nat := (x * y + 128 + (x * y + 128) / 256) / 256

/-- An opaque sample of a colour. -/
def Sample.opaque (c : Rgb) : Sample := ⟨255, c.r, c.g, c.b⟩

/-- An RGB565 word widened (R59). -/
def expand565 (w : Nat) : Sample :=
  let r := w / 2048 % 32
  let g := w / 32 % 64
  let b := w % 32
  ⟨255, r * 8 + r / 4, g * 4 + g / 16, b * 8 + b / 4⟩

/-- An A8 sample with the record's fill colour (R60). -/
def expandA8 (fill : Rgb) (s : Nat) : Sample := ⟨s, mul255 fill.r s, mul255 fill.g s, mul255 fill.b s⟩

/-- Limits a number to 0–255 (R61). -/
def clamp255 (n : Int) : Nat := (max 0 (min 255 n)).toNat

/-- A YC420 sample from its luma, Cb and Cr bytes (R61). Integer division rounds toward minus infinity. -/
def expandYC (y cb cr : Nat) : Sample :=
  let l : Int := 298 * ((y : Int) - 16)
  let db : Int := (cb : Int) - 128
  let dr : Int := (cr : Int) - 128
  ⟨255, clamp255 (Int.fdiv (l + 409 * dr + 128) 256), clamp255 (Int.fdiv (l - 100 * db - 208 * dr + 128) 256),
    clamp255 (Int.fdiv (l + 516 * db + 128) 256)⟩

/-- A stored sample expanded by its format, from its bytes in the order of Table 10-13 and R10. -/
def expandBytes (f : Format) (fill : Rgb) (bs : List Byte) : Sample :=
  match f with
  | .pa8888 => ⟨u8 bs 0, u8 bs 1, u8 bs 2, u8 bs 3⟩
  | .rgb565 => expand565 (u16 bs 0)
  | .a8 => expandA8 fill (u8 bs 0)
  | .yc420 => expandYC (u8 bs 0) (u8 bs 1) (u8 bs 2)

/-! ## Where a sample's bytes lie (R10, R62) -/

/-- The byte offsets, in the surface, of the sample at a column and a row (R10). -/
def ResolvedSource.offsets (src : ResolvedSource) (x y : Nat) : List Nat :=
  let n := y * src.width + x
  let chroma := y / 2 * (src.width / 2) + x / 2
  match src.format with
  | .pa8888 => [n * 4, n * 4 + 1, n * 4 + 2, n * 4 + 3]
  | .rgb565 => [n * 2, n * 2 + 1]
  | .a8 => [n]
  | .yc420 =>
    [n, src.width * src.height + chroma,
      src.width * src.height + src.width / 2 * (src.height / 2) + chroma]

/-- The page that holds a byte offset of a surface, by the page list of the field (R10, R50). -/
def ResolvedSource.page (src : ResolvedSource) (off : Nat) : Nat := src.pages.getD (off / 4096) 0

/-- The burst that holds a byte offset of a surface (R150). -/
def ResolvedSource.burst (src : ResolvedSource) (off : Nat) : Burst := ⟨src.page off, off % 4096 / 32 * 32⟩

/-! ## Coverage (R51, R52) -/

/-- What a record that covers a line brings to it: its frozen copy and source, its visible destination columns, its row
index and the weight of the second row, and the first and last column indices of its span (R51, R52, R68). -/
structure Cover where
  id : Nat
  copy : LayerCopy
  src : ResolvedSource
  i0 : Nat
  i1 : Nat
  q : Nat
  g : Nat
  first : Nat
  last : Nat
  deriving DecidableEq, Repr

/-- The visible destination columns of a record on an output of width `w`, if its clipped span is not empty (R51). -/
def LayerCopy.span (c : LayerCopy) (w : Nat) : Option (Nat × Nat) :=
  let i0 := max 0 (-c.dx)
  let i1 := min ((c.dw : Int) - 1) ((w : Int) - 1 - c.dx)
  if i0 ≤ i1 then some (i0.toNat, i1.toNat) else none

/-- The destination row of a record on a line, if it crosses it (R51). -/
def LayerCopy.row (c : LayerCopy) (y : Nat) : Option Nat :=
  if c.dy ≤ y ∧ (y : Int) < c.dy + c.dh then some ((y : Int) - c.dy).toNat else none

/-- The weight of the second sample or row: the high 8 bits of the fraction (R54, R55). -/
def weight (u : Nat) : Nat := u % 65536 / 256

/-- The column index of the last sample a record needs on a line (R68). -/
def lastIndex (c : LayerCopy) (i1 sx : Nat) : Nat :=
  min (i1 * sx / 65536 + (match c.filter with | .bilinear => 1 | .nearest => 0)) (c.crop.cw - 1)

/-- The cover of a record on a line: none if it is empty for the field, does not cover the line (R51, R52), or has only
transparent visible columns (R68, R69). -/
def FieldLayer.cover (l : FieldLayer) (w y : Nat) : Option Cover :=
  match l.source, l.copy.row y, l.copy.span w with
  | some src, some j, some (i0, i1) =>
    let q := j * src.sy / 65536
    let first := i0 * src.sx / 65536
    if l.copy.crop.ch ≤ q ∨ l.copy.crop.cw ≤ first then none
    else
      some { id := l.id, copy := l.copy, src := src, i0 := i0, i1 := i1, q := q, g := weight (j * src.sy)
             first := first, last := lastIndex l.copy i1 src.sx }
  | _, _, _ => none

/-! ## Cost and shedding (R68–R71) -/

/-- Cost per row of a span (Table 3-2). -/
def rowCost (f : Format) (span : Nat) : Nat :=
  match f with
  | .pa8888 => span * 4
  | .rgb565 => span * 2
  | .a8 => span
  | .yc420 => span + 2 * ((span + 1) / 2)

/-- The cost of a covering record on the line (R68). -/
def Cover.cost (c : Cover) : Nat :=
  rowCost c.src.format (c.last - c.first + 1) * (match c.copy.filter with | .nearest => 1 | .bilinear => 2)

/-- Whether record `a` lies below record `b` (R45). -/
def Cover.below (a b : Cover) : Bool := a.copy.z < b.copy.z || (a.copy.z == b.copy.z && a.id < b.id)

/-- Whether record `a` is considered before record `b` for the budget (R70). -/
def Cover.before (a b : Cover) : Bool :=
  match a.copy.cls, b.copy.cls with
  | .essential, .decorative => true
  | .decorative, .essential => false
  | _, _ => b.below a

/-- Inserts a record into a list ordered by `r`. -/
def insertBy (r : Cover → Cover → Bool) (x : Cover) : List Cover → List Cover
  | [] => [x]
  | y :: ys => if r x y then x :: y :: ys else y :: insertBy r x ys

/-- Orders records by `r`. -/
def orderBy (r : Cover → Cover → Bool) (xs : List Cover) : List Cover := xs.foldr (insertBy r) []

/-- Keeps or sheds records in the order given, from a running sum on (R70): the kept ones, and how many are shed. -/
def keepWithin (budget : Nat) : Nat → List Cover → List Cover × Nat
  | _, [] => ([], 0)
  | sum, c :: cs =>
    if budget < sum + c.cost then
      let r := keepWithin budget sum cs
      (r.1, r.2 + 1)
    else
      let r := keepWithin budget (sum + c.cost) cs
      (c :: r.1, r.2)

/-- The records that cover a line (R51, R69). -/
def covers (ls : List FieldLayer) (w y : Nat) : List Cover := ls.filterMap (fun l => l.cover w y)

/-- The records kept on a line and the number shed (R70). -/
def keptOn (ls : List FieldLayer) (w y budget : Nat) : List Cover × Nat :=
  keepWithin budget 0 (orderBy Cover.before (covers ls w y))

/-! ## The bursts read for a line (R62, R63, R72) -/

/-- Bytes of a burst (R150). -/
def burstBytes : Nat := 32

/-- A burst as the output reads it at this moment: not requested if its page is on the bad page list, its data not used if
its result is uncorrectable, else the bytes frame memory holds (R62, R63, R72). -/
def State.readBurst (s : State) (r : BurstRead) : Fetched :=
  { id := r.id, row := r.row, burst := r.burst
    data := if s.isBad r.burst.page || r.failed then none
            else some (s.frame.readRun Config.frameBlank (r.burst.page * 4096 + r.burst.offset) burstBytes) }

/-- What was read of a burst for a record and a surface row, the first read of it. -/
def readOf (fs : List Fetched) (id row : Nat) (b : Burst) : Option Fetched :=
  fs.find? (fun f => f.id == id && f.row == row && f.burst == b)

/-- Whether a burst read so far leaves a sample of a record substituted (R62, R63). -/
def Cover.sampleLost (c : Cover) (fs : List Fetched) (x y : Nat) : Bool :=
  (c.src.offsets x y).any (fun off => ((readOf fs c.id y (c.src.burst off)).map (fun f => f.data.isNone)).getD false)

/-- Whether a sample of a record is substituted: a burst of it was read so, or is not read yet and lies in a bad page
(R62, R63). -/
def State.sampleDamaged (s : State) (fs : List Fetched) (c : Cover) (x y : Nat) : Bool :=
  (c.src.offsets x y).any (fun off =>
    match readOf fs c.id y (c.src.burst off) with
    | some f => f.data.isNone
    | none => s.isBad (c.src.page off))

/-- The byte at a byte offset of a record's source: that of the burst read for the row, else that of frame memory, read now
(R10, R72). -/
def State.sourceByte (s : State) (fs : List Fetched) (c : Cover) (y off : Nat) : Byte :=
  match (readOf fs c.id y (c.src.burst off)).bind (·.data) with
  | some bs => bs.getD (off % 4096 % burstBytes) 0
  | none => s.frame.read Config.frameBlank (c.src.page off * 4096 + off % 4096)

/-- A sample of a record after expansion and damage substitution (R57–R63). -/
def State.sampleAt (s : State) (fs : List Fetched) (c : Cover) (x y : Nat) : Sample :=
  if s.sampleDamaged fs c x y then Sample.opaque s.startUp.damageColour
  else expandBytes c.src.format c.copy.fill ((c.src.offsets x y).map (s.sourceByte fs c y))

/-! ## Filters (R53–R56) -/

/-- The surface rows a record uses: one for NEAREST, the two of R55 for BILINEAR. -/
def Cover.rows (c : Cover) : Nat × Nat :=
  match c.copy.filter with
  | .nearest => (c.copy.crop.cy + c.q, c.copy.crop.cy + c.q)
  | .bilinear => (c.copy.crop.cy + c.q, c.copy.crop.cy + min (c.q + 1) (c.copy.crop.ch - 1))

/-- Mixes two samples with a weight of the second (R54, R55). -/
def Sample.mix (w : Nat) (x y : Sample) : Sample :=
  Sample.map₂ (fun m n => (m * (256 - w) + n * w + 128) / 256) x y

/-- The horizontal result on a surface row for a source position (R54). -/
def State.rowSample (s : State) (fs : List Fetched) (c : Cover) (u row : Nat) : Sample :=
  let p := u / 65536
  let at' (k : Nat) : Sample := s.sampleAt fs c (c.copy.crop.cx + k) row
  (at' p).mix (weight u) (at' (min (p + 1) (c.copy.crop.cw - 1)))

/-- The filtered sample of a destination column, or none where it is transparent (R53–R56). -/
def State.layerPixel (s : State) (fs : List Fetched) (c : Cover) (i : Nat) : Option Sample :=
  let u := i * c.src.sx
  if c.copy.crop.cw ≤ u / 65536 then none
  else
    match c.copy.filter with
    | .nearest => some (s.sampleAt fs c (c.copy.crop.cx + u / 65536) c.rows.1)
    | .bilinear => some ((s.rowSample fs c u c.rows.1).mix c.g (s.rowSample fs c u c.rows.2))

/-! ## Layer alpha and the blend (R65–R67) -/

/-- One channel of the blend (R66). -/
def blendChannel (src srcA dst : Nat) : Nat := min 255 (src + mul255 dst (255 - srcA))

/-- A source pixel blended over a line pixel (R66). -/
def Rgb.under (dst : Rgb) (x : Sample) : Rgb :=
  ⟨blendChannel x.r x.a dst.r, blendChannel x.g x.a dst.g, blendChannel x.b x.a dst.b⟩

/-- Applies a kept record to the line pixel of an output column (R56, R65, R66). -/
def State.applyCover (s : State) (fs : List Fetched) (x : Nat) (dst : Rgb) (c : Cover) : Rgb :=
  let i := ((x : Int) - c.copy.dx).toNat
  if c.copy.dx ≤ x ∧ c.i0 ≤ i ∧ i ≤ c.i1 then
    match s.layerPixel fs c i with
    | some p => dst.under (p.map (fun k => mul255 k c.copy.alpha))
    | none => dst
  else dst

/-- The pixel driven at an output column: the background, then the kept records from the bottom of the stacking order to
its top (R66, R67). -/
def State.linePixel (s : State) (fs : List Fetched) (background : Rgb) (kept : List Cover) (x : Nat) : Rgb :=
  (orderBy Cover.below kept).foldl (s.applyCover fs x) background

/-! ## Damage samples (R64, R72) -/

/-- The distinct surface rows of a record's fetch window (R72). -/
def Cover.fetchRows (c : Cover) : List Nat := if c.rows.1 = c.rows.2 then [c.rows.1] else [c.rows.1, c.rows.2]

/-- The surface columns of a record's fetch window (R72). -/
def Cover.fetchColumns (c : Cover) : List Nat :=
  List.range' (c.copy.crop.cx + c.first) (c.last - c.first + 1)

/-- The samples of a record's fetch window that meet a test (R64). -/
def Cover.countSamples (c : Cover) (p : Nat → Nat → Bool) : Nat :=
  (c.fetchRows.map (fun y => c.fetchColumns.countP (fun x => p x y))).sum

/-- The samples that bursts read so far leave substituted, over the kept records (R64). -/
def lostSamples (kept : List Cover) (fs : List Fetched) : Nat :=
  (kept.map (fun c => c.countSamples (c.sampleLost fs))).sum

/-- The substituted samples of a record, with every burst of its window read (R64). -/
def State.damageIn (s : State) (fs : List Fetched) (c : Cover) : Nat := c.countSamples (s.sampleDamaged fs c)

/-! ## COMPOSE LINE (R48) -/

/-- The records kept on the line under way or next, and the number shed (R70). -/
def OutputState.kept (q : OutputState) : List Cover × Nat :=
  keptOn q.layers q.timing.width q.nextLine q.timing.lineBudget

/-- Raises the shed and the damage counter of an output (R64, R71). -/
def State.countLine (o : OutputId) (shed damage : Nat) (s : State) : State :=
  s.modCounters (fun c =>
    c.onOutput o (fun k => { k with shed := satAdd k.shed shed, damage := satAdd k.damage damage }))

/-- The surface columns and rows that the layer pixel of an output column needs (R53–R56). -/
def Cover.samplesOf (c : Cover) (x : Nat) : List (Nat × Nat) :=
  let i := ((x : Int) - c.copy.dx).toNat
  let p := i * c.src.sx / 65536
  if c.copy.dx ≤ x ∧ c.i0 ≤ i ∧ i ≤ c.i1 ∧ p < c.copy.crop.cw then
    let cols := match c.copy.filter with
      | .nearest => [p]
      | .bilinear => [p, min (p + 1) (c.copy.crop.cw - 1)]
    c.fetchRows.flatMap (fun y => cols.map (fun k => (c.copy.crop.cx + k, y)))
  else []

/-- The bursts that a run of output columns of a record needs. -/
def Cover.needs (c : Cover) (xs : List Nat) : List BurstRead :=
  ((xs.flatMap c.samplesOf).flatMap (fun xy => (c.src.offsets xy.1 xy.2).map (fun off =>
    { id := c.id, row := xy.2, burst := c.src.burst off, failed := false }))).dedup

/-- Reads bursts for the line under way, each once, and begins the line if none is: the shed records count at its
beginning, a sample as it is first substituted (R62–R64, R70–R72; log 33). -/
def State.fetchLine (o : OutputId) (reads : List BurstRead) (s : State) : State :=
  let q := s.outputs.get o
  let w := q.work.getD ⟨[], 0⟩
  let new := reads.filter (fun r => (readOf w.fetched r.id r.row r.burst).isNone)
  let fs := w.fetched ++ new.map s.readBurst
  let shed := if q.work.isSome then 0 else q.kept.2
  State.countLine o shed (lostSamples q.kept.1 fs - lostSamples q.kept.1 w.fetched)
    (s.modOut o (fun q => { q with work := some { w with fetched := fs } }))

/-- The pixels of a run of columns of the line under way (R66). -/
def State.columnPixels (s : State) (o : OutputId) (xs : List Nat) : List Rgb :=
  let q := s.outputs.get o
  xs.map (s.linePixel (q.work.getD ⟨[], 0⟩).fetched q.timing.background q.kept.1)

/-- Composes further columns of the line under way, which goes on: the bursts they need are read now (R72). -/
def State.composeColumns (o : OutputId) (xs : List Nat) (s : State) : State :=
  let pixels := s.columnPixels o xs
  (State.fetchLine o ((s.outputs.get o).kept.1.flatMap (fun c => c.needs xs)) s).modOut o (fun q =>
    { q with ahead := q.ahead ++ pixels
             work := q.work.map (fun w => { w with columns := w.columns + xs.length }) })

/-- Composes the last columns of the line under way: the rest of each fetch window is read now, and the line ends (R64,
R72). -/
def State.endLine (o : OutputId) (xs : List Nat) (s : State) : State :=
  let q := s.outputs.get o
  let fs := (q.work.getD ⟨[], 0⟩).fetched
  let pixels := s.columnPixels o xs
  State.countLine o 0 ((q.kept.1.map (s.damageIn fs)).sum - lostSamples q.kept.1 fs)
    (s.modOut o (fun q => { q with ahead := q.ahead ++ pixels, work := none, nextLine := q.nextLine + 1 }))

/-- A part of the composition of a line (R48): the reads, then `n` further columns, with which the line may end. -/
def State.composeLine (o : OutputId) (reads : List BurstRead) (n : Nat) (s : State) : State :=
  let q := s.outputs.get o
  if q.timing.height ≤ q.nextLine ∨ (reads = [] ∧ n = 0) then s
  else
    let start := (q.work.map (·.columns)).getD 0
    let left := q.timing.width - start
    let t := s.fetchLine o reads
    if left ≤ n then t.endLine o (List.range' start left) else t.composeColumns o (List.range' start n)

/-- Drives up to `n` composed pixels to the panel, within one line (R67). -/
def OutputState.drive (q : OutputState) (n : Nat) : OutputState :=
  let row := if q.line.length < q.timing.width then q.line else []
  let k := min n (q.timing.width - row.length)
  if k = 0 ∨ q.ahead = [] then q else { q with line := row ++ q.ahead.take k, ahead := q.ahead.drop k }

/-- COMPOSE_LINE (R48): an output whose timing runs composes its active lines in order, each once in a field, and drives
them. -/
def execComposeLine (o : OutputId) (part : LinePart) (s : State) : Host.Outcome State Fault Refusal :=
  if s.startUp.resetPin || !s.outputEnabled o || !(s.outputs.get o).running then .next s
  else .next ((s.composeLine o part.reads part.columns).modOut o (fun q => q.drive part.drive))

end Sys2Proof.Machine
end

