-- ==== Sys2Proof/Machine/Link.lean ====
section
/-! DEFINITION. Chapter 10: the link transactions, the port timers, unknown commands, SUBSCRIBE and READ STATISTICS. -/

namespace Sys2Proof.Machine

/-! ## COMMAND frames (R175, R176) -/

/-- Link acknowledges (Table 10-6). -/
inductive LinkAck where
  | accepted | queueFull | checkError | tooLong | notReady
  deriving DecidableEq, Repr

/-- The code of a link acknowledge (Table 10-6). -/
def linkAckCode : LinkAck → Byte
  | .accepted => 0x00
  | .queueFull => 0x01
  | .checkError => 0x02
  | .tooLong => 0x03
  | .notReady => 0x04

/-- The payload length field of a frame (Table 10-5). -/
def frameLength (bs : List Byte) : Nat := u16 bs 3

/-- Whether the payload and both CRC bytes were written and the CRC-16 matches (R175 test 3). -/
def frameWhole (bs : List Byte) : Bool :=
  7 + frameLength bs ≤ bs.length
    && (crc16 ((bs.drop 1).take (4 + frameLength bs))).toNat == u16 bs (5 + frameLength bs)

/-- The command of an accepted frame (R176). -/
def frameCommand (bs : List Byte) : Frame :=
  { code := bs.getD 1 0, tag := bs.getD 2 0, payload := (bs.drop 5).take (frameLength bs) }

/-- Command queue entries (R176). -/
def queueRoom : Nat := 16

/-- The capacity test of R176. -/
def PortState.hasRoom (q : PortState) : Bool :=
  q.queue.length < queueRoom && q.notices.length + q.owed < noticeRoom

/-- The judgement of a COMMAND frame at its turnaround (R175). A write phase too short to hold a length field fails
test 3. -/
def State.judge (s : State) (p : Port) (bs : List Byte) : LinkAck :=
  if bs.getD 0 0 ≠ 0xA5 then .checkError
  else if 5 ≤ bs.length ∧ 4112 < frameLength bs then .tooLong
  else if !frameWhole bs then .checkError
  else if s.startUp.starting ∨ (s.ports.get p).status = .resetting then .notReady
  else if !(s.ports.get p).hasRoom then .queueFull
  else .accepted

/-- What a judgement adds to the port's raw counters (R175). -/
def LinkAck.count : LinkAck → PortCounters → PortCounters
  | .accepted, k => { k with accepted := satSucc k.accepted }
  | .queueFull, k => { k with queueFull := satSucc k.queueFull }
  | .checkError, k => { k with checkError := satSucc k.checkError }
  | .tooLong, k => { k with tooLong := satSucc k.tooLong }
  | .notReady, k => k

/-- An accepted frame joins the tail of the command queue and is owed a completion (R176). -/
def PortState.accept (q : PortState) (f : Frame) : PortState :=
  { q with queue := q.queue ++ [f], owed := q.owed + 1 }

/-- A COMMAND frame at a present port (R175, R176). -/
def State.commandFrame (p : Port) (bs : List Byte) (s : State) : State :=
  let ack := s.judge p bs
  let t := s.modPort p (fun q =>
    { (if ack = .accepted then q.accept (frameCommand bs) else q) with answer := some [linkAckCode ack] })
  t.modCounters (fun c => c.onPort p ack.count)

/-- Whether a port answers its link: RESET is not held and the port is not ABSENT (R174, R187). -/
def State.linkAlive (s : State) (p : Port) : Bool :=
  !s.startUp.resetPin && decide ((s.ports.get p).status ≠ .absent)

/-! ## NOTICE READ, STATUS READ, the kinds of write phases, the link gap (R174, R181, R182) -/

/-- How many notices a NOTICE READ removes (R181). -/
def PortState.readCount (q : PortState) (max : Nat) : Nat := min (min max noticeRoom) q.notices.length

/-- The answer of a NOTICE READ that removes `n` notices (R181). -/
def PortState.noticeAnswer (q : PortState) (n : Nat) : List Byte :=
  let body := b8 n ++ b8 q.lost ++ (q.notices.take n).flatMap Notice.bytes
  body ++ b16 (crc16 body).toNat

/-- A NOTICE READ at a port (R181, R183): one that leaves the queue empty deasserts the line and stops the timers. -/
def PortState.readNotices (q : PortState) (max : Nat) : PortState :=
  let n := q.readCount max
  let t := { q with notices := q.notices.drop n, lost := 0, answer := some (q.noticeAnswer n) }
  if t.notices.isEmpty then t.calm else t

/-- A NOTICE READ with a maximum count (R181). -/
def State.noticeRead (p : Port) (max : Byte) (s : State) : State := s.modPort p (fun q => q.readNotices max.toNat)

/-- NOTICE_READ (R181). -/
def execNoticeRead (p : Port) (max : Byte) (s : State) : Host.Outcome State Fault Refusal :=
  if s.linkAlive p then .next (s.noticeRead p max) else .next s

/-- The four bytes of a STATUS READ (R182). -/
def State.statusAnswer (s : State) (p : Port) : List Byte :=
  let q := s.ports.get p
  b8 q.status.code ++ b8 q.notices.length ++ b8 q.owed ++ b8 s.part.code

/-- A STATUS READ (R182). -/
def State.statusRead (p : Port) (s : State) : State := s.modPort p (fun q => { q with answer := some (s.statusAnswer p) })

/-- STATUS_READ (R182). -/
def execStatusRead (p : Port) (s : State) : Host.Outcome State Fault Refusal :=
  if s.linkAlive p then .next (s.statusRead p) else .next s

/-- A write phase at a port that answers, of the kind its first byte gives (R174, Table 10-1): bytes beyond those of a NOTICE
READ or a STATUS READ are ignored (log 46); a NOTICE READ that ended before its maximum count was written reads with a free one
(log 47). DESIGN CHOICE: a turnaround before which no byte was written leaves the state (log 44). -/
def State.writePhase (p : Port) (bs : List Byte) (s : State) : State :=
  match bs with
  | [] => s
  | first :: rest =>
    if first = 0x5A then
      match rest with
      | max :: _ => s.noticeRead p max
      | [] => { s.noticeRead p (Config.unwrittenMaximum s.freeCount) with freeCount := s.freeCount + 1 }
    else if first = 0x3C then s.statusRead p
    else s.commandFrame p bs

/-- COMMAND_FRAME (R174, R175): the bytes of a write phase, judged at its turnaround. -/
def execCommandFrame (p : Port) (bs : List Byte) (s : State) : Host.Outcome State Fault Refusal :=
  if s.linkAlive p then .next (s.writePhase p bs) else .next s

/-- The byte a port drives in read slot `k` of a transaction (R174): that of the answer fixed at the turnaround, 0xFF beyond
its end; none outside a transaction. -/
def PortState.readSlot (q : PortState) (k : Nat) : Option Byte := q.answer.map (fun bs => bs.getD k 0xFF)

/-- LINK_GAP (R174): the transaction ends. -/
def execLinkGap (p : Port) (s : State) : Host.Outcome State Fault Refusal :=
  .next (s.modPort p (fun q => { q with answer := none }))

/-! ## Unknown commands (R177) -/

/-- A command whose code is unknown or whose payload length does not fit its code, taken from the head of a queue. -/
def State.takeUnknown (p : Port) (s : State) : State :=
  match s.takeHead p none with
  | none => s
  | some (f, t) => t.complete p f (if (s.ports.get p).status = .attached then .badCommand else .notAttached) .none

/-- UNKNOWN_COMMAND (R177). -/
def execUnknownCommand (p : Port) (s : State) : Host.Outcome State Fault Refusal := .next (s.takeUnknown p)

/-! ## The port timers (R183) -/

/-- The expiry of the quiet timer, where it runs. -/
def PortState.quietExpires (q : PortState) : PortState :=
  match q.quiet with
  | .stopped => q
  | .running _ => { q with quiet := .stopped, attention := q.attention || !q.notices.isEmpty }

/-- The expiry of the hold timer, where it runs. -/
def PortState.holdExpires (q : PortState) : PortState :=
  match q.hold with
  | .stopped => q
  | .running _ => { q with hold := .stopped, attention := q.attention || !q.notices.isEmpty }

/-- QUIET_TIMER_EXPIRY (R183). -/
def execQuietTimerExpiry (p : Port) (s : State) : Host.Outcome State Fault Refusal :=
  if s.startUp.resetPin then .next s else .next (s.modPort p PortState.quietExpires)

/-- HOLD_TIMER_EXPIRY (R183). -/
def execHoldTimerExpiry (p : Port) (s : State) : Host.Outcome State Fault Refusal :=
  if s.startUp.resetPin then .next s else .next (s.modPort p PortState.holdExpires)

/-! ## SUBSCRIBE (R180) -/

/-- SUBSCRIBE by its owning block. -/
def subscribe (p : Port) (f : Frame) (s : State) : State :=
  let m := f.payload.getD 0 0
  if 32 ≤ m.toNat then s.complete p f .badCommand .none
  else (s.modPort p (fun q => { q with mask := m })).complete p f .ok (.subscribe (s.ports.get p).mask m)

/-- SUBSCRIBE (R180). -/
def execSubscribe (p : Port) (s : State) : Host.Outcome State Fault Refusal :=
  .next (s.taking p .subscribe (subscribe p))

/-! ## READ STATISTICS (R186) -/

/-- The counters of a group in index order (Table 10-3). -/
def OutputCounters.values (k : OutputCounters) : List Nat := [k.fields, k.shed, k.damage]

def StreamCounters.values (k : StreamCounters) : List Nat := [k.shown, k.dropped, k.repeated, k.starved]

def MemoryCounters.values (k : MemoryCounters) : List Nat := [k.corrected, k.uncorrectable]

def PosterCounters.values (k : PosterCounters) : List Nat := [k.hits, k.misses, k.loads, k.failures, k.evictions]

def PortCounters.values (k : PortCounters) : List Nat :=
  [k.accepted, k.checkError, k.queueFull, k.tooLong, k.eventsLost]

/-- The counters of group `g` (Table 10-3). -/
def Counters.group (c : Counters) : Nat → List Nat
  | 0 => c.output.o0.values
  | 1 => c.output.o1.values
  | 2 => c.stream.s0.values
  | 3 => c.stream.s1.values
  | 4 => c.memory.values
  | 5 => c.posters.values
  | 6 => c.port.a.values
  | 7 => c.port.b.values
  | _ => []

/-- The baselines with those of group `g` set to the raw values (R186). -/
def Counters.clearGroup (base raw : Counters) : Nat → Counters
  | 0 => { base with output := { base.output with o0 := raw.output.o0 } }
  | 1 => { base with output := { base.output with o1 := raw.output.o1 } }
  | 2 => { base with stream := { base.stream with s0 := raw.stream.s0 } }
  | 3 => { base with stream := { base.stream with s1 := raw.stream.s1 } }
  | 4 => { base with memory := raw.memory }
  | 5 => { base with posters := raw.posters }
  | 6 => { base with port := { base.port with a := raw.port.a } }
  | 7 => { base with port := { base.port with b := raw.port.b } }
  | _ => base

/-- READ STATISTICS by its owning block (R186). -/
def readStatistics (p : Port) (f : Frame) (s : State) : State :=
  let g := u8 f.payload 0
  let clear := u8 f.payload 1
  if 7 < g ∨ 1 < clear then s.complete p f .badCommand .none
  else
    let base := (s.ports.get p).baselines
    let values := List.zipWith (· - ·) (s.counters.group g) (base.group g)
    let t := if clear = 1 then s.modPort p (fun q => { q with baselines := base.clearGroup s.counters g }) else s
    t.complete p f .ok (.statistics g (clear == 1) values)

/-- READ_STATISTICS (R186). -/
def execReadStatistics (p : Port) (s : State) : Host.Outcome State Fault Refusal :=
  .next (s.taking p .readStatistics (readStatistics p))

end Sys2Proof.Machine
end

