-- ==== Sys2Proof/Machine/Arbiter.lean ====
section
/-! DEFINITION. Chapter 7: the flash device (R134), the arbiter's grants and deferrals (R137, R143–R146), the
pass-through commands, and a port's flash teardown. -/

namespace Sys2Proof.Machine

/-! ## The device (R133, R134) -/

/-- How the flash answers in a read mode (R188; log 7). -/
def LaneWiring.answer (w : LaneWiring) : ReadMode → LaneAnswer
  | .one => w.one
  | .two => w.two
  | .four => w.four

/-- Four bytes that fail the signature test of R188: as they are, or with the first one changed in its lowest bit. -/
def failSignature (bs : List Byte) : List Byte :=
  if u32 bs 0 = imageSignature then (bs.getD 0 0 ^^^ 1) :: bs.drop 1 else bs

/-- The byte at a flash offset where no flash answers: a free value, but that the bytes at offsets 0–3 fail the signature
test (R188; log 7). -/
def silentByte (lanes off : Nat) : Byte :=
  if off < 4 then (failSignature ((List.range 4).map (Config.strayFlashByte lanes))).getD off 0
  else Config.strayFlashByte lanes off

/-- The bytes a read transaction returns in the read mode in force (R134, R188): those of the flash, or free values, bound to
fail the signature test where no flash answers (log 7). -/
def State.flashRead (s : State) (r : FlashRange) : List Byte :=
  match s.lanes.answer s.arbiter.mode with
  | .bytes => s.flash.readRun Config.flashBlank r.offset r.length
  | .garbled => (List.range r.length).map (fun i => Config.strayFlashByte s.arbiter.mode.lanes (r.offset + i))
  | .silent => (List.range r.length).map (fun i => silentByte s.arbiter.mode.lanes (r.offset + i))

/-- A program stores the AND of the old and the new bytes (R134). -/
def programFlash (m : Memory) (off : Nat) (data : List Byte) : Memory :=
  m.updateRun Config.flashBlank off data.length (fun a b => b &&& data.getD (a - off) 0xFF)

/-- An erase sets the 65,536 bytes of a block to 0xFF (R134): no cell of the block is left listed. -/
def eraseFlash (m : Memory) (off : Nat) : Memory := m.filter (fun c => c.1 < off ∨ off + 65536 ≤ c.1)

/-- Replaces each byte of a range by what `f` makes of a free value, of the offset and of the byte (log 8). -/
def State.spoilFlash (s : State) (r : FlashRange) (f : Byte → Nat → Byte → Byte) : State :=
  { s with flash := s.flash.updateRun Config.flashBlank r.offset r.length
                      (fun a old => f (Config.abandonedFlashByte s.freeCount a) a old)
           freeCount := s.freeCount + 1 }

/-- What an operation that timed out leaves of a byte, by a free value (R147): a program clears some of the bits that it
would clear, an erase sets the byte to 0xFF or leaves it (log 8). -/
def FlashOpKind.timedOut (k : FlashOpKind) (free : Byte) (a : Nat) (old : Byte) : Byte :=
  match k with
  | .read _ _ => old
  | .program off data => old &&& (data.getD (a - off) 0xFF ||| free)
  | .erase _ => if free.getLsbD 0 then 0xFF else old

/-! ## Ranges (R143) -/

/-- The range of a program or an erase; a read takes no part in deferral (R143). -/
def FlashOpKind.range : FlashOpKind → Option FlashRange
  | .read _ _ => none
  | .program off data => some ⟨off, data.length⟩
  | .erase off => some ⟨off, 65536⟩

/-- Whether two ranges share a flash offset (Section 7.5). -/
def FlashRange.overlaps (r q : FlashRange) : Bool :=
  0 < r.length && 0 < q.length && r.offset < q.offset + q.length && q.offset < r.offset + r.length

/-- Whether an operation's range overlaps a range. -/
def FlashOpKind.overlaps (k : FlashOpKind) (r : FlashRange) : Bool :=
  match k.range with
  | some q => q.overlaps r
  | none => false

/-! ## Grants (R137) -/

/-- Whether an operation at the head of a queue is deferred (R144, R145). -/
def Arbiter.deferred (a : Arbiter) (k : FlashOpKind) : Bool :=
  k.range.isSome && (a.reread || ((a.loadingRange.map (fun r => k.overlaps r)).getD false))

/-- A requester's eligible transaction, if it has one (R137). -/
def Arbiter.eligible (a : Arbiter) : Requester → Option Grant
  | .loader => a.request.map Grant.loader
  | .port p =>
    match a.queues.get p with
    | op :: _ => if a.deferred op.kind then none else some (.port p op)
    | [] => none

/-- The cycle loader, port A, port B, beginning after the requester named by the turn (R137). -/
def afterTurn : Requester → List Requester
  | .loader => [.port .a, .port .b, .loader]
  | .port .a => [.port .b, .loader, .port .a]
  | .port .b => [.loader, .port .a, .port .b]

/-- The operation timer as a grant begins: 5 ms for a program, 2,000 ms for an erase, stopped for a read (R142). -/
def Grant.timer : Grant → Timer
  | .port _ ⟨_, .program _ _⟩ => .running 5000
  | .port _ ⟨_, .erase _⟩ => .running 2000000
  | _ => .stopped

/-- The requester of a grant. -/
def Grant.requester : Grant → Requester
  | .loader _ => .loader
  | .port p _ => .port p

/-- Gives the device to a grant: the turn is set, a granted loader request is no longer waiting, and the operation timer
starts for a program or an erase (R137, R142). -/
def Arbiter.give (a : Arbiter) (g : Grant) : Arbiter :=
  { a with grant := some g, turn := g.requester, timer := g.timer, recovering := false
           request := match g with | .loader _ => none | .port _ _ => a.request }

/-- Gives the next grant if the grant is none and a requester has an eligible transaction (R137). -/
def Arbiter.giveNext (a : Arbiter) : Arbiter :=
  match a.grant with
  | some _ => a
  | none =>
    match (afterTurn a.turn).findSome? a.eligible with
    | some g => a.give g
    | none => a

/-- Gives the next grant (R137). -/
def State.giveNext (s : State) : State := s.modArbiter Arbiter.giveNext

/-- The loader's request arrives (R138). -/
def State.requestRead (r : FlashRange) (s : State) : State :=
  (s.modArbiter (fun a => { a with request := some r })).giveNext

/-- The answer to the loader's overlap question (R146): whether a program or erase, queued in either port or holding
the grant, overlaps the range. -/
def Arbiter.overlapping (a : Arbiter) (r : FlashRange) : Bool :=
  a.queues.a.any (fun op => op.kind.overlaps r) || a.queues.b.any (fun op => op.kind.overlaps r)
    || (match a.grant with
        | some (.port _ op) => op.kind.overlaps r
        | _ => false)

/-! ## Pass-through commands (R139–R141) -/

/-- Queues an accepted pass-through operation: an in-flight entry, the tail of the port's queue, and the grant if it is
none (R135, R137). -/
def queueFlashOp (p : Port) (f : Frame) (k : FlashOpKind) (s : State) : State :=
  ((s.enter p f).modArbiter (fun a => { a with queues := a.queues.set p (a.queues.get p ++ [⟨f.tag, k⟩]) })).giveNext

/-- FLASH READ by its owning block (R139). -/
def flashRead (p : Port) (f : Frame) (s : State) : State :=
  let off := u32 f.payload 0
  let len := u16 f.payload 4
  if len = 0 ∨ 256 < len then s.complete p f .badCommand .none
  else if s.arbiter.deviceSize < off + len then s.complete p f .outOfRange .none
  else queueFlashOp p f (.read off len) s

/-- FLASH_READ (R139). -/
def execFlashRead (p : Port) (s : State) : Host.Outcome State Fault Refusal :=
  .next (s.taking p .flashRead (flashRead p))

/-- FLASH PROGRAM by its owning block (R140). -/
def flashProgram (p : Port) (f : Frame) (s : State) : State :=
  let off := u32 f.payload 0
  let data := f.payload.drop 4
  let len := data.length
  if len = 0 ∨ 256 < len then s.complete p f .badCommand .none
  else if !(s.ports.get p).maintainer then s.complete p f .denied .none
  else if s.arbiter.deviceSize < off + len ∨ off / 256 ≠ (off + len - 1) / 256 then s.complete p f .outOfRange .none
  else queueFlashOp p f (.program off data) s

/-- FLASH_PROGRAM (R140). -/
def execFlashProgram (p : Port) (s : State) : Host.Outcome State Fault Refusal :=
  .next (s.taking p .flashProgram (flashProgram p))

/-- FLASH ERASE by its owning block (R141). -/
def flashErase (p : Port) (f : Frame) (s : State) : State :=
  let off := u32 f.payload 0
  if !(s.ports.get p).maintainer then s.complete p f .denied .none
  else if off % 65536 ≠ 0 ∨ s.arbiter.deviceSize < off + 65536 then s.complete p f .outOfRange .none
  else queueFlashOp p f (.erase off) s

/-- FLASH_ERASE (R141). -/
def execFlashErase (p : Port) (s : State) : Host.Outcome State Fault Refusal :=
  .next (s.taking p .flashErase (flashErase p))

/-! ## Ends of grants -/

/-- Ends the grant of a port's operation: the grant is none, the timer stopped, and the operation leaves its queue
(R136, R142). -/
def Arbiter.endPort (a : Arbiter) (p : Port) (op : FlashOp) : Arbiter :=
  { a with grant := none, timer := .stopped, recovering := false, queues := a.queues.set p ((a.queues.get p).erase op) }

/-- The command of a pass-through operation. -/
def FlashOpKind.cmd : FlashOpKind → Cmd
  | .read _ _ => .flashRead
  | .program _ _ => .flashProgram
  | .erase _ => .flashErase

/-- Whether an operation is a program or an erase. -/
def FlashOpKind.writes : FlashOpKind → Bool
  | .read _ _ => false
  | _ => true

/-- FLASH_READ_END (R139): the read completes with its bytes and the next grant is given. -/
def execFlashReadEnd (s : State) : Host.Outcome State Fault Refusal :=
  if s.startUp.resetPin then .next s
  else
    match s.arbiter.grant with
    | some (.port p ⟨tag, .read off len⟩) =>
      let data := s.flashRead ⟨off, len⟩
      let t := s.modArbiter (fun a => a.endPort p ⟨tag, .read off len⟩)
      .next ((t.completeHeld p .flashRead tag .ok none (.flashRead off len data)).giveNext).settle
    | _ => .next s

/-- The queued operations of a port that do not hold the grant (R148). The operation that holds it is the head. -/
def Arbiter.removable (a : Arbiter) (p : Port) : List FlashOp :=
  if a.grantedTo p then (a.queues.get p).drop 1 else a.queues.get p

/-- Completes an operation with CANCELLED and counts it for the DETACH (R148, R169). -/
def State.cancelOp (p : Port) (s : State) (op : FlashOp) : State :=
  (s.completeHeld p op.kind.cmd op.tag .cancelled none .none).modPort p
    (fun q => { q with cancelled := q.cancelled + 1 })

/-- Removes a port's operations that do not hold the grant; each completes with CANCELLED, from head to tail (R148). -/
def State.cancelFlash (p : Port) (s : State) : State :=
  let gone := s.arbiter.removable p
  let t := s.modArbiter (fun a =>
    { a with queues := a.queues.set p (if a.grantedTo p then (a.queues.get p).take 1 else []) })
  gone.foldl (fun t op => t.cancelOp p op) t

end Sys2Proof.Machine
end

