-- ==== Sys2Proof/Machine/Loader.lean ====
section
/-! DEFINITION. Chapter 6: the directory, the load queue, the loader's begin and its load end, LOAD POSTER, RELEASE
POSTER, QUERY POSTER, and a port's poster teardown. -/

namespace Sys2Proof.Machine

/-! ## The directory (R111, R112) -/

/-- A lookup of a title (R117 step 4): the record, or the reason for the placeholder. -/
def PosterCache.lookup (c : PosterCache) (title : Nat) : Except PlaceholderReason DirRecord :=
  match c.directory with
  | none => .error .noDirectory
  | some d =>
    match d.find? (fun r => r.title == title) with
    | none => .error .unknownTitle
    | some r => if r.bad then .error .badImage else .ok r

/-- The directory record in 19 bytes (Table 10-12), or none where it fails a record test against the title before it
and the flash size (R112 step 2). -/
def parseRecord (b : List Byte) (before flashBytes : Nat) : Option DirRecord :=
  let title := u16 b 0
  let off := u32 b 2
  let w := u16 b 6
  let h := u16 b 8
  let len := u32 b 11
  match Format.ofCode (u8 b 10) with
  | none => none
  | some f =>
    if 1 ≤ title ∧ title ≤ 65534 ∧ before < title ∧ 1 ≤ w ∧ w ≤ 512 ∧ 1 ≤ h ∧ h ≤ 768
        ∧ (f = .rgb565 ∨ f = .pa8888) ∧ len = byteSize f w h ∧ off + len ≤ flashBytes then
      some { title := title, offset := off, width := w, height := h, format := f, length := len
             crc := BitVec.ofNat 32 (u32 b 15), bad := false }
    else none

/-- Takes the records in order until one fails (R112 step 2): the records kept. -/
def parseRecords (flashBytes : Nat) : Nat → List Byte → Nat → List DirRecord
  | 0, _, _ => []
  | n + 1, b, before =>
    match parseRecord (b.take 19) before flashBytes with
    | some r => r :: parseRecords flashBytes n (b.drop 19) r.title
    | none => []

/-- The result of a directory load from all the bytes read (R112): the directory and its status. -/
def DirLoad.result (d : DirLoad) (flashBytes : Nat) : Option (List DirRecord) × DirStatus :=
  if crc32 d.got ≠ d.crc then (none, .noDirectory)
  else
    let rs := parseRecords flashBytes d.count d.got 0
    (some rs, if rs.length = d.count then .ok else .truncated)

/-- The next read transaction of a directory load, if bytes remain (R112). -/
def DirLoad.nextRead (d : DirLoad) : Option FlashRange :=
  let left := d.count * 19 - d.got.length
  if left = 0 then none else some ⟨d.offset + d.got.length, min 4096 left⟩

/-- Sets the BAD flag of a title (R123). -/
def markBad (title : Nat) (d : List DirRecord) : List DirRecord :=
  d.map (fun r => if r.title = title then { r with bad := true } else r)

/-! ## Ends of load entries -/

/-- Completes every waiter of an entry with PLACEHOLDER, in waiter order (R120, R121, R123, R129). -/
def State.placeholderWaiters (title : Nat) (r : PlaceholderReason) (ws : List Waiter) (s : State) : State :=
  ws.foldl (fun t w => t.completeHeld w.port .loadPoster w.tag .placeholder (some r) (.poster ⟨0, 0⟩ title none)) s

/-- Ends the head entry without a poster: its waiters complete, it leaves the queue, the load failures counter rises,
and the loader serves no entry (R120, R121, R123). -/
def State.failHead (r : PlaceholderReason) (s : State) : State :=
  match s.cache.queue with
  | [] => s
  | e :: rest =>
    let t := s.modCache (fun c => { c with queue := rest, work := .idle })
    let t := t.modCounters (fun c => { c with posters := { c.posters with failures := satSucc c.posters.failures } })
    State.placeholderWaiters e.title r e.waiters t

/-! ## Allocation and eviction (R121) -/

/-- The first surface of the idle list that is in no hold set (R121). -/
def State.evictable (s : State) : Option Nat := s.cache.idle.find? (fun i => !s.inHoldSets i)

/-- Evicts an idle surface (R121). -/
def State.evict (i : Nat) (s : State) : State :=
  let t := (s.unmap i).modCache (fun c => { c with idle := c.idle.erase i })
  (t.freePoster i).modCounters
    (fun c => { c with posters := { c.posters with evictions := satSucc c.posters.evictions } })

/-- The loader asks for a surface, evicting until it is granted or no unheld idle surface remains (R121). `fuel` is one
more than the number of idle surfaces. -/
def State.allocatePoster (f : Format) (w h : Nat) : Nat → State → Option Nat × State
  | 0, s => (none, s)
  | fuel + 1, s =>
    match s.surfaces.allocationRefusal .posters (pageCount (byteSize f w h)), s.surfaces.lowestFree with
    | none, some i =>
      (some i, { s with surfaces := s.surfaces.allocate i .posters .poster .loading f w h })
    | _, _ =>
      match s.evictable with
      | some i => State.allocatePoster f w h fuel (s.evict i)
      | none => (none, s)

/-- Transaction `k` of a fill (R122). -/
def Fill.read (f : Fill) : FlashRange := ⟨f.offset + f.k * 4096, min 4096 (f.length - f.k * 4096)⟩

/-- The loader allocates for the head entry and asks for the first transaction, or the entry ends with NO_SPACE
(R121, R138). -/
def State.loaderAllocate (r : DirRecord) (s : State) : State :=
  if s.surfaces.posters.budget < pageCount (byteSize r.format r.width r.height) then s.failHead .noSpace
  else
    match State.allocatePoster r.format r.width r.height (s.cache.idle.length + 1) s with
    | (none, t) => t.failHead .noSpace
    | (some i, t) =>
      let fill : Fill :=
        { title := r.title, surface := i, offset := r.offset, length := r.length, imageCrc := r.crc, k := 0
          crc := crc32Init }
      let t := t.modCache (fun c =>
        { c with map := c.map ++ [⟨r.title, i, r.width, r.height, r.format, r.crc⟩], work := .filling fill })
      let t := t.modCounters (fun c => { c with posters := { c.posters with loads := satSucc c.posters.loads } })
      let t := t.modArbiter (fun a => { a with loadingRange := some ⟨r.offset, r.length⟩ })
      t.requestRead fill.read

/-- The loader serves no entry and may begin one: it is idle or waits on the head (R120). -/
def LoaderWork.free : LoaderWork → Bool
  | .idle | .waiting => true
  | _ => false

/-- The loader begins the head entry (R120): the directory test, the overlap question, the allocation. It begins none
while it serves another or a reload is in progress (R120, R128). -/
def State.loaderBegin (s : State) : State :=
  if !s.cache.work.free || s.cache.reload.isSome then s
  else
    match s.cache.queue with
    | [] => s.modCache (fun c => { c with work := .idle })
    | e :: _ =>
      match s.cache.lookup e.title with
      | .error r => s.failHead r
      | .ok r =>
        if s.arbiter.overlapping ⟨r.offset, r.length⟩ then s.modCache (fun c => { c with work := .waiting })
        else s.loaderAllocate r

/-- LOADER_BEGIN (R120, R121). -/
def execLoaderBegin (s : State) : Host.Outcome State Fault Refusal :=
  if s.startUp.resetPin || s.startUp.starting then .next s else .next s.loaderBegin

/-- The arbiter answers a waiting loader after a program or an erase left a queue (R146): the loader asks again, and an
answer of clear is followed at once by its allocation. -/
def State.answerLoader (s : State) : State := if s.cache.work = .waiting then s.loaderBegin else s

/-! ## Ends of programs and erases (R142, R147) -/

/-- FLASH_OPERATION_DONE (R142): the device reports a program or erase done while the timer runs. DESIGN CHOICE: no cell is
protected or worn, so the flash holds the contents of R134 in the whole range (log 40). -/
def execFlashOperationDone (s : State) : Host.Outcome State Fault Refusal :=
  if s.startUp.resetPin || s.arbiter.timer = .stopped then .next s
  else
    match s.arbiter.grant with
    | some (.port p ⟨tag, .program off data⟩) =>
      let t := { s with flash := programFlash s.flash off data }
      let t := t.modArbiter (fun a => a.endPort p ⟨tag, .program off data⟩)
      .next (((t.completeHeld p .flashProgram tag .ok none (.flashProgram off data.length)).giveNext).answerLoader).settle
    | some (.port p ⟨tag, .erase off⟩) =>
      let t := { s with flash := eraseFlash s.flash off }
      let t := t.modArbiter (fun a => a.endPort p ⟨tag, .erase off⟩)
      .next (((t.completeHeld p .flashErase tag .ok none (.flashErase off)).giveNext).answerLoader).settle
    | _ => .next s

/-- OPERATION_TIMER_EXPIRY (R147 steps 1 and 2): the device reset command is sent, and the device recovers. -/
def execOperationTimerExpiry (s : State) : Host.Outcome State Fault Refusal :=
  if s.startUp.resetPin || s.arbiter.timer = .stopped then .next s
  else
    match s.arbiter.grant with
    | some (.port _ op) =>
      if op.kind.writes then .next (s.modArbiter (fun a => { a with timer := .stopped, recovering := true }))
      else .next s
    | _ => .next s

/-- DEVICE_ACCEPTS_COMMANDS (R147 steps 3 to 6): the timed-out operation completes with FLASH_TIMEOUT and leaves in its
range bytes between the old and the new ones. -/
def execDeviceAcceptsCommands (s : State) : Host.Outcome State Fault Refusal :=
  if s.startUp.resetPin || !s.arbiter.recovering then .next s
  else
    match s.arbiter.grant with
    | some (.port p op) =>
      match op.kind.range with
      | some r =>
        let t := (s.spoilFlash r op.kind.timedOut).modArbiter (fun a => a.endPort p op)
        .next (((t.completeHeld p op.kind.cmd op.tag .flashTimeout none .none).giveNext).answerLoader).settle
      | none => .next s
    | _ => .next s

/-! ## LOAD POSTER (R117–R119) -/

/-- The load queue entry of a title that a LOAD POSTER may join: one whose surface was not removed for damage (R117). -/
def LoadEntry.joinable (title : Nat) (e : LoadEntry) : Bool := e.title == title && !e.removed

/-- Appends a waiter to the first joinable entry of a title. -/
def joinQueue (title : Nat) (w : Waiter) : List LoadEntry → List LoadEntry
  | [] => []
  | e :: q => if e.joinable title then { e with waiters := e.waiters ++ [w] } :: q else e :: joinQueue title w q

/-- Raises the misses counter (R131). -/
def State.countMiss (s : State) : State :=
  s.modCounters (fun c => { c with posters := { c.posters with misses := satSucc c.posters.misses } })

/-- A LOAD POSTER joins an entry as a long command (R119). -/
def State.joinLoad (p : Port) (f : Frame) (title : Nat) (s : State) : State :=
  ((s.enter p f).modCache (fun c => { c with queue := joinQueue title ⟨p, f.tag⟩ c.queue })).countMiss

/-- A LOAD POSTER makes a new entry as a long command (R119). -/
def State.newLoad (p : Port) (f : Frame) (title : Nat) (s : State) : State :=
  ((s.enter p f).modCache (fun c =>
    { c with queue := c.queue ++ [⟨title, [⟨p, f.tag⟩], false⟩] })).countMiss

/-- The result of a LOAD POSTER that gives a real poster (Section 6.3). -/
def State.posterResult (s : State) (i title : Nat) : Result :=
  .poster (s.handleOf i) title ((s.surfaceAt i).map (fun x => (x.width, x.height, x.format)))

/-- A hit on a surface of the map (R118). -/
def State.posterHit (p : Port) (f : Frame) (title i : Nat) (s : State) : State :=
  match s.surfaceAt i with
  | some x =>
    if x.state = .loading then s.joinLoad p f title
    else if 255 ≤ x.refs.get p then s.complete p f .refLimit .none
    else
      let t := s.modSurface i (fun x => { x with refs := x.refs.set p (x.refs.get p + 1) })
      let t := t.modCache (fun c => { c with idle := c.idle.erase i })
      let t := t.modCounters (fun c => { c with posters := { c.posters with hits := satSucc c.posters.hits } })
      t.complete p f .ok (t.posterResult i title)
  | none => s.complete p f .ok (s.posterResult i title)

/-- A LOAD POSTER that neither hits nor joins (R117 steps 5 and 6). -/
def State.queueLoad (p : Port) (f : Frame) (title : Nat) (s : State) : State :=
  if 8 ≤ s.cache.queue.length then s.completePlaceholder p f .loadBusy (.poster ⟨0, 0⟩ title none)
  else s.newLoad p f title

/-- LOAD POSTER by its owning block (R117). -/
def loadPoster (p : Port) (f : Frame) (s : State) : State :=
  let title := u16 f.payload 0
  if s.errors.fault then s.complete p f .fault .none
  else
    match s.cache.map.find? (fun e => e.title == title) with
    | some e => s.posterHit p f title e.surface
    | none =>
      if s.cache.queue.any (fun e => e.joinable title) then s.joinLoad p f title
      else if s.cache.reload.isSome then s.queueLoad p f title
      else
        match s.cache.lookup title with
        | .error r => s.completePlaceholder p f r (.poster ⟨0, 0⟩ title none)
        | .ok _ => s.queueLoad p f title

/-- LOAD_POSTER (R117–R119). -/
def execLoadPoster (p : Port) (s : State) : Host.Outcome State Fault Refusal :=
  .next (s.taking p .loadPoster (loadPoster p))

/-! ## RELEASE POSTER (R124) -/

/-- The condition of a poster surface that RELEASE POSTER reports (R124, Table 10-8). -/
def State.posterCondition (s : State) (i : Nat) : PosterCondition :=
  match s.surfaceStateOf i with
  | none => .freed
  | some .retiring => .retiring
  | some _ =>
    if s.pinned i then .pinned else if s.cache.idle.contains i then .idle else .draining

/-- RELEASE POSTER by its owning block (R124). -/
def releasePoster (p : Port) (f : Frame) (s : State) : State :=
  let h := handleAt f.payload 0
  match s.resolve h with
  | none => s.complete p f .badHandle .none
  | some x =>
    if h.index = 0 then s.complete p f .ok .none
    else if x.kind ≠ .poster ∨ x.refs.get p = 0 then s.complete p f .notOwner .none
    else
      let t := s.modSurface h.index (fun x => { x with refs := x.refs.set p (x.refs.get p - 1) })
      let t := t.unpinEvent h.index
      t.complete p f .ok (.released (x.refs.get p - 1) (t.posterCondition h.index))

/-- RELEASE_POSTER (R124). -/
def execReleasePoster (p : Port) (s : State) : Host.Outcome State Fault Refusal :=
  .next (s.taking p .releasePoster (releasePoster p))

/-! ## QUERY POSTER (R125) -/

/-- The figures of QUERY POSTER (R125; log 22). -/
def State.posterReport (s : State) (p : Port) (title : Nat) : PosterReport :=
  let record := (s.cache.directory.getD []).find? (fun r => r.title == title)
  let entry := s.cache.map.find? (fun e => e.title == title)
  let loading := (entry.map (fun e => s.surfaceStateOf e.surface == some .loading)).getD false
  { hasDirectory := s.cache.directory.isSome, listed := record.isSome, bad := (record.map (·.bad)).getD false
    condition :=
      match entry with
      | some _ => if loading then .loading else .resident
      | none => if s.cache.queue.any (fun e => e.joinable title) then .queued else .absent
    handle := entry.map (fun e => s.handleOf e.surface)
    resident :=
      match entry with
      | some e =>
        if loading then none
        else some (((s.surfaceAt e.surface).map (fun x => x.refs.get p)).getD 0, s.cache.idle.contains e.surface)
      | none => none }

/-- QUERY POSTER by its owning block (R125). -/
def queryPoster (p : Port) (f : Frame) (s : State) : State :=
  s.complete p f .ok (.posterQuery (s.posterReport p (u16 f.payload 0)))

/-- QUERY_POSTER (R125). -/
def execQueryPoster (p : Port) (s : State) : Host.Outcome State Fault Refusal :=
  .next (s.taking p .queryPoster (queryPoster p))

/-! ## The end of a fill (R122, R123) -/

/-- Each waiter in order: its port's count rises by 1 and its LOAD completes with OK and the handle (R123). -/
def State.grantWaiters (i title : Nat) (ws : List Waiter) (s : State) : State :=
  ws.foldl
    (fun t w =>
      let t := t.modSurface i (fun x => { x with refs := x.refs.set w.port (x.refs.get w.port + 1) })
      t.completeHeld w.port .loadPoster w.tag .ok none (t.posterResult i title)) s

/-- The head entry leaves the queue and the loader serves none; the loading range is cleared (R123, R138). -/
def State.leaveHead (s : State) : State :=
  (s.modCache (fun c => { c with queue := c.queue.drop 1, work := .idle })).modArbiter
    (fun a => { a with loadingRange := none })

/-- Ends the served entry after its last transaction (R123). -/
def State.loadEnd (f : Fill) (s : State) : State :=
  let ws := ((s.cache.queue.head?).map (·.waiters)).getD []
  if crc32Final f.crc = f.imageCrc then
    let t := s.modSurface f.surface (fun x => { x with state := .resident })
    let t := State.grantWaiters f.surface f.title ws t
    let t := t.leaveHead
    if t.inMap f.surface then (if t.pinned f.surface then t else t.joinIdle f.surface)
    else if t.pinned f.surface then
      t.modCache (fun c => if c.stale.contains f.surface then c else { c with stale := c.stale ++ [f.surface] })
    else t.freePoster f.surface
  else
    let t := s.modCache (fun c => { c with directory := c.directory.map (markBad f.title) })
    let t := (t.unmap f.surface).freePoster f.surface
    (t.failHead .badImage).modArbiter (fun a => { a with loadingRange := none })

/-- The end of a transaction of a fill (R122): the data goes to its page through the write path, the CRC runs on, and
the next transaction is asked for or the entry ends. The results of the read-back are commands of their own (log 13). -/
def State.fillStep (f : Fill) (data : List Byte) (s : State) : State :=
  let pages := ((s.surfaceAt f.surface).map (·.pages)).getD []
  let t := (s.writeSurface pages (f.k * 4096) data).1
  let f' := { f with k := f.k + 1, crc := crc32Run f.crc data }
  if f'.k * 4096 < f.length then
    (t.modCache (fun c => { c with work := .filling f' })).modArbiter (fun a => { a with request := some f'.read })
  else t.loadEnd f'

/-! ## Teardown (R130) -/

/-- Whether the head entry has been begun (R119, R130). -/
def LoaderWork.serving : LoaderWork → Bool
  | .filling _ => true
  | _ => false

/-- Removes a port's waiters from the load queue; an entry not begun that is left without waiters goes too (R130
step 1). `begun` says whether the head entry has been begun. -/
def dropWaiters (p : Port) (begun : Bool) (q : List LoadEntry) : List LoadEntry :=
  (q.zipIdx.map (fun x => ({ x.1 with waiters := x.1.waiters.filter (fun w => w.port ≠ p) }, x.2))).filterMap
    (fun x => if x.1.waiters.isEmpty && !(begun && x.2 == 0) then none else some x.1)

/-- The tags of a port's waiters in queue order and waiter order. -/
def waiterTags (p : Port) (q : List LoadEntry) : List Byte :=
  q.flatMap (fun e => (e.waiters.filter (fun w => w.port = p)).map (·.tag))

/-- Completes a cancelled LOAD POSTER and counts it for the DETACH (R130, R169). -/
def State.cancelLoad (p : Port) (s : State) (tag : Byte) : State :=
  (s.completeHeld p .loadPoster tag .cancelled none .none).modPort p (fun q => { q with cancelled := q.cancelled + 1 })

/-- Sets a port's count on a POSTER surface to 0 and acts on it if it becomes unpinned (R130 step 2). -/
def State.dropRefs (p : Port) (s : State) (i : Nat) : State :=
  match s.surfaceAt i with
  | some x =>
    if x.kind = .poster ∧ 0 < x.refs.get p then
      (s.modSurface i (fun x => { x with refs := x.refs.set p 0 })).unpinEvent i
    else s
  | none => s

/-- The poster cache's part of a port's teardown (R130). If the head on which the loader waits is removed, the loader
takes the new head at once (R120; log 27). -/
def State.tearPosters (p : Port) (s : State) : State :=
  let begun := s.cache.work.serving
  let tags := waiterTags p s.cache.queue
  let headGone := (dropWaiters p begun (s.cache.queue.take 1)).isEmpty
  let t := s.modCache (fun c => { c with queue := dropWaiters p begun c.queue })
  let t := tags.foldl (fun t tag => t.cancelLoad p tag) t
  let t := surfaceIndices.foldl (fun t i => t.dropRefs p i) t
  if s.cache.work = .waiting ∧ headGone then t.loaderBegin else t

/-- The arbiter's part of a port's teardown (R148): the cancelled operations, and the answer to a waiting loader if one
of them was a program or an erase. -/
def State.tearFlash (p : Port) (s : State) : State :=
  let gone := s.arbiter.removable p
  let t := s.cancelFlash p
  if gone.any (fun op => op.kind.writes) then t.answerLoader else t

end Sys2Proof.Machine
end

