-- ==== Sys2Proof/Machine/Ports.lean ====
section
/-! DEFINITION. Chapter 9: ATTACH, DETACH, and the port reset line. -/

namespace Sys2Proof.Machine

/-! ## ATTACH (R166) -/

/-- What ATTACH reports of an output: the active width and height if it is enabled (R166). -/
def OutputState.geometry (q : OutputState) : Option (Nat × Nat) :=
  if q.timing.enabled then some (q.timing.width, q.timing.height) else none

/-- The result of ATTACH (R166). -/
def State.attachReport (s : State) (p : Port) : AttachReport :=
  { partCode := 0x0712, revision := 1, part := s.part, status := s.startUp.status, singlePort := s.singlePort
    budget := (s.surfaces.account (accountOf p)).budget, share := entryShare (accountOf p)
    firstLayer := firstLayer p, lastLayer := firstLayer p + 11, maintainer := (s.ports.get p).maintainer
    outputs := ⟨s.outputs.o0.geometry, s.outputs.o1.geometry⟩ }

/-- Sets the status of a port. -/
def State.setStatus (p : Port) (st : PortStatus) (s : State) : State := s.modPort p (fun q => { q with status := st })

/-- A DETACHED port that takes ATTACH becomes ATTACHED (R166, R79, R167). DESIGN CHOICE: the wishes act before the completion,
so the PANEL STATE of an output that wakes is offered to the other port before PORT CHANGE (log 42). -/
def attachPort (p : Port) (f : Frame) (s : State) : State :=
  let t := State.setWishes p (some .active) (s.setStatus p .attached)
  State.portChange p (t.complete p f .ok (.attach (t.attachReport p)))

/-- ATTACH taken from the head of a port's queue (R165, R166): the state of the port decides. -/
def State.takeAttach (p : Port) (s : State) : State :=
  match s.takeHead p (some .attach) with
  | none => s
  | some (f, t) =>
    match (s.ports.get p).status with
    | .detached => attachPort p f t
    | .attached => t.complete p f .wrongState .none
    | _ => t.complete p f .notAttached .none

/-- ATTACH (R165, R166). -/
def execAttach (p : Port) (s : State) : Host.Outcome State Fault Refusal := .next (s.takeAttach p)

/-! ## Teardown (R168) -/

/-- Steps 1 to 3 of R168, for a port that has just left ATTACHED: its wishes, its mask and baselines, and the five
teardown requests in order. -/
def State.tearDown (p : Port) (s : State) : State :=
  let t := State.setWishes p none s
  let t := t.modPort p (fun q => { q with mask := 0, baselines := Counters.zero, cancelled := 0 })
  let t := t.tearLayers p
  let t := t.tearStreams p
  let t := t.tearPosters p
  let t := t.tearFlash p
  t.tearSurfaces p

/-- DETACH taken by an ATTACHED port (R168); if nothing is left to wait for it ends in the same event (R169). -/
def detach (p : Port) (f : Frame) (s : State) : State :=
  let t := (s.enter p f).setStatus p .detaching
  ((t.tearDown p).portChange p).settle

/-- DETACH (R168, R169). -/
def execDetach (p : Port) (s : State) : Host.Outcome State Fault Refusal :=
  .next (s.taking p .detach (detach p))

/-! ## The port reset line (R170, R171) -/

/-- The port's own part of R170: RESETTING, both queues empty, nothing owed, no lost event, its line deasserted. -/
def PortState.resetting (q : PortState) : PortState :=
  { q.calm with status := .resetting, resetLine := true, queue := [], notices := [], owed := 0, lost := 0 }

/-- The assertion of a present port's reset line (R170). -/
def State.portReset (p : Port) (s : State) : State :=
  let q := s.ports.get p
  let t := s.modPort p PortState.resetting
  let t := if q.status = .attached then t.tearDown p else t
  (t.portChange p).settle

/-- PORT_RESET_ASSERT (R170). On an ABSENT port the line is ignored (R163); on a RESETTING port only its level
changes (R171). DESIGN CHOICE: a port whose line is asserted again before its teardown ends waits for the next release
(log 37). -/
def execPortResetAssert (p : Port) (s : State) : Host.Outcome State Fault Refusal :=
  if s.startUp.resetPin then .next s
  else
    match (s.ports.get p).status with
    | .absent => .next s
    | .resetting => .next (s.modPort p (fun q => { q with resetLine := true }))
    | _ => .next (s.portReset p)

/-- PORT_RESET_RELEASE (R171). -/
def execPortResetRelease (p : Port) (s : State) : Host.Outcome State Fault Refusal :=
  if s.startUp.resetPin then .next s
  else
    match (s.ports.get p).status with
    | .absent => .next s
    | _ => .next (s.modPort p (fun q => { q with resetLine := false })).settle

end Sys2Proof.Machine
end

