-- ==== Sys2Proof/Machine/Image.lean ====
section
/-! DEFINITION. Chapter 11, the configuration image: its layout (Table 10-11), the built-in defaults (Table 11-2), and
the checks of R189 and R190. -/

namespace Sys2Proof.Machine

/-- A port's section of the image (Table 10-11). -/
structure PortSection where
  budget : Nat
  maintainer : Bool
  quiet : Nat
  hold : Nat
  deriving DecidableEq, Repr

/-- The fields of a configuration image, or of the built-in defaults. `dirOffset` is absent for no directory, `fallback`
is absent in the defaults. -/
structure Image where
  timing : PerOutput TimingRecord
  damage : Rgb
  flashMiB : Nat
  dirOffset : Option Nat
  dirCount : Nat
  dirCrc : Word32
  fallback : Option (Nat × Word32)
  posters : Nat
  sections : PerPort PortSection
  deriving DecidableEq, Repr

/-- Bytes of the image (R188). -/
def imageBytes : Nat := 95

/-- Whether a read yields a valid image (R188). -/
def imageValid (b : List Byte) : Bool :=
  u32 b 0 == imageSignature && u16 b 4 == 1 && u32 b 6 == 95
    && crc32 ((b.take imageBytes).drop 14) == BitVec.ofNat 32 (u32 b 10)

/-- The enabled flag of a timing record's enabled byte: 0 clear, 1 set, any other value free (Table 10-9; log 17). -/
def enabledFlag (b : Byte) : Bool :=
  if b = 0 then false else if b = 1 then true else Config.enabledByte b

/-- The timing record at an offset of the image (Table 10-11). -/
def timingAt (b : List Byte) (i : Nat) : TimingRecord :=
  { flag := enabledFlag (b.getD i 0), width := u16 b (i + 1), height := u16 b (i + 3), htotal := u16 b (i + 5)
    vtotal := u16 b (i + 7), pixelKHz := u32 b (i + 9), background := rgb b (i + 13), lineBudget := u32 b (i + 16)
    wakeFields := u8 b (i + 20) }

/-- A port's section at an offset of the image; a maintainer byte of 1 sets the flag, any other clears it (R189). -/
def sectionAt (b : List Byte) (i : Nat) : PortSection :=
  { budget := u16 b i, maintainer := u8 b (i + 2) == 1, quiet := u16 b (i + 3), hold := u16 b (i + 5) }

/-- The fields of a valid image (Table 10-11). -/
def parseImage (b : List Byte) : Image :=
  { timing := ⟨timingAt b 14, timingAt b 35⟩, damage := rgb b 56, flashMiB := u16 b 59
    dirOffset := if u32 b 61 = 0xFFFFFFFF then none else some (u32 b 61), dirCount := u16 b 65
    dirCrc := BitVec.ofNat 32 (u32 b 67), fallback := some (u32 b 71, BitVec.ofNat 32 (u32 b 75))
    posters := u16 b 79, sections := ⟨sectionAt b 81, sectionAt b 88⟩ }

/-- The built-in defaults (Table 11-2). DESIGN CHOICE: the fields of the disabled output 1 are zeros (log 43). -/
def defaultImage : Image :=
  { timing :=
      ⟨{ flag := true, width := 1080, height := 1920, htotal := 1200, vtotal := 1980, pixelKHz := 142560
         background := ⟨0, 0, 0⟩, lineBudget := 24576, wakeFields := 8 }, TimingRecord.blank⟩
    damage := ⟨255, 0, 255⟩, flashMiB := 16, dirOffset := none, dirCount := 0, dirCrc := 0, fallback := none
    posters := 320, sections := ⟨⟨8000, false, 50, 500⟩, ⟨8000, false, 50, 500⟩⟩ }

/-- Raises a number to a lower limit or lowers it to an upper one. -/
def clampNat (lo hi n : Nat) : Nat := max lo (min hi n)

/-- A timing record with its line budget and wake fields clamped, where the output is enabled (R73, R189). -/
def TimingRecord.settled (t : TimingRecord) : TimingRecord :=
  if t.enabled then
    { t with lineBudget := clampNat 4096 65536 t.lineBudget, wakeFields := clampNat 1 64 t.wakeFields }
  else t

/-- Whether the flag is set and a field of R73 is out of range: the note output disabled (R73, R189; log 18). -/
def TimingRecord.disabledNote (t : TimingRecord) : Bool := t.flag && !t.inRange

/-- Whether the line budget of an enabled output is clamped (R189). -/
def TimingRecord.budgetNote (t : TimingRecord) : Bool := t.enabled && (t.lineBudget < 4096 || 65536 < t.lineBudget)

/-- Whether the wake fields of an enabled output are clamped (R189). -/
def TimingRecord.wakeNote (t : TimingRecord) : Bool := t.enabled && (t.wakeFields < 1 || 64 < t.wakeFields)

/-- The flash size in bytes after its clamp (R189). -/
def Image.flashBytes (c : Image) : Nat := clampNat 1 256 c.flashMiB * 1048576

/-- The directory source: count clamped, then the range check, or none for no directory (R189). -/
def dirSource (off : Option Nat) (count : Nat) (crc : Word32) (flashBytes : Nat) : Option (Nat × Nat × Word32) :=
  match off with
  | none => none
  | some o => if o + min count 4096 * 19 ≤ flashBytes then some (o, min count 4096, crc) else none

/-- Whether a directory is configured but out of range (R189). -/
def dirRangeNote (off : Option Nat) (count flashBytes : Nat) : Bool :=
  match off with
  | none => false
  | some o => flashBytes < o + min count 4096 * 19

/-- The fallback source: none in the defaults or out of range (R189). -/
def Image.fallbackSource (c : Image) : Option (Nat × Word32) :=
  c.fallback.filter (fun x => x.1 + Config.fallbackBytes ≤ c.flashBytes)

/-- The budgets of step 1 of R190: PORT_A, PORT_B, POSTERS. -/
def reduceBudgets (a b p : Nat) : Nat × Nat × Nat :=
  let excess := (a + b + p) - Config.poolPages
  let fromP := min excess (p - 1024)
  let fromB := min (excess - fromP) b
  let fromA := min (excess - fromP - fromB) a
  (a - fromA, b - fromB, p - fromP)

/-- The budgets of R190: step 1, then an absent port's budget goes to the present port. -/
def settleBudgets (straps : PerPort Bool) (a b p : Nat) : Nat × Nat × Nat :=
  let r := reduceBudgets a b p
  if !straps.b then (r.1 + r.2.1, 0, r.2.2) else if !straps.a then (0, r.2.1 + r.1, r.2.2) else r

/-- The quiet or hold time of a section is above its maximum (R189). -/
def PortSection.timesNote (x : PortSection) : Bool := 1000 < x.quiet || 10000 < x.hold

/-- The notes that validation makes (R189, R190). The fallback-failed note is made by the fallback load (R191). -/
def Image.notes (c : Image) (defaults : Bool) : ConfigNotes :=
  { defaultsUsed := defaults
    output0Disabled := c.timing.o0.disabledNote, output1Disabled := c.timing.o1.disabledNote
    lineBudget0 := c.timing.o0.budgetNote, lineBudget1 := c.timing.o1.budgetNote
    wakeFields0 := c.timing.o0.wakeNote, wakeFields1 := c.timing.o1.wakeNote
    flashSize := c.flashMiB < 1 || 256 < c.flashMiB, directoryCount := 4096 < c.dirCount
    directoryRange := dirRangeNote c.dirOffset c.dirCount c.flashBytes
    fallbackRange := c.fallback.isSome && c.fallbackSource.isNone, fallbackFailed := false
    budgetsReduced := Config.poolPages < c.sections.a.budget + c.sections.b.budget + c.posters
    timesA := c.sections.a.timesNote, timesB := c.sections.b.timesNote }

/-- A port takes its section's values, clamped (R189). -/
def PortState.configure (q : PortState) (x : PortSection) : PortState :=
  { q with maintainer := x.maintainer, quietTime := min x.quiet 1000, holdTime := min x.hold 10000 }

/-- Start-up hands the validated values to their owning blocks (R189, R190). -/
def State.configure (c : Image) (defaults : Bool) (s : State) : State :=
  let b := settleBudgets s.startUp.straps c.sections.a.budget c.sections.b.budget c.posters
  { s with
    startUp := { s.startUp with
      status := { mode := s.arbiter.mode, notes := c.notes defaults, directory := .noDirectory, records := 0 }
      dirSource := dirSource c.dirOffset c.dirCount c.dirCrc c.flashBytes
      fallbackSource := c.fallbackSource, damageColour := c.damage }
    surfaces := { s.surfaces with
      portA := { s.surfaces.portA with budget := b.1 }
      portB := { s.surfaces.portB with budget := b.2.1 }
      posters := { s.surfaces.posters with budget := b.2.2 } }
    outputs :=
      ⟨{ s.outputs.o0 with timing := c.timing.o0.settled }, { s.outputs.o1 with timing := c.timing.o1.settled }⟩
    arbiter := { s.arbiter with deviceSize := c.flashBytes }
    ports := ⟨s.ports.a.configure c.sections.a, s.ports.b.configure c.sections.b⟩ }

end Sys2Proof.Machine
end

