-- ==== Sys2Proof/Machine/StartUp.lean ====
section
/-! DEFINITION. Chapter 11 and the loader's ends of reads: COLD RESET, RESET ASSERT, LOADER READ END, RELOAD DIRECTORY
and RESTART. -/

namespace Sys2Proof.Machine

/-! ## The loader's work between reads -/

/-- The loader leaves its next read as a request; the grant is given at the end of the event (R138, R137). -/
def State.askRead (r : FlashRange) (w : LoaderWork) (s : State) : State :=
  (s.modCache (fun c => { c with work := w })).modArbiter (fun a => { a with request := some r })

/-- The configuration image in flash (R188). -/
def imageRange : FlashRange := ⟨0, imageBytes⟩

/-- Updates the configuration status. -/
def State.modStatus (s : State) (f : ConfigStatus → ConfigStatus) : State :=
  { s with startUp := { s.startUp with status := f s.startUp.status } }

/-! ## The end of start-up (R192) -/

/-- An output at the end of start-up: its timing starts in BLANKED if it is enabled, under FORCED BLANK in FAULT. -/
def OutputState.bringUp (q : OutputState) (fault : Bool) : OutputState :=
  if q.timing.enabled then { q.start .blanked with forcedBlank := fault } else q

/-- The RESTART that waits for the end of start-up completes (R173, R192). -/
def State.completeRestart (s : State) : State :=
  match s.startUp.restart with
  | none => s
  | some r =>
    let t := { s with startUp := { s.startUp with restart := none } }
    t.completeHeld r.port .restart r.tag .ok none
      (.restart t.part t.startUp.status t.singlePort r.discarded)

/-- Start-up finishes (R192). -/
def State.finishStart (s : State) : State :=
  let t := { s with
    outputs := ⟨s.outputs.o0.bringUp s.errors.fault, s.outputs.o1.bringUp s.errors.fault⟩
    startUp := { s.startUp with starting := false } }
  (t.modCache (fun c => { c with work := .idle })).completeRestart

/-! ## The fallback poster (R191) -/

/-- A colour as an RGB565 word (R191). -/
def Rgb.word565 (c : Rgb) : Nat := c.r / 8 * 2048 + c.g / 4 * 32 + c.b / 8

/-- The bytes of surface 0 filled with the damage colour (R191). -/
def damageFill (c : Rgb) : List Byte := (List.replicate (Config.fallbackBytes / 2) (b16 c.word565)).flatten

/-- The pages of surface 0. -/
def State.fallbackPages (s : State) : List Nat := ((s.surfaceAt 0).map (·.pages)).getD []

/-- Surface 0 is filled with the damage colour and the status notes fallback failed (R191). -/
def State.fallbackFail (s : State) : State :=
  (s.writeSurface s.fallbackPages 0 (damageFill s.startUp.damageColour)).1.modStatus
    (fun c => { c with notes := { c.notes with fallbackFailed := true } })

/-- Transaction `k` of the fallback load (R191). -/
def fallbackRead (off k : Nat) : FlashRange := ⟨off + k * 4096, min 4096 (Config.fallbackBytes - k * 4096)⟩

/-- Start-up begins the fallback load, or has none to read (R191). -/
def State.beginFallback (s : State) : State :=
  match s.startUp.fallbackSource with
  | none => s.fallbackFail.finishStart
  | some (off, crc) => s.askRead (fallbackRead off 0) (.fallback off crc 0 crc32Init)

/-- The end of a transaction of the fallback load (R191). -/
def State.fallbackStep (off : Nat) (wanted : Word32) (k : Nat) (crc : Word32) (data : List Byte) (s : State) : State :=
  let t := (s.writeSurface s.fallbackPages (k * 4096) data).1
  let crc' := crc32Run crc data
  if (k + 1) * 4096 < Config.fallbackBytes then
    t.askRead (fallbackRead off (k + 1)) (.fallback off wanted (k + 1) crc')
  else if crc32Final crc' = wanted then t.finishStart
  else t.fallbackFail.finishStart

/-! ## RELOAD DIRECTORY (R128, R129) -/

/-- Whether a surface of the map is changed under a new directory (R129 step 3). -/
def MapEntry.changed (e : MapEntry) (d : Option (List DirRecord)) : Bool :=
  match (d.getD []).find? (fun r => r.title == e.title) with
  | none => true
  | some r => r.width != e.width || r.height != e.height || r.format != e.format || r.crc != e.crc

/-- What the pass of R129 step 3 has counted: surfaces removed from the map, and those that went to the stale list. -/
structure ReloadTally where
  removed : Nat
  stale : Nat
  deriving DecidableEq, Repr

/-- The pass of R129 step 3 at one surface. One that is freed unpinned counts as an eviction (R131). -/
def reloadPass (d : Option (List DirRecord)) (x : State × ReloadTally) (i : Nat) : State × ReloadTally :=
  match x.1.cache.map.find? (fun e => e.surface == i) with
  | none => x
  | some e =>
    if e.changed d && x.1.surfaceStateOf i == some .resident then
      if x.1.pinned i then (x.1.removeResident i, ⟨x.2.removed + 1, x.2.stale + 1⟩)
      else
        ((x.1.removeResident i).modCounters
          (fun c => { c with posters := { c.posters with evictions := satSucc c.posters.evictions } }),
          ⟨x.2.removed + 1, x.2.stale⟩)
    else x

/-- Completes every waiter of every load queue entry with PLACEHOLDER, NO_DIRECTORY, and empties the queue (R129
step 4). -/
def State.failQueue (s : State) : State :=
  s.cache.queue.foldl (fun t e => State.placeholderWaiters e.title .noDirectory e.waiters t)
    (s.modCache (fun c => { c with queue := [] }))

/-- Completes the RELOAD DIRECTORY in progress (R129 steps 4 and 5). -/
def State.completeReload (st : Status) (res : Result) (s : State) : State :=
  match s.cache.reload with
  | none => s
  | some w =>
    (s.modCache (fun c => { c with reload := none })).completeHeld w.port .reloadDirectory w.tag st none res

/-- Ends a directory reload with its result (R129 steps 2 to 5): none for a bad image or for no directory. DESIGN CHOICE: the
re-read flag is clear before the next grant is given (log 45). -/
def State.reloadFinish (d : Option (List DirRecord)) (st : DirStatus) (s : State) : State :=
  let t := (s.modCache (fun c => { c with directory := d, work := .idle })).modArbiter
    (fun a => { a with reread := false })
  let u := surfaceIndices.foldl (reloadPass d) (t, ⟨0, 0⟩)
  match d with
  | none => u.1.failQueue.completeReload .directoryBad .none
  | some rs =>
    u.1.completeReload (match st with | .truncated => .directoryTruncated | _ => .ok)
      (.reload rs.length u.2.removed u.2.stale)

/-- The loader begins the reload: the re-read flag is set and the image is read again (R129 step 1, R145). -/
def State.beginReload (s : State) : State :=
  (s.modArbiter (fun a => { a with reread := true })).askRead imageRange .reloadConfig

/-- RELOAD DIRECTORY by its owning block (R128). -/
def reloadDirectory (p : Port) (f : Frame) (s : State) : State :=
  if !(s.ports.get p).maintainer then s.complete p f .denied .none
  else if s.cache.reload.isSome then s.complete p f .busy .none
  else
    let t := (s.enter p f).modCache (fun c => { c with reload := some ⟨p, f.tag⟩ })
    if t.cache.work.free then t.beginReload.giveNext else t

/-- RELOAD_DIRECTORY (R128, R129). -/
def execReloadDirectory (p : Port) (s : State) : Host.Outcome State Fault Refusal :=
  .next (s.taking p .reloadDirectory (reloadDirectory p))

/-! ## Directory loads (R112, R191) -/

/-- The directory load of start-up ends (R191): the directory, the status, the re-read flag, the fallback load. -/
def State.startDirectoryEnd (d : Option (List DirRecord)) (st : DirStatus) (s : State) : State :=
  let t := (s.modCache (fun c => { c with directory := d })).modArbiter (fun a => { a with reread := false })
  (t.modStatus (fun c => { c with directory := st, records := (d.getD []).length })).beginFallback

/-- A directory load ends with its result: that of start-up, or that of a reload (R112). -/
def State.directoryEnd (d : Option (List DirRecord)) (st : DirStatus) (s : State) : State :=
  if s.startUp.starting then s.startDirectoryEnd d st else s.reloadFinish d st

/-- A directory load asks for its next read, or ends when no byte is left (R112). -/
def State.directoryGo (d : DirLoad) (s : State) : State :=
  match d.nextRead with
  | some r => s.askRead r (.directory d)
  | none =>
    let x := d.result s.arbiter.deviceSize
    s.directoryEnd x.1 x.2

/-- A directory load begins from its source, or ends at once without one (R112, R191, R193). -/
def State.beginDirectory (src : Option (Nat × Nat × Word32)) (s : State) : State :=
  match src with
  | none => s.directoryEnd none .noDirectory
  | some (off, count, crc) => s.directoryGo ⟨off, count, crc, []⟩

/-! ## The configuration read (R188) -/

/-- Start-up applies a configuration and begins its directory load (R189, R191). -/
def State.applyImage (c : Image) (defaults : Bool) (s : State) : State :=
  let t := s.configure c defaults
  t.beginDirectory t.startUp.dirSource

/-- Start-up reads the image in a mode (R188). -/
def State.readImage (m : ReadMode) (s : State) : State :=
  (s.modArbiter (fun a => { a with mode := m })).askRead imageRange (.startConfig m)

/-- The end of a configuration read of start-up in a mode (R188). -/
def State.startConfigStep (m : ReadMode) (data : List Byte) (s : State) : State :=
  if imageValid data then s.applyImage (parseImage data) false
  else
    match m with
    | .one => s.readImage .two
    | .two => s.readImage .four
    | .four => (s.modArbiter (fun a => { a with mode := .one })).applyImage defaultImage true

/-- The end of a configuration read of a reload (R129 step 1, R193). -/
def State.reloadConfigStep (data : List Byte) (s : State) : State :=
  if imageValid data then
    let c := parseImage data
    s.beginDirectory (dirSource c.dirOffset c.dirCount c.dirCrc s.arbiter.deviceSize)
  else s.reloadFinish none .noDirectory

/-! ## LOADER READ END (R122) -/

/-- A fill's transaction ended: its step, and the reload that waited for the entry to end (R122, R128). DESIGN CHOICE: the
reload sets its re-read flag before the next grant is given (log 35). -/
def State.fillEnd (f : Fill) (data : List Byte) (s : State) : State :=
  let t := s.fillStep f data
  if t.cache.work.free && t.cache.reload.isSome then t.beginReload else t

/-- The loader's step at the end of its read, by the work under way. -/
def State.loaderStep (data : List Byte) (s : State) : State :=
  match s.cache.work with
  | .filling f => s.fillEnd f data
  | .startConfig m => s.startConfigStep m data
  | .reloadConfig => s.reloadConfigStep data
  | .directory d => s.directoryGo { d with got := d.got ++ data }
  | .fallback off wanted k crc => s.fallbackStep off wanted k crc data
  | .idle | .waiting => s

/-- LOADER_READ_END (R122): the loader's grant ends, its step is taken, the next grant is given. DESIGN CHOICE: a step that ends a
reload clears the re-read flag before the grant goes round, so that a program or erase it deferred takes part (log 45). -/
def execLoaderReadEnd (s : State) : Host.Outcome State Fault Refusal :=
  if s.startUp.resetPin then .next s
  else
    match s.arbiter.grant with
    | some (.loader r) =>
      let data := s.flashRead r
      let t := s.modArbiter (fun a => { a with grant := none })
      .next ((t.loaderStep data).giveNext).settle
    | _ => .next s

/-! ## RESTART (R172, R173) -/

/-- Frees the entries in use, stepping their generations; entry 0 keeps its fields (R25). -/
def restartEntries (es : List SurfaceEntry) : List SurfaceEntry :=
  es.mapIdx (fun i e => if i = 0 then e else if e.body.isSome then { gen := e.gen + 1, body := none } else e)

/-- The pool pages in ascending order. -/
def poolRange : List Nat := List.range' Config.poolFirst Config.poolPages

/-- The surface manager's RESTART state (R25). -/
def SurfaceManager.restart (m : SurfaceManager) (bad : List Nat) : SurfaceManager :=
  { entries := restartEntries m.entries
    freeList := poolRange.filter (fun p => !bad.contains p)
    quarantined := bad.filter (fun p => decide (Config.poolFirst ≤ p))
    portA := { m.portA with charged := 0, entries := 0 }
    portB := { m.portB with charged := 0, entries := 0 }
    posters := { m.posters with charged := 0, entries := 0 } }

/-- The issuing port at an accepted RESTART (R173, R180, R184): only the RESTART is in flight. DESIGN CHOICE: its two timers
stop as its notice queue is emptied (log 38). -/
def PortState.restartIssuer (q : PortState) : PortState :=
  { q.calm with status := .detached, notices := [], lost := 0, mask := 0, baselines := Counters.zero, cancelled := 0 }

/-- Completes every command of a port's queue with NOT_ATTACHED, in queue order (R173). -/
def State.dropQueue (p : Port) (s : State) : State :=
  (s.ports.get p).queue.foldl (fun t f => t.complete p f .notAttached .none)
    (s.modPort p (fun q => { q with queue := [] }))

/-- The blocks take their RESTART states (R25, R28, R86, R110, R132, R149, R162), and the configuration read is granted
(R188, R193). DESIGN CHOICE: the device size keeps its value until start-up applies the configuration (log 36). -/
def State.restartBlocks (s : State) : State :=
  { s with
    surfaces := s.surfaces.restart s.errors.bad
    layers := List.replicate 24 ⟨LayerCopy.reset, LayerCopy.reset⟩
    outputs := ⟨{ OutputState.reset with timing := s.outputs.o0.timing },
                { OutputState.reset with timing := s.outputs.o1.timing }⟩
    streams := ⟨StreamRecord.reset, StreamRecord.reset⟩
    cache := { PosterCache.reset with directory := s.cache.directory }
    arbiter := { Arbiter.reset with deviceSize := s.arbiter.deviceSize }
    errors := { s.errors with fault := false } }

/-- An accepted RESTART (R173). -/
def State.restartPart (p : Port) (f : Frame) (s : State) : State :=
  let discarded := (s.ports.get p).notices.length
  let t := (s.enter p f).modPort p PortState.restartIssuer
  let t := t.modPort p.other (fun q => { q with baselines := Counters.zero })
  let t := t.dropQueue p.other
  let t := t.restartBlocks
  { t with startUp := { t.startUp with starting := true, restart := some ⟨p, f.tag, discarded⟩ } }

/-- Whether the other port has nothing to lose: ABSENT or DETACHED (R172). -/
def PortStatus.away : PortStatus → Bool
  | .absent | .detached => true
  | _ => false

/-- RESTART by its owning block (R172, R173). -/
def restart (p : Port) (f : Frame) (s : State) : State :=
  let q := s.ports.get p
  if !q.queue.isEmpty || !q.inFlight.isEmpty then s.complete p f .busy .none
  else if !(s.ports.get p.other).status.away then s.complete p f .shared .none
  else s.restartPart p f

/-- RESTART (R172, R173, R193). -/
def execRestart (p : Port) (s : State) : Host.Outcome State Fault Refusal :=
  .next (s.taking p .restart (restart p))

/-! ## Cold reset (R187) -/

/-- Whether port A counts as present for two strap levels: also when both are off (R163, R187). -/
def presentA (strapA strapB : Bool) : Bool := strapA || !strapB

/-- A port after a cold reset: DETACHED or ABSENT by its strap, its reset line at the level it has (R163, R184;
log 30). -/
def PortState.cold (q : PortState) (present : Bool) : PortState :=
  { PortState.reset with status := if present then .detached else .absent, resetLine := q.resetLine }

/-- The flash as the device reset command leaves it: a program or erase under way is abandoned (R135). DESIGN CHOICE: so is
one whose timer has expired and from which the device still recovers, before FLASH_TIMEOUT: its whole range is free, without
the bounds of R147 (log 8). -/
def State.abandonFlash (s : State) : State :=
  match s.arbiter.grant with
  | some (.port _ op) =>
    match op.kind.range with
    | some r => s.spoilFlash r (fun free _ _ => free)
    | none => s
  | _ => s

/-- The part after a cold reset with two strap levels (R187). The flash, the lane wiring and the queue of waiting
commands are no state of the part and stay. -/
def State.coldReset (strapA strapB : Bool) (s : State) : State :=
  let t := s.abandonFlash
  let a := presentA strapA strapB
  { State.reset with
    pending := s.pending, flash := t.flash, freeCount := t.freeCount, lanes := s.lanes
    startUp := { StartUp.reset with straps := ⟨a, strapB⟩ }
    ports := ⟨s.ports.a.cold a, s.ports.b.cold strapB⟩ }

/-- COLD_RESET (R187). -/
def execColdReset (strapA strapB : Bool) (s : State) : Host.Outcome State Fault Refusal :=
  .next (s.coldReset strapA strapB)

/-- What is left of the grant while RESET is held: a program or erase the device carries out, which the cold reset
abandons (R135, R187). -/
def Grant.underReset : Grant → Option Grant
  | .port p op => if op.kind.writes then some (.port p op) else none
  | .loader _ => none

/-- A port while RESET is held: no answer, timers stopped, attention line deasserted (R187). -/
def PortState.held (q : PortState) : PortState := { q.calm with answer := none }

/-- RESET_ASSERT (R187): both attention lines and both panel enable lines are deasserted, and no access is made. -/
def execResetAssert (s : State) : Host.Outcome State Fault Refusal :=
  .next
    { s with
      startUp := { s.startUp with resetPin := true }
      outputs := ⟨{ s.outputs.o0 with pen := false }, { s.outputs.o1 with pen := false }⟩
      arbiter := { s.arbiter with grant := s.arbiter.grant.bind Grant.underReset }
      ports := ⟨s.ports.a.held, s.ports.b.held⟩ }

end Sys2Proof.Machine
end

