-- ==== Sys2Proof/Machine/Dispatch.lean ====
section
/-! DEFINITION. One arm for each command: the call of its meaning. -/

namespace Sys2Proof.Machine

def exec (i : Instr) (s : State) : Host.Outcome State Fault Refusal :=
  match i with
  | .coldReset a b => Sys2Proof.Machine.execColdReset a b s
  | .portResetAssert p => Sys2Proof.Machine.execPortResetAssert p s
  | .portResetRelease p => Sys2Proof.Machine.execPortResetRelease p s
  | .commandFrame p bytes => Sys2Proof.Machine.execCommandFrame p bytes s
  | .noticeRead p max => Sys2Proof.Machine.execNoticeRead p max s
  | .statusRead p => Sys2Proof.Machine.execStatusRead p s
  | .unknownCommand p => Sys2Proof.Machine.execUnknownCommand p s
  | .quietTimerExpiry p => Sys2Proof.Machine.execQuietTimerExpiry p s
  | .holdTimerExpiry p => Sys2Proof.Machine.execHoldTimerExpiry p s
  | .attach p => Sys2Proof.Machine.execAttach p s
  | .detach p => Sys2Proof.Machine.execDetach p s
  | .restart p => Sys2Proof.Machine.execRestart p s
  | .subscribe p => Sys2Proof.Machine.execSubscribe p s
  | .readStatistics p => Sys2Proof.Machine.execReadStatistics p s
  | .defineSurface p => Sys2Proof.Machine.execDefineSurface p s
  | .writeSurface p => Sys2Proof.Machine.execWriteSurface p s
  | .freeSurface p => Sys2Proof.Machine.execFreeSurface p s
  | .queryPool p => Sys2Proof.Machine.execQueryPool p s
  | .setLayer p => Sys2Proof.Machine.execSetLayer p s
  | .clearLayer p => Sys2Proof.Machine.execClearLayer p s
  | .latch p => Sys2Proof.Machine.execLatch p s
  | .setPanel p => Sys2Proof.Machine.execSetPanel p s
  | .openStream p => Sys2Proof.Machine.execOpenStream p s
  | .startStream p => Sys2Proof.Machine.execStartStream p s
  | .frameReady p => Sys2Proof.Machine.execFrameReady p s
  | .pauseStream p => Sys2Proof.Machine.execPauseStream p s
  | .resumeStream p => Sys2Proof.Machine.execResumeStream p s
  | .stopStream p => Sys2Proof.Machine.execStopStream p s
  | .closeStream p => Sys2Proof.Machine.execCloseStream p s
  | .loadPoster p => Sys2Proof.Machine.execLoadPoster p s
  | .releasePoster p => Sys2Proof.Machine.execReleasePoster p s
  | .queryPoster p => Sys2Proof.Machine.execQueryPoster p s
  | .reloadDirectory p => Sys2Proof.Machine.execReloadDirectory p s
  | .loaderBegin => Sys2Proof.Machine.execLoaderBegin s
  | .loaderReadEnd => Sys2Proof.Machine.execLoaderReadEnd s
  | .flashRead p => Sys2Proof.Machine.execFlashRead p s
  | .flashProgram p => Sys2Proof.Machine.execFlashProgram p s
  | .flashErase p => Sys2Proof.Machine.execFlashErase p s
  | .flashReadEnd => Sys2Proof.Machine.execFlashReadEnd s
  | .flashOperationDone => Sys2Proof.Machine.execFlashOperationDone s
  | .operationTimerExpiry => Sys2Proof.Machine.execOperationTimerExpiry s
  | .deviceAcceptsCommands => Sys2Proof.Machine.execDeviceAcceptsCommands s
  | .readError p => Sys2Proof.Machine.execReadError p s
  | .clearError p => Sys2Proof.Machine.execClearError p s
  | .fieldStart o => Sys2Proof.Machine.execFieldStart o s
  | .composeLine o part => Sys2Proof.Machine.execComposeLine o part s
  | .eccCorrected r burst => Sys2Proof.Machine.execEccCorrected r burst s
  | .eccUncorrectable r burst => Sys2Proof.Machine.execEccUncorrectable r burst s
  | .resetAssert => Sys2Proof.Machine.execResetAssert s
  | .linkGap p => Sys2Proof.Machine.execLinkGap p s

end Sys2Proof.Machine
end

