-- ==== Sys2Proof/Safety.lean ====
section
/-! DEFINITION. Runs of the block, the invariants of its state, and the words the claims are stated in. -/

namespace Sys2Proof

/-- The states that steps lead to from the reset state with any commands put at the back of the queue in between. -/
inductive Reachable : Machine.State → Prop where
  | reset : Reachable Machine.State.reset
  | send {s : Machine.State} (c : Instr) : Reachable s → Reachable { s with pending := s.pending ++ [c] }
  | step {s t : Machine.State} : Reachable s → Machine.step s = .next t → Reachable t

end Sys2Proof

namespace Sys2Proof.Machine

/-! ## Taking a command of the link -/

/-- The row of the table that takes a command from a port's queue. -/
def Cmd.instr (p : Port) : Cmd → Instr
  | .attach => .attach p
  | .detach => .detach p
  | .restart => .restart p
  | .subscribe => .subscribe p
  | .readStatistics => .readStatistics p
  | .defineSurface => .defineSurface p
  | .writeSurface => .writeSurface p
  | .freeSurface => .freeSurface p
  | .queryPool => .queryPool p
  | .setLayer => .setLayer p
  | .clearLayer => .clearLayer p
  | .latch => .latch p
  | .setPanel => .setPanel p
  | .openStream => .openStream p
  | .startStream => .startStream p
  | .frameReady => .frameReady p
  | .pauseStream => .pauseStream p
  | .resumeStream => .resumeStream p
  | .stopStream => .stopStream p
  | .closeStream => .closeStream p
  | .loadPoster => .loadPoster p
  | .releasePoster => .releasePoster p
  | .queryPoster => .queryPoster p
  | .reloadDirectory => .reloadDirectory p
  | .flashRead => .flashRead p
  | .flashProgram => .flashProgram p
  | .flashErase => .flashErase p
  | .readError => .readError p
  | .clearError => .clearError p

/-- A frame `f` that holds the command `c?` (none: an unknown command) stands at the head of a port's command queue
before `rest`, and the part is RUNNING or in FAULT (R163, R177). -/
structure AtHead (s : State) (p : Port) (c? : Option Cmd) (f : Frame) (rest : List Frame) : Prop where
  awake : s.startUp.resetPin = false
  started : s.startUp.starting = false
  queue : (s.ports.get p).queue = f :: rest
  command : f.cmd? = c?

/-- An ATTACHED port takes the command `c` in the frame `f`: it stands at the head, and for a long command an entry of
the in-flight table is free (R177). -/
structure Takes (s : State) (p : Port) (c : Cmd) (f : Frame) (rest : List Frame) : Prop where
  head : AtHead s p (some c) f rest
  attached : (s.ports.get p).status = .attached
  room : c.isLong = true → (s.ports.get p).inFlight.length < 8

/-- A port after it took a frame from its queue and its completion joined its notice queue (R177, R178). -/
def PortState.answered (q : PortState) (rest : List Frame) (n : Notice) : PortState :=
  { ({ q with queue := rest }.join n) with owed := q.owed - 1 }

/-- The state in which only one port has changed: it took `f` and the completion of `f` was delivered to it. -/
def State.answered (s : State) (p : Port) (f : Frame) (rest : List Frame) (st : Status) (res : Result) : State :=
  s.modPort p (fun q => q.answered rest (.completion f.tag f.code st none res))

/-- The same, for a completion with PLACEHOLDER and its reason (R117). -/
def State.answeredPlaceholder (s : State) (p : Port) (f : Frame) (rest : List Frame) (r : PlaceholderReason)
    (res : Result) : State :=
  s.modPort p (fun q => q.answered rest (.completion f.tag f.code .placeholder (some r) res))

/-- The state in which only one port has changed: the long command `f` moved from its queue to its in-flight table
(R177). -/
def State.dispatched (s : State) (p : Port) (f : Frame) (rest : List Frame) : State :=
  s.modPort p (fun q => { q with queue := rest, inFlight := q.inFlight ++ [⟨f.code, f.tag⟩] })

/-- A port that changed only by notices joining its queue, or being counted as lost: its queue of notices grew at the tail,
and its timers and its attention line followed (R179, R183). -/
def PortState.noticed (q r : PortState) : Prop :=
  q.notices <+: r.notices ∧ q.lost ≤ r.lost
    ∧ r = { q with
            notices := r.notices, lost := r.lost, quiet := r.quiet, hold := r.hold, attention := r.attention }

/-- A port of which a completion was delivered and other notices may have joined its queue. -/
def PortState.completed (q r : PortState) (rest : List Frame) (n : Notice) : Prop :=
  ({ q with queue := rest, owed := q.owed - 1 }).noticed r ∧ r.notices.getLast? = some n

/-- Whether a port would be offered notices of a subscription bit and has room for `k` of them (R179, R180). -/
def PortState.hears (q : PortState) (bit k : Nat) : Prop :=
  q.status = .attached ∧ q.mask.getLsbD bit = true ∧ q.notices.length + q.owed + k ≤ 32

/-- Whether two layer copies agree in every field but the source, which R29 may have set to none in the second. -/
def LayerCopy.agrees (a b : LayerCopy) : Prop := b = a ∨ b = { a with source := .none }

/-- Whether the fields of a SET LAYER payload lie in their encoded ranges (R30 step 2, Table 10-9; log 16). -/
def layerFieldsInRange (b : List Byte) : Prop :=
  (u8 b 1 = 0xFF ∨ u8 b 1 ≤ 1) ∧ u8 b 3 ≤ 2 ∧ u8 b 22 ≤ 1 ∧ u8 b 27 ≤ 1 ∧ u8 b 28 ≤ 1
    ∧ -4096 ≤ i16 b 14 ∧ i16 b 14 ≤ 8191 ∧ -4096 ≤ i16 b 16 ∧ i16 b 16 ≤ 8191
    ∧ 1 ≤ u16 b 18 ∧ u16 b 18 ≤ 8192 ∧ 1 ≤ u16 b 20 ∧ u16 b 20 ≤ 8192

/-- The layer copy a SET LAYER payload gives (Table 10-10), its source apart: the crop is not clamped yet. -/
def layerCopyOf (b : List Byte) (src : Source) : LayerCopy :=
  { output := if u8 b 1 = 0 then some .o0 else if u8 b 1 = 1 then some .o1 else none
    z := u8 b 2, source := src, crop := ⟨u16 b 6, u16 b 8, u16 b 10, u16 b 12⟩, dx := i16 b 14, dy := i16 b 16
    dw := u16 b 18, dh := u16 b 20, filter := if u8 b 22 = 0 then .nearest else .bilinear, alpha := u8 b 23
    fill := ⟨u8 b 24, u8 b 25, u8 b 26⟩, cls := if u8 b 27 = 0 then .essential else .decorative
    visible := u8 b 28 == 1 }

/-- The source a SET LAYER payload names, by a number or a handle that may be refused (R31). -/
inductive LayerSource (b : List Byte) : Source → Prop where
  | none : u8 b 3 = 0 → LayerSource b .none
  | surface : u8 b 3 = 1 → LayerSource b (.surface ⟨u8 b 4, b.getD 5 0⟩)
  | stream (i : StreamId) : u8 b 3 = 2 → u8 b 4 = streamNum i → LayerSource b (.stream i)

/-- Whether a port may name a source in SET LAYER (R31). -/
def State.maySource (s : State) (p : Port) : Source → Prop
  | .none => True
  | .surface h => ∃ x, s.resolve h = some x ∧ (x.kind = .port → x.owner = accountOf p)
      ∧ (x.kind = .poster → 0 < x.refs.get p)
  | .stream i => (s.streams.get i).state ≠ .idleClosed

/-- The first layer id of a port and its twelve records (R27). -/
def layerIdOf (p : Port) (id : Nat) : Prop :=
  match p with
  | .a => id ≤ 11
  | .b => 12 ≤ id ∧ id ≤ 23

/-- Whether the state's hold sets name a surface (R43). -/
def State.drawn (s : State) (i : Nat) : Prop := i ∈ s.outputs.o0.holdSet ∨ i ∈ s.outputs.o1.holdSet

/-! ## Crops and steps -/

/-- The start and the length of one axis of a crop against a source of `n` samples (R33). -/
def axisWithin (start len n : Nat) : Nat × Nat :=
  let start' := if n ≤ start then n - 1 else start
  (start', if len = 0 then 1 else if n < start' + len then n - start' else len)

/-- A crop against a source of a width and a height (R33). -/
def Crop.within (c : Crop) (w h : Nat) : Crop :=
  ⟨(axisWithin c.cx c.cw w).1, (axisWithin c.cy c.ch h).1, (axisWithin c.cx c.cw w).2, (axisWithin c.cy c.ch h).2⟩

/-- The surface a field draws for a copy: that of its handle, or of the current slot of its stream (R41, R42). -/
def State.sourceHandle (s : State) (c : LayerCopy) : Option Handle :=
  match c.source with
  | .none => none
  | .surface h => some h
  | .stream i => ((s.streams.get i).current.bind (fun k => (s.streams.get i).slots[k]?)).map (·.surface)

/-- What a field keeps of an active copy (R41, R42, R50, R52): empty where its source resolves to no surface; else the frozen
copy, its crop clamped for a stream, and the surface with its size, format and page list, the two steps and their flags. -/
def State.Froze (s : State) (c : LayerCopy) (l : FieldLayer) : Prop :=
  ((∀ h, s.sourceHandle c = some h → s.resolve h = none) → l.copy = c ∧ l.source = none)
  ∧ ∀ h x, s.sourceHandle c = some h → s.resolve h = some x →
      let crop := match c.source with
        | .stream _ => c.crop.within x.width x.height
        | _ => c.crop
      let rx := crop.cw * 65536 / c.dw
      let ry := crop.ch * 65536 / c.dh
      l.copy = { c with crop := crop }
      ∧ l.source = some
          { surface := h.index, width := x.width, height := x.height, format := x.format, pages := x.pages
            sx := if rx < 8192 then 8192 else if 262144 < rx then 262144 else rx
            sy := if ry < 8192 then 8192 else if 262144 < ry then 262144 else ry
            clampX := decide (rx < 8192 ∨ 262144 < rx), clampY := decide (ry < 8192 ∨ 262144 < ry) }

/-- What a record brings to a line that it covers, on an output of width `w` (R51, R52, R68): it crosses the line, its clipped
span is not empty, its source row exists, and its first visible column is not transparent. -/
structure FieldLayer.Covers (l : FieldLayer) (w y : Nat) (c : Cover) : Prop where
  same : l.source = some c.src ∧ c.id = l.id ∧ c.copy = l.copy
  crosses : l.copy.dy ≤ y ∧ (y : Int) < l.copy.dy + l.copy.dh
  span : (c.i0 : Int) = max 0 (-l.copy.dx) ∧ (c.i1 : Int) = min ((l.copy.dw : Int) - 1) ((w : Int) - 1 - l.copy.dx) ∧ c.i0 ≤ c.i1
  row : ∀ j : Nat, (j : Int) = (y : Int) - l.copy.dy →
    c.q = j * c.src.sy / 65536 ∧ c.g = j * c.src.sy % 65536 / 256 ∧ c.q < l.copy.crop.ch
  columns : c.first = c.i0 * c.src.sx / 65536 ∧ c.first < l.copy.crop.cw
    ∧ c.last = min (c.i1 * c.src.sx / 65536 + if l.copy.filter = .bilinear then 1 else 0) (l.copy.crop.cw - 1)

/-! ## Freeing surfaces and unpinning posters -/

/-- The surface manager once a surface has become FREE (R18): its good pages joined the free list in page list order, its bad
ones are quarantined, its account is uncharged, and the generation steps. -/
def SurfaceManager.without (m : SurfaceManager) (i : Nat) (g : Byte) (x : Surface) (bad : List Nat) : SurfaceManager :=
  let less (a : Account) (r : AccountRecord) : AccountRecord :=
    if x.owner = a then { r with charged := r.charged - x.pages.length, entries := r.entries - 1 } else r
  { entries := m.entries.set i ⟨g + 1, none⟩
    freeList := m.freeList ++ x.pages.filter (fun page => !bad.contains page)
    quarantined := m.quarantined ++ x.pages.filter (fun page => bad.contains page)
    portA := less .portA m.portA, portB := less .portB m.portB, posters := less .posters m.posters }

/-- A free request for a surface `x` at entry `i` of generation `g` was taken, from `s` to `t` (R20, R18, R29): RETIRING while
it is held, FREE otherwise, with the copies that named it at source none. -/
def State.GivenBack (s t : State) (i : Nat) (g : Byte) (x : Surface) : Prop :=
  let forget (c : LayerCopy) : LayerCopy := if c.source = .surface ⟨i, g⟩ then { c with source := .none } else c
  (s.drawn i ∨ x.attached ≠ none → t.layers = s.layers
    ∧ t.surfaces = { s.surfaces with entries := s.surfaces.entries.set i ⟨g, some { x with state := .retiring }⟩ })
  ∧ (¬ s.drawn i → x.attached = none → t.surfaces = s.surfaces.without i g x s.errors.bad
    ∧ t.layers = s.layers.map (fun r => ⟨forget r.active, forget r.pending⟩))

/-- Whether a layer copy of a record that names an output names a surface by its handle (R36). -/
def namesHandle (ls : List LayerRecord) (h : Handle) : Prop :=
  ∃ r ∈ ls, ∃ c, (c = r.active ∨ c = r.pending) ∧ c.output ≠ none ∧ c.source = .surface h

/-- What the poster cache does at an event that leaves the POSTER surface `x` of handle `h` unpinned, from `s` to `t` (R114):
a RESIDENT one of the map joins the idle list, or drains while a hold set names it; one of the stale list is given back;
any other stays. -/
def State.Unpinned (s t : State) (h : Handle) (x : Surface) : Prop :=
  let i := h.index
  let inMap : Prop := ∃ m ∈ s.cache.map, m.surface = i
  let kept : Prop := t.surfaces = s.surfaces ∧ t.layers = s.layers
  (x.state = .resident → inMap → ¬ s.drawn i → i ∉ s.cache.idle →
    kept ∧ t.cache = { s.cache with idle := s.cache.idle ++ [i] })
  ∧ (x.state = .resident → ¬ inMap → i ∈ s.cache.stale →
      s.GivenBack t i h.gen x ∧ t.cache = { s.cache with stale := s.cache.stale.erase i })
  ∧ (x.state ≠ .resident ∨ (inMap ∧ (s.drawn i ∨ i ∈ s.cache.idle)) ∨ (¬ inMap ∧ i ∉ s.cache.stale) →
      kept ∧ t.cache = s.cache)

/-- What replacing the pending copy of record `id`, which was that of `r`, by `c` does to the POSTER surface the old copy named
(R36, R114): where the records then name it no more and no port counts on it, it is unpinned; else nothing changes but the
copy. -/
def State.Renamed (s t : State) (id : Nat) (r : LayerRecord) (c : LayerCopy) : Prop :=
  let ls := s.layers.set id { r with pending := c }
  ∀ h x, r.pending.source = .surface h → s.resolve h = some x → x.kind = .poster → h.index < 160 →
    let unnamed : Prop := r.pending.output ≠ none ∧ ¬ namesHandle ls h ∧ x.refs.a = 0 ∧ x.refs.b = 0
    (unnamed → ({ s with layers := ls } : State).Unpinned t h x)
    ∧ (¬ unnamed → t.surfaces = s.surfaces ∧ t.cache = s.cache ∧ t.layers = ls)

/-- What a damage report for the POSTER surface `x` of handle `h` leaves, from `s`, where it is marked, to `t` (R116, R126,
R127): it leaves the map; a RESIDENT one joins the stale list if it is pinned, else it leaves the idle list and is given back;
a LOADING one's load goes on, its entry no longer joined by its title; outside the map nothing changes. -/
def State.DamageReported (s t : State) (h : Handle) (x : Surface) : Prop :=
  let i := h.index
  let inMap : Prop := ∃ m ∈ s.cache.map, m.surface = i
  let pinned : Prop := x.refs.a ≠ 0 ∨ x.refs.b ≠ 0 ∨ namesHandle s.layers h
  let map := s.cache.map.filter (fun m => m.surface ≠ i)
  let kept : Prop := t.surfaces = s.surfaces ∧ t.layers = s.layers
  (inMap → x.state = .resident → pinned → kept ∧ t.cache = { s.cache with
      map := map, stale := if i ∈ s.cache.stale then s.cache.stale else s.cache.stale ++ [i] })
  ∧ (inMap → x.state = .resident → ¬ pinned → s.GivenBack t i h.gen x
      ∧ t.cache = { s.cache with map := map, idle := s.cache.idle.erase i })
  ∧ (inMap → x.state = .loading → kept ∧ t.cache = { s.cache with
      map := map
      queue := (s.cache.queue.take 1).map (fun e => { e with removed := true }) ++ s.cache.queue.drop 1 })
  ∧ (¬ inMap → kept ∧ t.cache = s.cache)

/-- An eviction of surface `j`, from `s` to `u` (R121): it leaves the idle list and the map, is given back, and counts. -/
def State.Evicted (s u : State) (j : Nat) : Prop :=
  u = { s with
        surfaces := u.surfaces, layers := u.layers
        cache := { s.cache with
          map := s.cache.map.filter (fun m => m.surface ≠ j), idle := s.cache.idle.erase j }
        counters := { s.counters with
          posters := { s.counters.posters with evictions := satSucc s.counters.posters.evictions } } }
  ∧ ∀ e x, s.surfaces.entries[j]? = some e → e.body = some x → x.kind = .poster → x.state = .resident →
      s.GivenBack u j e.gen x

/-! ## The next grant of the flash -/

/-- A requester's place in the cycle loader, port A, port B. -/
def Requester.place : Requester → Nat
  | .loader => 0
  | .port .a => 1
  | .port .b => 2

/-- How far a requester stands behind the turn in the cycle: 0 for the one just after it, 2 for the turn itself (R137). -/
def Requester.after (turn r : Requester) : Nat := (r.place + 2 - turn.place) % 3

/-- Whether a requester's transaction is eligible (R137, R144, R145): the loader's request, or the operation at the head of a
port's queue, where a program or an erase is neither kept back by the re-read flag nor overlaps the loading range. -/
def Arbiter.may (a : Arbiter) : Grant → Prop
  | .loader r => a.request = some r
  | .port p op => (a.queues.get p).head? = some op ∧ ∀ x, op.kind.range = some x → a.reread = false
      ∧ ∀ r, a.loadingRange = some r → ¬ (0 < x.length ∧ 0 < r.length ∧ x.offset < r.offset + r.length
        ∧ r.offset < x.offset + x.length)

/-- How the next grant is given from `a`, whose device is free, to `b` (R137, R142): to the eligible transaction of the first
requester after the turn, which takes the turn, with the operation timer started for a program or an erase; to none where
none is eligible. -/
def Arbiter.NextGiven (a b : Arbiter) : Prop :=
  ((∀ g, ¬ a.may g) → b = a)
  ∧ ∀ g, a.may g → (∀ g', a.may g' → a.turn.after g.requester ≤ a.turn.after g'.requester) →
      b = { a with
            grant := some g, turn := g.requester, recovering := false
            request := if g.requester = .loader then none else a.request
            timer := match g with
              | .port _ ⟨_, .program _ _⟩ => .running 5000
              | .port _ ⟨_, .erase _⟩ => .running 2000000
              | _ => .stopped }

/-! ## Surfaces that leave the map at a reload -/

/-- How RESIDENT surfaces leave the map one by one at a reload, from `s` to `t`, the number of those that joined the stale list
counted (R129 step 3, R116, R131): a pinned one joins the stale list, once; an unpinned one leaves the idle list, is given back,
and counts as an eviction. -/
inductive State.LeaveMap : State → List Nat → Nat → State → Prop where
  | done (s : State) : State.LeaveMap s [] 0 s
  | stale {s t : State} {i n : Nat} {is : List Nat} {g : Byte} {x : Surface} :
      s.surfaces.entries[i]? = some ⟨g, some x⟩ →
      x.refs.a ≠ 0 ∨ x.refs.b ≠ 0 ∨ namesHandle s.layers ⟨i, g⟩ →
      State.LeaveMap
        { s with cache := { s.cache with
            map := s.cache.map.filter (fun m => m.surface ≠ i)
            stale := if i ∈ s.cache.stale then s.cache.stale else s.cache.stale ++ [i] } } is n t →
      State.LeaveMap s (i :: is) (n + 1) t
  | freed {s u t : State} {i n : Nat} {is : List Nat} {g : Byte} {x : Surface} :
      s.surfaces.entries[i]? = some ⟨g, some x⟩ →
      x.refs.a = 0 → x.refs.b = 0 → ¬ namesHandle s.layers ⟨i, g⟩ →
      s.Evicted u i → State.LeaveMap u is n t → State.LeaveMap s (i :: is) n t

/-- What a directory reload that ends with the directory `d`, or with none, leaves, from `s` to `t` (R129 steps 2 to 5): the
RESIDENT surfaces of the map that are changed under `d`, all of them where it is none, have left the map in ascending order,
`stale` of them to the stale list; the directory is `d`; without one the queue is empty; no reload is in progress, and the next
grant is given with the re-read flag clear (R137, R145): that the flag is cleared first is the model's choice (log 45). -/
def State.Reloaded (s t : State) (d : Option (List DirRecord)) (removed : List Nat) (stale : Nat) : Prop :=
  let changed (m : MapEntry) : Prop := ∀ rs r, d = some rs → rs.find? (fun r => r.title == m.title) = some r →
    r.width ≠ m.width ∨ r.height ≠ m.height ∨ r.format ≠ m.format ∨ r.crc ≠ m.crc
  removed.Pairwise (· < ·)
  ∧ (∀ i, i ∈ removed ↔ i < 160 ∧ (∃ x, s.surfaceAt i = some x ∧ x.state = .resident)
      ∧ ∃ m, s.cache.map.find? (fun m => m.surface == i) = some m ∧ changed m)
  ∧ (∃ u, s.LeaveMap removed stale u ∧ t = { u with
      cache := { u.cache with
        directory := d, queue := if d = none then [] else s.cache.queue, reload := none, work := .idle }
      arbiter := t.arbiter, ports := t.ports, counters := { u.counters with port := t.counters.port } })
  ∧ Arbiter.NextGiven { s.arbiter with grant := none, reread := false } t.arbiter

/-- A reload that ends without a directory, from `s` to `t`, for the command `w` (R129 steps 2 to 4): every waiter of every entry
of the load queue is answered PLACEHOLDER, NO_DIRECTORY, and the command completes with DIRECTORY_BAD. -/
def State.ReloadFailed (s t : State) (w : Waiter) : Prop :=
  (∃ removed stale, s.Reloaded t none removed stale)
  ∧ (∀ e ∈ s.cache.queue, ∀ v ∈ e.waiters, (s.ports.get v.port).status ≠ .resetting →
      Notice.completion v.tag 0x40 .placeholder (some .noDirectory) (.poster ⟨0, 0⟩ e.title none)
        ∈ (t.ports.get v.port).notices)
  ∧ ((s.ports.get w.port).status ≠ .resetting →
      Notice.completion w.tag 0x43 .directoryBad none .none ∈ (t.ports.get w.port).notices)

/-! ## Releasing slots, tearing a port down, ending a teardown -/

/-- The slots of a stream after its frames left, the slots of the ready list and the current one: RELEASING while their
surface is in a hold set, EMPTY otherwise (R89, R104). -/
def State.halted (s : State) (r : StreamRecord) (slots : List Slot) : Prop :=
  let leaves (j : Nat) : Prop := j ∈ r.ready ∨ r.current = some j
  slots.length = r.slots.length
    ∧ ∀ (j : Nat) (x : Slot), r.slots[j]? = some x →
        (leaves j → s.drawn x.surface.index → slots[j]? = some { x with state := .releasing, stamp := none })
        ∧ (leaves j → ¬ s.drawn x.surface.index → slots[j]? = some { x with state := .empty, stamp := none })
        ∧ (¬ leaves j → slots[j]? = some x)

/-- A stream record after its close ended: cleared but for its clock (R106). -/
def StreamRecord.closed (r : StreamRecord) : StreamRecord :=
  { state := .idleClosed, owner := none, clockOutput := none, slots := [], current := none, ready := [], clock := r.clock
    startStamp := none, lastStamp := none, closeTag := none }

/-- Whether a notice that an ATTACHED port is offered is in its queue, wherever the port lost none on the way (R179). -/
def State.told (s t : State) (p : Port) (n : Notice) : Prop :=
  (s.ports.get p).status = .attached → (s.ports.get p).lost < 255 → (t.ports.get p).lost = (s.ports.get p).lost →
    n ∈ (t.ports.get p).notices

/-- The loads of a port that wait in the load queue (R119). -/
def State.waitersOf (s : State) (p : Port) : List Waiter :=
  (s.cache.queue.flatMap (·.waiters)).filter (fun w => w.port = p)

/-- Whether no answer to a waiting loader can give the grant: the device is at work, or the loader does not wait (R146). -/
def State.DeviceSettled (s : State) : Prop := s.arbiter.grant ≠ none ∨ s.cache.work ≠ .waiting

/-- What the five teardown requests of a port that leaves ATTACHED have done, from `s` to `t` (R168 and the rules it sends
to): the panel wishes (R79), the layers (R46, R47), the streams (R109), the poster cache (R130), the flash queue (R148) and
the surfaces (R24). -/
structure State.TornDown (s t : State) (p : Port) : Prop where
  mask : (t.ports.get p).mask = 0 ∧ (t.ports.get p).baselines = Counters.zero
  /-- The wish is withdrawn on each enabled output; the other port's wishes, the latches of R46 of the other port, and the
  sets of the field stay. -/
  outputs : ∀ o, (s.outputEnabled o = false → t.outputs.get o = s.outputs.get o)
    ∧ (s.outputEnabled o = true → (t.outputs.get o).wishes = (s.outputs.get o).wishes.set p none)
    ∧ (t.outputs.get o).timing = (s.outputs.get o).timing ∧ (t.outputs.get o).layers = (s.outputs.get o).layers
    ∧ (t.outputs.get o).holdSet = (s.outputs.get o).holdSet
    ∧ (t.outputs.get o).forcedBlank = (s.outputs.get o).forcedBlank
  /-- R46 on an output that has field starts: an internal latch, behind the latches that wait. -/
  awake : ∀ o, s.outputEnabled o = true → (t.outputs.get o).panel ≠ .asleep →
    (t.outputs.get o).latches = (s.outputs.get o).latches
    ∧ (t.outputs.get o).internal = (s.outputs.get o).internal.set p true
  /-- R47 on an ASLEEP output: the port's latches leave at once, and no internal latch is made. -/
  asleep : ∀ o, s.outputEnabled o = true → (t.outputs.get o).panel = .asleep →
    (t.outputs.get o).latches = (s.outputs.get o).latches.filter (fun e => e.port ≠ p)
    ∧ (t.outputs.get o).internal = (s.outputs.get o).internal
  /-- The port's pending copies name no output; the active ones of an ASLEEP output take them, all others stay (R46, R47). -/
  layers : t.layers.length = s.layers.length ∧ ∀ (id : Nat) (r : LayerRecord), s.layers[id]? = some r →
    ∃ r', t.layers[id]? = some r'
      ∧ (layerIdOf p id → ({ r.pending with output := none } : LayerCopy).agrees r'.pending)
      ∧ (¬ layerIdOf p id → r.pending.agrees r'.pending ∧ r.active.agrees r'.active)
      ∧ (layerIdOf p id → ∀ o, r.active.output = some o → s.outputEnabled o = true →
          (t.outputs.get o).panel = .asleep → ({ r.pending with output := none } : LayerCopy).agrees r'.active)
      ∧ (layerIdOf p id → (∀ o, r.active.output = some o → s.outputEnabled o = true →
          (t.outputs.get o).panel ≠ .asleep) → r.active.agrees r'.active)
  /-- R109: an open stream of the port is CLOSING without a CLOSE STREAM to complete, or cleared where all slots are EMPTY;
  any other keeps its record. -/
  streams : ∀ i, let r := s.streams.get i
    (r.owner = some p → r.state ≠ .closing → r.state ≠ .idleClosed → ∃ slots, s.halted r slots
      ∧ ((∀ x ∈ slots, x.state = .empty) → t.streams.get i = r.closed)
      ∧ ((∃ x ∈ slots, x.state ≠ .empty) → t.streams.get i = { r with
          state := .closing, slots := slots, current := none, ready := [], startStamp := none, lastStamp := none
          closeTag := none }))
    ∧ (r.owner ≠ some p ∨ r.state = .closing → t.streams.get i = r)
  /-- R130: no load of the port waits, an entry not begun that has no waiter left is gone, and the port's counts are 0. -/
  posters : (∀ e ∈ t.cache.queue, ∀ w ∈ e.waiters, w.port ≠ p)
    ∧ (s.cache.work ≠ .waiting →
        let left (es : List LoadEntry) : List LoadEntry :=
          es.map (fun e => { e with waiters := e.waiters.filter (fun w => w.port ≠ p) })
        let some' (es : List LoadEntry) : List LoadEntry := (left es).filter (fun e => !e.waiters.isEmpty)
        ((∃ l, s.cache.work = .filling l) → t.cache.queue = left (s.cache.queue.take 1) ++ some' (s.cache.queue.drop 1))
        ∧ ((∀ l, s.cache.work ≠ .filling l) → t.cache.queue = some' s.cache.queue))
    ∧ ∀ i x, i < 160 → t.surfaceAt i = some x → x.kind = .poster → x.refs.get p = 0
  /-- R148: of the port's queue only the operation that holds the grant is left. -/
  flash : t.arbiter.queues.get p.other = s.arbiter.queues.get p.other
    ∧ (t.arbiter.queues.get p ≠ [] → ∃ op, t.arbiter.grant = some (.port p op))
    ∧ (s.DeviceSettled → t.arbiter.grant = s.arbiter.grant
        ∧ t.arbiter.queues.get p = if s.arbiter.grantedTo p then (s.arbiter.queues.get p).take 1 else [])
  /-- R24: the port's DEFINED surfaces are FREE, or RETIRING while a hold set or a stream holds them; those of the other
  port stay. -/
  surfaces : ∀ i e x, i < 160 → s.surfaces.entries[i]? = some e → e.body = some x → x.state = .defined →
    (x.owner = accountOf p → x.kind ≠ .fallback →
      (¬ s.drawn i → x.attached = none → t.surfaces.entries[i]? = some ⟨e.gen + 1, none⟩)
      ∧ (t.surfaces.entries[i]? = some ⟨e.gen + 1, none⟩
          ∨ ∃ y, t.surfaces.entries[i]? = some ⟨e.gen, some y⟩ ∧ y.state = .retiring
            ∧ (s.drawn i ∨ y.attached ≠ none)))
    ∧ (x.kind = .port → x.owner ≠ accountOf p →
        ∃ y, t.surfaces.entries[i]? = some ⟨e.gen, some y⟩ ∧ y = { x with attached := y.attached })

/-- The pass-through operations of a port that its teardown removes (R148). -/
def State.cancelledOps (s : State) (p : Port) : List FlashOp :=
  if s.arbiter.grantedTo p then (s.arbiter.queues.get p).drop 1 else s.arbiter.queues.get p

/-- Whether the five blocks have reported their part of a port's teardown done (R169): no output holds an internal latch of the
port (R47), it owns no stream (R109), its flash queue is empty and the grant is not its own (R148), and its account has
charged no page (R24); the poster cache is done at once (R130). -/
structure State.TeardownOver (s : State) (p : Port) : Prop where
  latches : ∀ o, (s.outputs.get o).internal.get p = false
  streams : ∀ i, (s.streams.get i).owner ≠ some p
  flash : s.arbiter.queues.get p = [] ∧ ∀ op, s.arbiter.grant ≠ some (.port p op)
  pages : (s.surfaces.account (accountOf p)).charged = 0

/-- How an event leaves a port whose teardown it may end, from `s` to `t`: a DETACHING port becomes DETACHED, its DETACH
completed last and its in-flight table empty, exactly when every block is done and the DETACH is alone (R169); a RESETTING
port whose line is released does so without a completion (R171); PORT CHANGE goes to the other port (R167). -/
def State.TeardownEnds (s t : State) (p : Port) : Prop :=
  let q := s.ports.get p
  let r := t.ports.get p
  let ended : Prop := r.status = .detached ∧ t.TeardownOver p ∧ r.inFlight = []
    ∧ ((s.ports.get p.other).mask.getLsbD 3 = true → s.told t p.other (.portChange p .detached))
  (q.status = .detaching →
    (ended ∧ ∃ tag, r.notices.getLast? = some (.completion tag 0x02 .ok none (.detach q.cancelled)))
    ∨ (r.status = .detaching ∧ (¬ t.TeardownOver p ∨ loneDetach r.inFlight = none)))
  ∧ (q.status = .resetting → (ended ∧ q.resetLine = false)
      ∨ (r.status = .resetting ∧ (q.resetLine = true ∨ ¬ t.TeardownOver p ∨ r.inFlight ≠ [])))

/-- The tests of a stream's slots at a hold-set replacement, from `s` to `t` (R101, R106): a RELEASING slot in no hold set
becomes EMPTY, with SLOT FREED; a CLOSING stream whose slots are then all EMPTY is cleared but for its clock, its surfaces
are detached, and its CLOSE STREAM completes. -/
def State.SlotTested (s t : State) (i : StreamId) (slots : List Slot) (j : Nat) (x : Slot) : Prop :=
  (x.state = .releasing → ¬ t.drawn x.surface.index → slots[j]? = some { x with state := .empty, stamp := none }
    ∧ ∀ p, (s.streams.get i).owner = some p → s.told t p (.slotFreed i j))
  ∧ (x.state ≠ .releasing ∨ t.drawn x.surface.index → slots[j]? = some x)

/-- The same for a stream as a whole that selects no frame meanwhile. -/
def State.StreamTested (s t : State) (i : StreamId) : Prop :=
  let r := s.streams.get i
  let r' := t.streams.get i
  (r.state = .closing → ∃ slots : List Slot, slots.length = r.slots.length
    ∧ (∀ (j : Nat) (x : Slot), r.slots[j]? = some x → s.SlotTested t i slots j x)
    ∧ ((∃ x ∈ slots, x.state ≠ .empty) → r' = { r with slots := slots })
    ∧ ((∀ x ∈ slots, x.state = .empty) → r' = r.closed
        ∧ (∀ x ∈ r.slots, ∀ y, t.surfaceAt x.surface.index = some y → y.attached = none)
        ∧ ∀ p tag, r.owner = some p → r.closeTag = some tag → (s.ports.get p).status ≠ .resetting →
            Notice.completion tag 0x36 .ok none (.closed i) ∈ (t.ports.get p).notices))
  ∧ (r.state ≠ .closing → r' = { r with slots := r'.slots } ∧ r'.slots.length = r.slots.length
    ∧ ∀ (j : Nat) (x : Slot), r.slots[j]? = some x → s.SlotTested t i r'.slots j x)

/-- The tests of surfaces and posters at a hold-set replacement, from `s` to `t`: a RETIRING surface that is no longer held
becomes FREE (R17), and a draining poster that no hold set names is on the idle list (R115). -/
def State.SetsTested (s t : State) : Prop :=
  (∀ i e x, i < 160 → s.surfaces.entries[i]? = some e → e.body = some x → x.state = .retiring → x.kind ≠ .fallback →
    ¬ t.drawn i → x.attached = none → t.surfaces.entries[i]? = some ⟨e.gen + 1, none⟩)
  ∧ (∀ i x, i < 160 → t.surfaceAt i = some x → x.state = .retiring → x.kind ≠ .fallback →
      t.drawn i ∨ x.attached ≠ none)
  ∧ ∀ m ∈ t.cache.map, m.surface < 160 → ∀ x, t.surfaceAt m.surface = some x → x.state = .resident →
      t.pinned m.surface = false → ¬ t.drawn m.surface → m.surface ∈ t.cache.idle

/-! ## Directories and the end of start-up -/

/-- The fields of a directory record as 19 bytes give them (Table 10-12), not marked BAD. -/
def DirRecord.readFrom (r : DirRecord) (b : List Byte) : Prop :=
  r.title = u16 b 0 ∧ r.offset = u32 b 2 ∧ r.width = u16 b 6 ∧ r.height = u16 b 8 ∧ r.format.code = u8 b 10
    ∧ r.length = u32 b 11 ∧ r.crc = BitVec.ofNat 32 (u32 b 15) ∧ r.bad = false

/-- The record tests of R112 step 2, after a record of a title, on a device of a size. -/
def DirRecord.passes (r : DirRecord) (before size : Nat) : Prop :=
  1 ≤ r.title ∧ r.title ≤ 65534 ∧ before < r.title ∧ 1 ≤ r.width ∧ r.width ≤ 512 ∧ 1 ≤ r.height ∧ r.height ≤ 768
    ∧ (r.format = .rgb565 ∨ r.format = .pa8888) ∧ r.length = byteSize r.format r.width r.height
    ∧ r.offset + r.length ≤ size

/-- The title of the last of some records, 0 where there is none. -/
def lastTitle (rs : List DirRecord) : Nat := (rs.getLast?.map (·.title)).getD 0

/-- The records that the bytes of a directory give: in order, up to the first that fails a record test (R112 step 2). -/
def DirectoryOf (count size : Nat) (bytes : List Byte) (rs : List DirRecord) : Prop :=
  rs.length ≤ count
    ∧ (∀ (k : Nat) (r : DirRecord), rs[k]? = some r →
        r.readFrom ((bytes.drop (19 * k)).take 19) ∧ r.passes (lastTitle (rs.take k)) size)
    ∧ (rs.length < count → ∀ r : DirRecord, r.readFrom ((bytes.drop (19 * rs.length)).take 19) →
        ¬ r.passes (lastTitle rs) size)

/-- Start-up has finished, from `s` to `t` (R192, R173): each enabled output runs, BLANKED, in its lead-in field, under
FORCED BLANK exactly in FAULT; a disabled one stays; the loader serves no entry; a RESTART that waited completes. -/
structure State.Finished (s t : State) : Prop where
  started : t.startUp.starting = false ∧ t.cache.work = .idle
  outputs : ∀ o, let q := s.outputs.get o
    let r := t.outputs.get o
    (t.outputEnabled o = true → r = { q with
        timing := r.timing, running := true, leadIn := true, fieldCount := 0, acc := 0, panel := .blanked, pen := true
        nextLine := 0, work := none, ahead := [], line := [], forcedBlank := s.errors.fault })
    ∧ (t.outputEnabled o = false → r = { q with timing := r.timing })
  restart : t.startUp.restart = none ∧ ∀ x, s.startUp.restart = some x → (s.ports.get x.port).status ≠ .resetting →
    Notice.completion x.tag 0x03 .ok none (.restart (if s.errors.fault then .fault else .running) t.startUp.status
      (!(s.startUp.straps.a && s.startUp.straps.b)) x.discarded) ∈ (t.ports.get x.port).notices

/-- The page of surface 0 that holds a byte offset (R10). -/
def State.fallbackPage (s : State) (n : Nat) : Nat := s.fallbackPages.getD (n / 4096) 0

/-- Surface 0 holds the damage colour in every byte of a good page, and the status notes it (R191). -/
def State.FallbackFilled (s t : State) : Prop :=
  t.startUp.status.notes.fallbackFailed = true
    ∧ (s.fallbackPages.length = 43 → s.fallbackPages.Nodup → ∀ n, n < 172800 → s.fallbackPage n ∉ s.errors.bad →
        t.frame.read Config.frameBlank (s.fallbackPage n * 4096 + n % 4096)
          = (b16 t.startUp.damageColour.word565).getD (n % 2) 0)

/-- What follows the directory of start-up (R191): the fallback load is asked for, or there is none to load and start-up
finishes with surface 0 filled. -/
def State.AfterDirectory (s t : State) : Prop :=
  t.arbiter.reread = false
  ∧ (∀ off crc, t.startUp.fallbackSource = some (off, crc) →
    t.cache.work = .fallback off crc 0 0xFFFFFFFF ∧ t.startUp.starting = true
    ∧ (s.arbiter.queues = ⟨[], []⟩ → t.arbiter.grant = some (.loader ⟨off, 4096⟩)))
  ∧ (t.startUp.fallbackSource = none → s.Finished t ∧ s.FallbackFilled t)

/-! ## Layouts of notices (Tables 10-7 to 10-9) -/

/-- A number in `k` bytes, the least significant first (Section 10.8). -/
def littleEndian (k n : Nat) : List Byte := (List.range k).map (fun j => BitVec.ofNat 8 (n / 256 ^ j))

/-- Fields of a layout in order, each a size in bytes and a number. -/
abbrev Fields := List (Nat × Nat)

/-- The bytes of some fields. -/
def Fields.layout (fs : Fields) : List Byte := fs.flatMap (fun f => littleEndian f.1 f.2)

/-- A handle, 0xFF and 0xFF for no surface (Table 10-9). -/
def handleFields : Option Handle → Fields
  | some h => [(1, h.index), (1, h.gen.toNat)]
  | none => [(1, 0xFF), (1, 0xFF)]

/-- The notes of a configuration status, bit 0 first (Table 10-9). -/
def ConfigNotes.inOrder (n : ConfigNotes) : List Bool :=
  [n.defaultsUsed, n.output0Disabled, n.output1Disabled, n.lineBudget0, n.lineBudget1, n.wakeFields0, n.wakeFields1,
   n.flashSize, n.directoryCount, n.directoryRange, n.fallbackRange, n.fallbackFailed, n.budgetsReduced, n.timesA, n.timesB]

/-- The configuration status (Table 10-9). -/
def ConfigStatus.fields (c : ConfigStatus) : Fields :=
  [(1, c.mode.lanes), (2, (c.notes.inOrder.mapIdx (fun k b => b.toNat * 2 ^ k)).sum), (1, c.directory.code), (2, c.records)]

/-- An account's budget, charged pages and entries used (R23). -/
def AccountRecord.fields (a : AccountRecord) : Fields := [(2, a.budget), (2, a.charged), (1, a.entries)]

/-- An output's enabled flag and, if enabled, its active width and height (R166). -/
def geometryFields : Option (Nat × Nat) → Fields
  | some (w, h) => [(1, 1), (2, w), (2, h)]
  | none => [(1, 0)]

/-- The stream report (R93). -/
def StreamReport.fields (r : StreamReport) : Fields :=
  [(1, streamNum r.stream), (1, r.state.code), (1, (r.owner.map portNum).getD 0xFF),
   (1, (r.clockOutput.map outputNum).getD 0xFF), (1, r.slots.length)]
    ++ r.slots.map (fun x => (1, x.code)) ++ [(1, r.readyLength), (4, r.clock.toNat)]

/-- The fields of a result: those the owning chapter lists, in that order, with the sizes of Table 10-9, and with those of log 20
where it gives none. -/
def Result.fields : Result → Fields
  | .none => []
  | .attach r =>
      [(2, r.partCode), (1, r.revision), (1, r.part.code)] ++ r.status.fields
        ++ [(1, r.singlePort.toNat), (2, r.budget), (1, r.share), (1, r.firstLayer), (1, r.lastLayer), (1, r.maintainer.toNat)]
        ++ geometryFields r.outputs.o0 ++ geometryFields r.outputs.o1
  | .detach n => [(1, n)]
  | .restart p c single n => [(1, p.code)] ++ c.fields ++ [(1, single.toNat), (1, n)]
  | .subscribe old new => [(1, old.toNat), (1, new.toNat)]
  | .statistics g clear vs => [(1, g), (1, clear.toNat)] ++ vs.map (fun v => (4, v))
  | .surface h w ht size pages => handleFields (some h) ++ [(2, w), (2, ht), (4, size), (2, pages)]
  | .written mark discarded => mark.map (fun b => (1, b.toNat)) ++ discarded.toList.map (fun n => (2, n))
  | .freed st => [(1, (st.map SurfaceState.code).getD 0)]
  | .pool r =>
      [(2, r.free), (2, r.reserved), (2, r.allocated), (2, r.quarantined)] ++ r.portA.fields ++ r.portB.fields
        ++ r.posters.fields ++ [(1, r.bad)]
  | .layer c cropClamp stepClamp => [(2, c.cx), (2, c.cy), (2, c.cw), (2, c.ch), (1, cropClamp.toNat), (1, stepClamp.toNat)]
  | .latch o n => [(1, outputNum o), (4, n.toNat)]
  | .panel o w other t st fb =>
      [(1, outputNum o), (1, (w.map Wish.code).getD 0xFF), (1, (other.map Wish.code).getD 0xFF), (1, t.code), (1, st.code),
       (1, fb.toNat)]
  | .stream r => r.fields
  | .position k => [(1, k)]
  | .closed i => [(1, streamNum i)]
  | .poster h title image =>
      handleFields (some h) ++ [(2, title)]
        ++ image.toList.flatMap (fun x => [(2, x.1), (2, x.2.1), (1, x.2.2.code)])
  | .released n c => [(1, n), (1, c.code)]
  | .posterQuery r =>
      [(1, r.hasDirectory.toNat), (1, r.listed.toNat), (1, r.bad.toNat), (1, r.condition.code)]
        ++ r.handle.toList.flatMap (fun h => handleFields (some h))
        ++ r.resident.toList.flatMap (fun x => [(1, x.1), (1, x.2.toNat)])
  | .reload records removed stale => [(2, records), (1, removed), (1, stale)]
  | .flashRead off len data => [(4, off), (2, len)] ++ data.map (fun b => (1, b.toNat))
  | .flashProgram off len => [(4, off), (2, len)]
  | .flashErase off => [(4, off)]
  | .errors c fault bad =>
      [(2, c.sequence), (2, c.page.getD 0xFFFF)] ++ handleFields c.surface
        ++ [(1, (c.reader.map readerCode).getD 0xFF), (2, c.offset.getD 0xFFFF), (1, c.pageAdded.toNat), (1, c.locked.toNat),
            (1, c.lost.toNat), (1, c.lostCount), (1, fault.toNat), (1, bad.length)]
        ++ bad.map (fun page => (2, page))
  | .cleared lost n => [(1, lost.toNat), (1, n)]
  | .staleClear seq locked => [(2, seq), (1, locked.toNat)]

/-- The kind of a notice and the fields of its body (Table 10-7); the reason of a completion is 0 without one. -/
def Notice.fields : Notice → Nat × Fields
  | .completion tag code st reason res =>
      (0x80, [(1, tag.toNat), (1, code.toNat), (1, st.code), (1, (reason.map PlaceholderReason.code).getD 0)] ++ res.fields)
  | .fieldStart o n => (0x81, [(1, outputNum o), (4, n.toNat)])
  | .slotFreed i k => (0x82, [(1, streamNum i), (1, k)])
  | .panelState o st fb n => (0x83, [(1, outputNum o), (1, st.code), (1, fb.toNat), (4, n.toNat)])
  | .portChange p st => (0x84, [(1, portNum p), (1, st.code)])
  | .memoryError page r off h added len seq lost =>
      (0x85, [(2, page), (1, readerCode r), (2, off)] ++ handleFields h
        ++ [(1, added.toNat), (1, len), (2, seq), (1, lost)])
  | .fault page r seq => (0x86, [(2, page), (1, readerCode r), (2, seq)])
  | .streamState i st owner clk t =>
      (0x87, [(1, streamNum i), (1, st.code), (1, (owner.map portNum).getD 0xFF), (1, (clk.map outputNum).getD 0xFF),
              (4, t.toNat)])

/-- A notice on the link: its kind, the length of its body in two bytes, its body (Table 10-7). -/
def Notice.layout (n : Notice) : List Byte :=
  let body := Fields.layout n.fields.2
  littleEndian 1 n.fields.1 ++ littleEndian 2 body.length ++ body

/-- The codes of Table 10-8 that stand in notices, and the numbers of Table 10-9. -/
structure CodesOfTables : Prop where
  statuses : [Status.ok, .clamped, .placeholder, .pageBad, .directoryTruncated].map Status.code = [0, 1, 2, 3, 4]
    ∧ [Status.badCommand, .notAttached, .wrongState, .badHandle, .notOwner, .badGeometry, .noSurface, .noBudget, .noPages,
       .inUse, .attached, .slotBusy, .stampOrder, .noOutput, .outputFull, .refLimit, .denied, .busy, .shared, .staleClear,
       .fault, .outOfRange].map Status.code = List.range' 0x10 22
    ∧ [Status.cancelled, .flashTimeout, .directoryBad].map Status.code = [0x30, 0x31, 0x32]
  reasons : [PlaceholderReason.noDirectory, .unknownTitle, .badImage, .loadBusy, .noSpace].map PlaceholderReason.code
    = [1, 2, 3, 4, 5]
  ports : [PortStatus.absent, .detached, .attached, .detaching, .resetting].map PortStatus.code = [0, 1, 2, 3, 4]
  parts : [PartState.starting, .running, .fault].map PartState.code = [0, 1, 2]
  panels : [PanelState.active, .blanked, .waking, .asleep].map PanelState.code = [0, 1, 2, 3]
  wishes : [Wish.active, .blanked, .asleep].map Wish.code = [0, 1, 3]
  streams : [StreamState.idleClosed, .opened, .primed, .running, .paused, .closing].map StreamState.code = [0, 1, 2, 3, 4, 5]
  slots : [SlotState.empty, .ready, .current, .releasing].map SlotState.code = [0, 1, 2, 3]
  readers : [Reader.output0, .output1, .loader].map readerCode = [0, 1, 2]
  formats : [Format.pa8888, .rgb565, .a8, .yc420].map Format.code = [0, 1, 2, 3]
  surfaces : [SurfaceState.defined, .loading, .resident, .retiring].map SurfaceState.code = [1, 2, 3, 4]
  cache : [CacheCondition.absent, .queued, .loading, .resident].map CacheCondition.code = [0, 1, 2, 3]
  posters : [PosterCondition.pinned, .idle, .draining, .retiring, .freed].map PosterCondition.code = [0, 1, 2, 3, 4]
  loads : [DirStatus.ok, .truncated, .noDirectory].map DirStatus.code = [0, 1, 2]
  modes : [ReadMode.one, .two, .four].map ReadMode.lanes = [1, 2, 4]
  numbers : [Port.a, .b].map portNum = [0, 1] ∧ [OutputId.o0, .o1].map outputNum = [0, 1] ∧ [StreamId.s0, .s1].map streamNum = [0, 1]

/-! ## Invariants -/

/-- No raw counter of the first is above its counterpart of the second, over the eight groups (R185). -/
def Counters.le (a b : Counters) : Prop := ∀ g, List.Forall₂ (· ≤ ·) (a.group g) (b.group g)

/-- Frame memory and the catalogue flash are in their canonical form. -/
def MemoriesCanonical (s : State) : Prop :=
  Memory.wf Config.frameBlank s.frame ∧ Memory.wf Config.flashBlank s.flash

/-- The pages of an entry's page list; none of a FREE entry. -/
def SurfaceEntry.pages (e : SurfaceEntry) : List Nat := (e.body.map (·.pages)).getD []

/-- Whether an entry is in use by an account. -/
def SurfaceEntry.ownedBy (e : SurfaceEntry) (a : Account) : Bool := (e.body.map (fun x => x.owner == a)).getD false

/-- An account's figures are those of its surfaces (R4). -/
def SurfaceManager.accountSound (m : SurfaceManager) (a : Account) : Prop :=
  (m.account a).charged = (((m.entries.drop 1).filter (·.ownedBy a)).map (fun e => e.pages.length)).sum
    ∧ (m.account a).entries = ((m.entries.drop 1).filter (·.ownedBy a)).length

/-- The pool is whole (R1, R3, R4, R5, R152): the table has 160 entries; entry 0 holds the FALLBACK surface and no other
entry does, nor one of PART; every pool page stands exactly once on the free list, among the quarantined pages or in a
page list of entries 1–159; the accounts' figures are those of their surfaces; the bad page list names pages of frame
memory, none twice, at most 64. -/
structure PoolWhole (s : State) : Prop where
  entries : s.surfaces.entries.length = 160
  fallback : ∃ x, (s.surfaces.entries[0]?).bind (·.body) = some x ∧ x.kind = .fallback ∧ x.pages = List.range 43
  others : ∀ e ∈ s.surfaces.entries.drop 1, ∀ x, e.body = some x → x.kind ≠ .fallback ∧ x.owner ≠ .part
  pages : (s.surfaces.freeList ++ s.surfaces.quarantined ++ (s.surfaces.entries.drop 1).flatMap (·.pages)).Perm
    (List.range' 64 16320)
  accounts : ∀ a, a ≠ .part → s.surfaces.accountSound a
  badPages : s.errors.bad.Nodup ∧ s.errors.bad.length ≤ 64 ∧ ∀ p ∈ s.errors.bad, p < 16384

/-- Pages charged to each account do not exceed its budget (R4). -/
def ChargedWithinBudget (s : State) : Prop :=
  ∀ a, (s.surfaces.account a).charged ≤ (s.surfaces.account a).budget

/-- The long commands of a port that a block works on, as the entries they hold (R177): its LATCHes on the outputs' lists
(R37), the LOAD POSTERs of the load queue (R119), the operations of its flash queue (R135), a CLOSE STREAM not complete (R105),
the RELOAD DIRECTORY in progress (R128) and the RESTART that waits for start-up (R173). -/
def State.inWork (s : State) (p : Port) : List InFlight :=
  let latches := (s.outputs.o0.latches ++ s.outputs.o1.latches).filter (fun e => e.port = p)
  let reload := s.cache.reload.toList.filter (fun w => w.port = p)
  let restart := s.startUp.restart.toList.filter (fun x => x.port = p)
  let closes := [s.streams.s0, s.streams.s1].filter (fun r => r.owner = some p)
  latches.map (fun e => ⟨0x22, e.tag⟩) ++ (s.waitersOf p).map (fun w => ⟨0x40, w.tag⟩)
    ++ (s.arbiter.queues.get p).map (fun op =>
        ⟨match op.kind with | .read _ _ => 0x50 | .program _ _ => 0x51 | .erase _ => 0x52, op.tag⟩)
    ++ closes.flatMap (fun r => r.closeTag.toList.map (fun tag => ⟨0x36, tag⟩))
    ++ reload.map (fun w => ⟨0x43, w.tag⟩) ++ restart.map (fun x => ⟨0x03, x.tag⟩)

/-- The link's account of its commands (R176 to R179): held plus owed is at most 32, and the command queue and the in-flight
table are no longer than their rooms; owed is the length of both together, but in RESETTING, where it is 0 and the queue is
empty; every long command a block works on has an entry of its own; the operation that holds the grant heads its queue
(R135). -/
structure State.Accounted (s : State) : Prop where
  room : ∀ p, (s.ports.get p).notices.length + (s.ports.get p).owed ≤ 32
  lengths : ∀ p, (s.ports.get p).queue.length ≤ 16 ∧ (s.ports.get p).inFlight.length ≤ 8
  owed : ∀ p, (s.ports.get p).status ≠ .resetting →
    (s.ports.get p).owed = (s.ports.get p).queue.length + (s.ports.get p).inFlight.length
  resetting : ∀ p, (s.ports.get p).status = .resetting → (s.ports.get p).owed = 0 ∧ (s.ports.get p).queue = []
  entries : ∀ p e, (s.inWork p).count e ≤ (s.ports.get p).inFlight.count e
  granted : ∀ p op, s.arbiter.grant = some (.port p op) → (s.arbiter.queues.get p).head? = some op

/-- The capture record as R153 and R158 leave it: a locked record holds a sequence of 1–65,535; an unlocked one has
neither lost flag nor lost count; the flag is set exactly when the count is above 0, and the count is at most 255. -/
def CaptureSound (s : State) : Prop :=
  let c := s.errors.capture
  c.sequence ≤ 65535 ∧ (c.locked = true → c.sequence ≠ 0) ∧ (c.locked = false → c.lost = false)
    ∧ (c.lost = true ↔ 0 < c.lostCount) ∧ c.lostCount ≤ 255

end Sys2Proof.Machine
end

