-- ==== Sys2Proof/Certificates/Slice0/Obligations.lean ====
section
/-! DEFINITION. The statements for the provers. Those about the whole part come first, then those of each family of
commands in the order of the table. A command of the link is stated at the head of its port's queue (`Takes`): its
fields are read from the frame there. -/

section Statements

open Sys2Proof Sys2Proof.Machine

/-! ## The block and its resets -/

/-- One step is the meaning of the command at the front of the queue, on the state with the queue's rest; on an empty
queue the block idles (the model's queue, log 1). -/
def Obligations.StepRunsFrontCommand : Prop :=
  ∀ s : State,
    (∀ c rest, s.pending = c :: rest → step s = exec c { s with pending := rest })
    ∧ (s.pending = [] → step s = .next s)

/-- Every command completes in a next state on every state, which stays as it is where the command's occasion is absent (the
model's choice, log 2); an ECC result on a burst that frame memory does not have, which no reader of R150 can report, is the
model's own stop (NOTES.md, Stops); none is refused, and none changes the queue of waiting commands (log 1). -/
def Obligations.EveryCommandCompletes : Prop :=
  ∀ (c : Instr) (s : State),
    (c.wellFormed = true → ∃ t, exec c s = .next t)
    ∧ (∀ r b, b.valid = false → (c = .eccCorrected r b ∨ c = .eccUncorrectable r b) → exec c s = .fault .noSuchBurst)
    ∧ (∀ why, exec c s ≠ .refused why)
    ∧ ∀ t, exec c s = .next t → t.pending = s.pending

/-- What a cold reset leaves, as R5, R26, R28, R110, R132, R135, R162, R184 and R185 give it. -/
def Obligations.ResetStateValues : Prop :=
  let s := State.reset
  (s.surfaces.freeList = List.range' 64 16320 ∧ s.surfaces.quarantined = []
    ∧ s.surfaces.entries[0]? = some
        { gen := 0
          body := some { owner := .part, kind := .fallback, width := 240, height := 360, format := .rgb565
                         byteSize := 172800, pages := List.range 43, state := .resident, attached := none
                         damaged := false, refs := ⟨0, 0⟩ } }
    ∧ s.surfaces.entries.drop 1 = List.replicate 159 { gen := 0, body := none }
    ∧ ∀ a, (s.surfaces.account a).charged = 0 ∧ (s.surfaces.account a).entries = 0)
  ∧ (s.layers.length = 24 ∧ ∀ r ∈ s.layers, r.active = r.pending
      ∧ r.pending = { output := none, z := 0, source := .none, crop := ⟨0, 0, 1, 1⟩, dx := 0, dy := 0, dw := 1, dh := 1
                      filter := .nearest, alpha := 255, fill := ⟨0, 0, 0⟩, cls := .decorative, visible := false })
  ∧ (∀ i, s.streams.get i = { state := .idleClosed, owner := none, clockOutput := none, slots := [], current := none
                              ready := [], clock := 0, startStamp := none, lastStamp := none, closeTag := none })
  ∧ (s.cache.map = [] ∧ s.cache.queue = [] ∧ s.cache.idle = [] ∧ s.cache.stale = [] ∧ s.cache.reload = none)
  ∧ (s.arbiter.queues = ⟨[], []⟩ ∧ s.arbiter.loadingRange = none ∧ s.arbiter.timer = .stopped)
  ∧ s.errors = { bad := [], fault := false
                 capture := { sequence := 0, page := none, surface := none, reader := none, offset := none
                              pageAdded := false, locked := false, lost := false, lostCount := 0 } }
  ∧ (∀ p, (s.ports.get p).queue = [] ∧ (s.ports.get p).inFlight = [] ∧ (s.ports.get p).notices = []
      ∧ (s.ports.get p).owed = 0 ∧ (s.ports.get p).lost = 0 ∧ (s.ports.get p).mask = 0
      ∧ (s.ports.get p).quiet = .stopped ∧ (s.ports.get p).hold = .stopped ∧ (s.ports.get p).attention = false)
  ∧ (∀ g, ∀ n ∈ s.counters.group g, n = 0)
  ∧ (∀ o, (s.outputs.get o).latches = [] ∧ (s.outputs.get o).layers = [] ∧ (s.outputs.get o).holdSet = []
      ∧ (s.outputs.get o).wishes = ⟨none, none⟩ ∧ (s.outputs.get o).forcedBlank = false ∧ (s.outputs.get o).pen = false)
  ∧ s.part = .starting

/-- COLD RESET (R187): every block takes its state after reset; the straps say which ports are present, port A also when
both are off; the flash keeps its bytes, but for the range of a program or erase under way, whose bytes are free values
(R135), those of one that has timed out and not yet completed included (the model's choice, log 8). The model's choices: the queue (log 1), the bytes of frame memory, which R26 leaves open (log 5), the lane
wiring (log 7), the values that the configuration sets later (log 9), the levels of the reset lines (log 30). -/
def Obligations.ColdResetTaken : Prop :=
  ∀ (strapA strapB : Bool) (s : State), ∃ t, exec (.coldReset strapA strapB) s = .next t
    ∧ t = { State.reset with
            pending := s.pending, lanes := s.lanes, flash := t.flash, freeCount := t.freeCount, ports := t.ports
            startUp := { State.reset.startUp with straps := ⟨strapA || !strapB, strapB⟩ } }
    ∧ t.ports.a = { State.reset.ports.a with
                    status := if strapA || !strapB then .detached else .absent, resetLine := s.ports.a.resetLine }
    ∧ t.ports.b = { State.reset.ports.b with
                    status := if strapB then .detached else .absent, resetLine := s.ports.b.resetLine }
    ∧ (∀ p op r, s.arbiter.grant = some (.port p op) → op.kind.range = some r →
        t.freeCount = s.freeCount + 1
        ∧ ∀ x, t.flash.read Config.flashBlank x =
            if r.offset ≤ x ∧ x < r.offset + r.length then Config.abandonedFlashByte s.freeCount x
            else s.flash.read Config.flashBlank x)
    ∧ ((∀ p op, s.arbiter.grant = some (.port p op) → op.kind.range = none) →
        t.flash = s.flash ∧ t.freeCount = s.freeCount)

/-- RESET ASSERT (R187): no link is answered, both attention lines and both panel enable lines are deasserted, and no
read is under way; a program or erase in the device stays for the cold reset to abandon (R135). -/
def Obligations.ResetAssertTaken : Prop :=
  ∀ s : State, ∃ t, exec .resetAssert s = .next t
    ∧ t = { s with
            startUp := { s.startUp with resetPin := true }
            outputs := ⟨{ s.outputs.o0 with pen := false }, { s.outputs.o1 with pen := false }⟩
            arbiter := { s.arbiter with grant := t.arbiter.grant }
            ports := ⟨{ s.ports.a with quiet := .stopped, hold := .stopped, attention := false, answer := none },
                      { s.ports.b with quiet := .stopped, hold := .stopped, attention := false, answer := none }⟩ }
    ∧ (∀ r, s.arbiter.grant = some (.loader r) → t.arbiter.grant = none)
    ∧ (s.arbiter.grant = none → t.arbiter.grant = none)
    ∧ ∀ p op, s.arbiter.grant = some (.port p op) →
        t.arbiter.grant = if op.kind.range = none then none else some (.port p op)

/-- While RESET is asserted the part does nothing (R187): every command but COLD RESET, RESET ASSERT and the link gap
leaves the state as it is. -/
def Obligations.HeldResetDoesNothing : Prop :=
  ∀ (c : Instr) (s : State), s.startUp.resetPin = true → c.wellFormed = true →
    (∀ a b, c ≠ .coldReset a b) → c ≠ .resetAssert → (∀ p, c ≠ .linkGap p) → exec c s = .next s

/-! ## Invariants and rules of the whole part -/

/-- Every step keeps frame memory and the flash in their canonical form. -/
def Obligations.StepKeepsCanonicalMemories : Prop :=
  ∀ s t : State, MemoriesCanonical s → step s = .next t → MemoriesCanonical t

/-- Every step keeps the pool whole: each pool page in one place, the accounts equal to their surfaces, entry 0 the
fallback poster, the bad page list sound (R1, R3, R4, R5, R152). -/
def Obligations.StepKeepsPoolWhole : Prop :=
  ∀ s t : State, PoolWhole s → step s = .next t → PoolWhole t

/-- The invariants hold right after reset. -/
def Obligations.ResetMeetsInvariants : Prop :=
  MemoriesCanonical State.reset ∧ PoolWhole State.reset ∧ CaptureSound State.reset

/-- Every step keeps the capture record sound (R153, R158). -/
def Obligations.StepKeepsCaptureSound : Prop :=
  ∀ s t : State, CaptureSound s → step s = .next t → CaptureSound t

/-- A raw counter never falls, except at cold reset: no other command lowers any of the 31 (R185). -/
def Obligations.CountersNeverFall : Prop :=
  ∀ (c : Instr) (s t : State), (∀ a b, c ≠ .coldReset a b) → exec c s = .next t → s.counters.le t.counters

/-- Frame memory changes only at WRITE SURFACE, the loader's ends of reads and COLD RESET; the flash changes only at the
end of a program or an erase and at COLD RESET (R14, R122, R134, R147, R191). -/
def Obligations.MemoriesWrittenOnlyBy : Prop :=
  ∀ (c : Instr) (s t : State), exec c s = .next t → (∀ a b, c ≠ .coldReset a b) →
    ((∀ p, c ≠ .writeSurface p) → c ≠ .loaderReadEnd → t.frame = s.frame)
    ∧ (c ≠ .flashOperationDone → c ≠ .deviceAcceptsCommands → t.flash = s.flash)

/-- A page leaves the bad page list only at COLD RESET, and only an uncorrectable result appends to it, at the tail
(R152); FAULT is left only by RESTART or by COLD RESET (R160). -/
def Obligations.BadListGrowsAndFaultStays : Prop :=
  ∀ (c : Instr) (s t : State), exec c s = .next t → (∀ a b, c ≠ .coldReset a b) →
    s.errors.bad <+: t.errors.bad
    ∧ ((∀ r b, c ≠ .eccUncorrectable r b) → t.errors.bad = s.errors.bad)
    ∧ ((∀ p, c ≠ .restart p) → s.errors.fault = true → t.errors.fault = true)

/-- Pages charged to each account never exceed its budget (R4): every command keeps it. The end of start-up's configuration
read, which sets the budgets (R190), keeps it where no account is charged yet, as start-up leaves them (R25, R26). -/
def Obligations.ChargesStayWithinBudgets : Prop :=
  ∀ (c : Instr) (s t : State), ChargedWithinBudget s → exec c s = .next t →
    (c = .loaderReadEnd → (∃ m, s.cache.work = .startConfig m) → ∀ a, (s.surfaces.account a).charged = 0) →
    ChargedWithinBudget t

/-! ## Ports and the link -/

/-- What offering an event notice to a port does (R179, R183): only an ATTACHED port queues it, while held plus owed is
below 32; at 32 it is dropped and counted. Joining restarts the quiet timer, starts the hold timer on an empty queue,
and raises the line for an urgent notice or a time of 0. Held plus owed never exceed 32: every command keeps the link's account
of its commands (`Accounted`: R135, R176 to R179), under which a completion always finds room, and reset meets it. -/
def Obligations.EventNoticeOffered : Prop :=
  (∀ (s : State) (p : Port) (n : Notice),
    let q := s.ports.get p
    (q.status ≠ .attached → s.notify p n = s)
    ∧ (q.status = .attached → q.notices.length + q.owed < 32 → ∃ attention, s.notify p n = s.modPort p (fun q =>
        { q with
          notices := q.notices ++ [n]
          quiet := if q.quietTime = 0 then .stopped else .running q.quietTime
          hold := if q.notices = [] then (if q.holdTime = 0 then .stopped else .running q.holdTime) else q.hold
          attention := attention })
        ∧ (attention = true ↔ q.attention = true ∨ n.urgent = true ∨ q.quietTime = 0 ∨ (q.notices = [] ∧ q.holdTime = 0)))
    ∧ (q.status = .attached → 32 ≤ q.notices.length + q.owed → s.notify p n =
        { s with
          ports := s.ports.set p { q with lost := if q.lost < 255 then q.lost + 1 else q.lost }
          counters := s.counters.onPort p (fun k => { k with eventsLost := satSucc k.eventsLost }) })
    ∧ (q.notices.length + q.owed ≤ 32 →
        ((s.notify p n).ports.get p).notices.length + ((s.notify p n).ports.get p).owed ≤ 32))
  ∧ State.reset.Accounted
  ∧ ∀ (c : Instr) (s t : State), s.Accounted → exec c s = .next t → t.Accounted

/-- A port that is DETACHED or DETACHING answers NOT_ATTACHED to every command it takes, ATTACH of a DETACHED port
excepted, and nothing outside the port changes (R165); a frame that is no command, a malformed ATTACH too, is answered so
before its code and length are judged (DEDUCED, log 15). -/
def Obligations.NotAttachedAnswered : Prop :=
  ∀ (s : State) (p : Port) (f : Frame) (rest : List Frame),
    (s.ports.get p).status = .detached ∨ (s.ports.get p).status = .detaching →
    (∀ c, AtHead s p (some c) f rest → (c = .attach → (s.ports.get p).status = .detaching) →
      exec (c.instr p) s = .next (s.answered p f rest .notAttached .none))
    ∧ (AtHead s p none f rest → exec (.unknownCommand p) s = .next (s.answered p f rest .notAttached .none))

/-- A command whose occasion is absent leaves the state as it is (log 2): RESET is held, the part is STARTING, the port
takes no commands, the head of the queue holds no such command, or it is a long command and the in-flight table is full
(R163, R177, R187). -/
def Obligations.NothingTaken : Prop :=
  ∀ (s : State) (p : Port) (c : Cmd),
    (s.startUp.resetPin = true ∨ s.startUp.starting = true
      ∨ (s.ports.get p).status = .absent ∨ (s.ports.get p).status = .resetting
      ∨ ((s.ports.get p).queue.head?).bind Frame.cmd? ≠ some c
      ∨ ((s.ports.get p).status = .attached ∧ c.isLong = true ∧ 8 ≤ (s.ports.get p).inFlight.length)) →
    exec (c.instr p) s = .next s

/-- ATTACH (R166, R79, R165): a DETACHED port becomes ATTACHED, its wish on each enabled output becomes ACTIVE, which
wakes an ASLEEP one, it is told what R166 lists, and PORT CHANGE goes to the other port, behind the PANEL STATE of an output
that wakes (the model's choice, log 42); an ATTACHED port is refused. -/
def Obligations.AttachTaken : Prop :=
  ∀ (s : State) (p : Port) (f : Frame) (rest : List Frame), AtHead s p (some .attach) f rest →
    ((s.ports.get p).status = .attached →
      exec (.attach p) s = .next (s.answered p f rest .wrongState .none))
    ∧ ((s.ports.get p).status = .detached → ∃ t, exec (.attach p) s = .next t
      ∧ t = { s with ports := t.ports, outputs := t.outputs, counters := t.counters }
      ∧ (t.ports.get p).status = .attached ∧ (t.ports.get p).queue = rest
      ∧ (t.ports.get p).owed = (s.ports.get p).owed - 1 ∧ (t.ports.get p).inFlight = (s.ports.get p).inFlight
      ∧ (t.ports.get p).mask = (s.ports.get p).mask ∧ (t.ports.get p).baselines = (s.ports.get p).baselines
      ∧ (t.ports.get p).notices.getLast? = some (.completion f.tag f.code .ok none (.attach
          { partCode := 0x0712, revision := 1, part := if s.errors.fault then .fault else .running
            status := s.startUp.status, singlePort := !(s.startUp.straps.a && s.startUp.straps.b)
            budget := match p with | .a => s.surfaces.portA.budget | .b => s.surfaces.portB.budget
            share := 48, firstLayer := match p with | .a => 0 | .b => 12
            lastLayer := match p with | .a => 11 | .b => 23
            maintainer := (s.ports.get p).maintainer
            outputs :=
              ⟨if s.outputEnabled .o0 then some (s.outputs.o0.timing.width, s.outputs.o0.timing.height) else none,
               if s.outputEnabled .o1 then some (s.outputs.o1.timing.width, s.outputs.o1.timing.height) else none⟩ }))
      ∧ (∀ o, s.outputEnabled o = false → t.outputs.get o = s.outputs.get o)
      ∧ (∀ o, s.outputEnabled o = true → (s.outputs.get o).panel ≠ .asleep → t.outputs.get o =
          { s.outputs.get o with wishes := (s.outputs.get o).wishes.set p (some .active) })
      ∧ (∀ o, s.outputEnabled o = true → (s.outputs.get o).panel = .asleep →
          panelTarget (s.outputs.get o).wishes ≠ .active → t.outputs.get o =
            { s.outputs.get o with
              wishes := (s.outputs.get o).wishes.set p (some .active), panel := .waking, running := true, leadIn := true
              fieldCount := 0, acc := 0, pen := true, nextLine := 0, work := none, ahead := [], line := [] })
      ∧ ((s.ports.get p.other).status = .attached → (s.ports.get p.other).mask.getLsbD 3 = true →
          (s.ports.get p.other).notices.length + (s.ports.get p.other).owed + 2 < 32 →
          (t.ports.get p.other).notices.getLast? = some (.portChange p .attached)))

/-- DETACH (R168, R169, R167): the port leaves ATTACHED, PORT CHANGE goes to the other port, and the five teardown requests
are made; its LATCHes on an ASLEEP output complete at once, and its waiting loads and the flash operations that do not hold
the grant with CANCELLED. The port is DETACHED with the DETACH completed last, and the count of those it cancelled, if every
block is done with it and no other long command is in flight, and DETACHING otherwise. Neither memory nor the error block
changes. A stream of the port loses its READY frames and stamps in OPEN too (DEDUCED, log 32). -/
def Obligations.DetachTaken : Prop :=
  ∀ (s : State) (p : Port) (f : Frame) (rest : List Frame), Takes s p .detach f rest → ∃ t, exec (.detach p) s = .next t
    ∧ t = { s with surfaces := t.surfaces, layers := t.layers, outputs := t.outputs, streams := t.streams
                   cache := t.cache, arbiter := t.arbiter, ports := t.ports, counters := t.counters }
    ∧ s.TornDown t p
    ∧ (t.ports.get p).queue = rest ∧ (t.ports.get p.other).queue = (s.ports.get p.other).queue
    ∧ (((t.ports.get p).status = .detached ∧ t.TeardownOver p ∧ (t.ports.get p).inFlight = []
          ∧ ∃ n, (t.ports.get p).notices.getLast? = some (.completion f.tag f.code .ok none (.detach n))
            ∧ (s.DeviceSettled → n = (s.waitersOf p).length + (s.cancelledOps p).length))
        ∨ ((t.ports.get p).status = .detaching
          ∧ (¬ t.TeardownOver p ∨ loneDetach (t.ports.get p).inFlight = none)
          ∧ (s.DeviceSettled → (t.ports.get p).cancelled = (s.waitersOf p).length + (s.cancelledOps p).length)))
    ∧ ((s.ports.get p.other).mask.getLsbD 3 = true → s.told t p.other (.portChange p .detaching)
        ∧ ((t.ports.get p).status = .detached → s.told t p.other (.portChange p .detached)))
    ∧ (∀ o, s.outputEnabled o = true → (t.outputs.get o).panel = .asleep → ∀ e ∈ (s.outputs.get o).latches, e.port = p →
        Notice.completion e.tag 0x22 .ok none (.latch o (s.outputs.get o).fieldCount) ∈ (t.ports.get p).notices)
    ∧ (∀ w ∈ s.waitersOf p, Notice.completion w.tag 0x40 .cancelled none .none ∈ (t.ports.get p).notices)
    ∧ (s.DeviceSettled → ∀ op ∈ s.cancelledOps p, Notice.completion op.tag
        (match op.kind with | .read _ _ => 0x50 | .program _ _ => 0x51 | .erase _ => 0x52) .cancelled none .none
          ∈ (t.ports.get p).notices)

/-- PORT RESET ASSERT (R170, R171, R163, R167): a present port empties its queues and becomes RESETTING with its line
deasserted, and PORT CHANGE goes to the other port; from ATTACHED the five teardown requests are made, from DETACHED or
DETACHING only ports and counters change; in RESETTING only the level changes (log 37 for what follows); an ABSENT port
ignores the line. A stream of the port loses its READY frames and stamps in OPEN too (DEDUCED, log 32). -/
def Obligations.PortResetAsserted : Prop :=
  ∀ (s : State) (p : Port), s.startUp.resetPin = false →
    ((s.ports.get p).status = .absent → exec (.portResetAssert p) s = .next s)
    ∧ ((s.ports.get p).status = .resetting →
        exec (.portResetAssert p) s = .next (s.modPort p (fun q => { q with resetLine := true })))
    ∧ ((s.ports.get p).status ≠ .absent → (s.ports.get p).status ≠ .resetting →
        ∃ t, exec (.portResetAssert p) s = .next t
          ∧ t = { s with surfaces := t.surfaces, layers := t.layers, outputs := t.outputs, streams := t.streams
                         cache := t.cache, arbiter := t.arbiter, ports := t.ports, counters := t.counters }
          ∧ (t.ports.get p).status = .resetting ∧ (t.ports.get p).resetLine = true ∧ (t.ports.get p).queue = []
          ∧ (t.ports.get p).notices = [] ∧ (t.ports.get p).owed = 0 ∧ (t.ports.get p).lost = 0
          ∧ (t.ports.get p).quiet = .stopped ∧ (t.ports.get p).hold = .stopped ∧ (t.ports.get p).attention = false
          ∧ ((s.ports.get p).status = .attached → s.TornDown t p)
          ∧ ((s.ports.get p).status ≠ .attached → t = { s with ports := t.ports, counters := t.counters })
          ∧ ((s.ports.get p.other).mask.getLsbD 3 = true → s.told t p.other (.portChange p .resetting))
          ∧ (t.ports.get p.other).queue = (s.ports.get p.other).queue)

/-- PORT RESET RELEASE (R171), while the other port is not in teardown: a RESETTING port whose teardown is done and
whose in-flight table is empty becomes DETACHED and offers PORT CHANGE; one whose teardown is not done stays RESETTING;
an ABSENT port ignores the line (R163). -/
def Obligations.PortResetReleased : Prop :=
  ∀ (s : State) (p : Port), s.startUp.resetPin = false →
    ((s.ports.get p).status = .absent → exec (.portResetRelease p) s = .next s)
    ∧ ((s.ports.get p).status = .resetting →
        (s.ports.get p.other).status ≠ .detaching → (s.ports.get p.other).status ≠ .resetting →
        (s.TeardownOver p → (s.ports.get p).inFlight = [] → exec (.portResetRelease p) s =
          .next (State.notifyIf .portChange p.other (.portChange p .detached)
            (s.modPort p (fun q => { q with resetLine := false, status := .detached, cancelled := 0 }))))
        ∧ (¬ s.TeardownOver p →
            exec (.portResetRelease p) s = .next (s.modPort p (fun q => { q with resetLine := false }))))

/-- RESTART (R172, R173): BUSY with another command of the port waiting or in flight, SHARED while the other port is not
ABSENT or DETACHED; accepted otherwise, with every block in its RESTART state (R25, R28, R86, R110, R132, R149, R162) and
the part STARTING. The model's choices: the device size stays for now (log 36), the issuer's timers stop (log 38), and what
start-up sets later has the values of log 9. -/
def Obligations.RestartTaken : Prop :=
  ∀ (s : State) (p : Port) (f : Frame) (rest : List Frame), Takes s p .restart f rest →
    let other := s.ports.get p.other
    (rest ≠ [] ∨ (s.ports.get p).inFlight ≠ [] → exec (.restart p) s = .next (s.answered p f rest .busy .none))
    ∧ (rest = [] → (s.ports.get p).inFlight = [] → other.status ≠ .absent → other.status ≠ .detached →
        exec (.restart p) s = .next (s.answered p f rest .shared .none))
    ∧ (rest = [] → (s.ports.get p).inFlight = [] → other.status = .absent ∨ other.status = .detached →
        ∃ t, exec (.restart p) s = .next t
          ∧ t = { s with
                  startUp := { s.startUp with
                    starting := true, restart := some ⟨p, f.tag, (s.ports.get p).notices.length⟩ }
                  surfaces := t.surfaces, layers := State.reset.layers, streams := State.reset.streams
                  outputs := ⟨{ State.reset.outputs.o0 with timing := s.outputs.o0.timing },
                              { State.reset.outputs.o1 with timing := s.outputs.o1.timing }⟩
                  cache := { State.reset.cache with directory := s.cache.directory }
                  arbiter := { State.reset.arbiter with deviceSize := s.arbiter.deviceSize }
                  errors := { s.errors with fault := false }, ports := t.ports }
          ∧ t.surfaces.freeList = (List.range' 64 16320).filter (fun page => !s.errors.bad.contains page)
          ∧ t.surfaces.quarantined = s.errors.bad.filter (fun page => decide (64 ≤ page))
          ∧ t.surfaces.entries[0]? = s.surfaces.entries[0]?
          ∧ (∀ i e, 1 ≤ i → s.surfaces.entries[i]? = some e → t.surfaces.entries[i]? =
              some { gen := if e.body.isSome then e.gen + 1 else e.gen, body := none })
          ∧ (∀ a, (t.surfaces.account a).charged = 0 ∧ (t.surfaces.account a).entries = 0
              ∧ (t.surfaces.account a).budget = (s.surfaces.account a).budget)
          ∧ t.ports.get p = { s.ports.get p with
              status := .detached, queue := [], inFlight := [⟨f.code, f.tag⟩], notices := [], lost := 0, mask := 0
              baselines := Counters.zero, quiet := .stopped, hold := .stopped, attention := false, cancelled := 0 }
          ∧ (t.ports.get p.other).notices = other.notices
              ++ other.queue.map (fun g => .completion g.tag g.code .notAttached none .none)
          ∧ (t.ports.get p.other).queue = [] ∧ (t.ports.get p.other).owed = other.owed - other.queue.length
          ∧ (t.ports.get p.other).baselines = Counters.zero ∧ (t.ports.get p.other).status = other.status
          ∧ (t.ports.get p.other).inFlight = other.inFlight ∧ (t.ports.get p.other).lost = other.lost)

/-- COMMAND frame accepted (R175, R176): a frame with start byte, code, tag, length, payload and CRC-16, bytes beyond the
CRC ignored, joins the tail of the command queue when the queue and the notice bound have room; owed rises by 1, the
frames accepted counter rises and the first read slot holds ACCEPTED. -/
def Obligations.CommandFrameAccepted : Prop :=
  ∀ (s : State) (p : Port) (code tag : Byte) (payload extra : List Byte),
    let q := s.ports.get p
    payload.length ≤ 4112 → s.startUp.resetPin = false → s.startUp.starting = false →
    q.status ≠ .absent → q.status ≠ .resetting → q.queue.length < 16 → q.notices.length + q.owed < 32 →
    exec (.commandFrame p (frameBytes code tag payload ++ extra)) s = .next
      { s with
        ports := s.ports.set p
          { q with queue := q.queue ++ [⟨code, tag, payload⟩], owed := q.owed + 1, answer := some [0x00] }
        counters := s.counters.onPort p (fun k => { k with accepted := satSucc k.accepted }) }

/-- COMMAND frame refused (R175): CHECK_ERROR for a bad start byte, a short write phase or a CRC-16 that differs;
TOO_LONG above 4,112 payload bytes; NOT_READY while STARTING or RESETTING, not counted; QUEUE_FULL without room. A write
phase too short to hold its length field counts as a short one (DEDUCED, log 12). Only the answer and the counter of that
name change. A turnaround before which no byte was written changes nothing (the model's choice, log 44). -/
def Obligations.CommandFrameRefused : Prop :=
  ∀ (s : State) (p : Port) (bs : List Byte),
    let q := s.ports.get p
    let k := s.counters.port.get p
    let refused (code : Byte) (k' : PortCounters) : State :=
      { s with
        ports := s.ports.set p { q with answer := some [code] }, counters := s.counters.onPort p (fun _ => k') }
    s.startUp.resetPin = false → q.status ≠ .absent →
    (bs = [] → exec (.commandFrame p bs) s = .next s)
    ∧ (bs ≠ [] → bs.head? ≠ some 0xA5 → bs.head? ≠ some 0x5A → bs.head? ≠ some 0x3C →
      exec (.commandFrame p bs) s = .next (refused 0x02 { k with checkError := satSucc k.checkError }))
    ∧ (bs.head? = some 0xA5 →
        (5 ≤ bs.length → 4112 < u16 bs 3 →
          exec (.commandFrame p bs) s = .next (refused 0x03 { k with tooLong := satSucc k.tooLong }))
        ∧ (u16 bs 3 ≤ 4112 →
            bs.length < 7 + u16 bs 3 ∨ (crc16 ((bs.drop 1).take (4 + u16 bs 3))).toNat ≠ u16 bs (5 + u16 bs 3) →
            exec (.commandFrame p bs) s = .next (refused 0x02 { k with checkError := satSucc k.checkError }))
        ∧ (u16 bs 3 ≤ 4112 → 7 + u16 bs 3 ≤ bs.length →
            (crc16 ((bs.drop 1).take (4 + u16 bs 3))).toNat = u16 bs (5 + u16 bs 3) →
            (s.startUp.starting = true ∨ q.status = .resetting →
              exec (.commandFrame p bs) s = .next (refused 0x04 k))
            ∧ (s.startUp.starting = false → q.status ≠ .resetting →
                16 ≤ q.queue.length ∨ 32 ≤ q.notices.length + q.owed →
                exec (.commandFrame p bs) s = .next (refused 0x01 { k with queueFull := satSucc k.queueFull }))))

/-- NOTICE READ (R181, R183): the n oldest notices leave, the answer is the count, the lost-event count, the notices and
a CRC-16 over them, the lost-event count becomes 0; a read that leaves the queue empty stops both timers and deasserts
the line. Each notice is laid out as Table 10-7 has its kind, with the result fields of its owning chapter in the sizes and codes
of Tables 10-8 and 10-9. The sizes and absent values these tables leave open are the model's choice (log 20); where the write
mark of WRITE SURFACE stands is DEDUCED (log 21). -/
def Obligations.NoticeReadTaken : Prop :=
  ∀ (s : State) (p : Port) (max : Byte),
    let q := s.ports.get p
    let n := min (min max.toNat 32) q.notices.length
    let body := littleEndian 1 n ++ littleEndian 1 q.lost ++ (q.notices.take n).flatMap Notice.layout
    let read : PortState :=
      { q with notices := q.notices.drop n, lost := 0, answer := some (body ++ littleEndian 2 (crc16 body).toNat) }
    CodesOfTables ∧ (s.startUp.resetPin = false → q.status ≠ .absent →
    (n < q.notices.length → exec (.noticeRead p max) s = .next { s with ports := s.ports.set p read })
    ∧ (n = q.notices.length → exec (.noticeRead p max) s =
        .next { s with
                ports := s.ports.set p { read with quiet := .stopped, hold := .stopped, attention := false } }))

/-- STATUS READ (R182): the port answers four bytes, the port state, the held notices, the completions owed and the part
state, and nothing else changes. -/
def Obligations.StatusReadTaken : Prop :=
  ∀ (s : State) (p : Port),
    let q := s.ports.get p
    let portCode : Byte := match q.status with
      | .absent => 0 | .detached => 1 | .attached => 2 | .detaching => 3 | .resetting => 4
    let partCode : Byte := if s.startUp.starting then 0 else if s.errors.fault then 2 else 1
    s.startUp.resetPin = false → q.status ≠ .absent →
    exec (.statusRead p) s = .next { s with
      ports := s.ports.set p
        { q with answer := some [portCode, BitVec.ofNat 8 q.notices.length, BitVec.ofNat 8 q.owed, partCode] } }

/-- The first byte of a write phase decides its kind (R174, Table 10-1): one that begins as a NOTICE READ or a STATUS READ is
answered as that, its surplus bytes ignored (DEDUCED, log 46), and with a free maximum count where none was written (the model's
choice, log 47). The link gap ends the transaction; within one, read slot k carries byte k of the answer fixed at the turnaround
(log 12), and 0xFF beyond its end; an ABSENT port ignores its link (R163, R174); the quiet and the hold timer, where they
run, stop at their expiry, a command of the model (log 10), and raise the line if a notice is held (R183); the expiry of a
stopped one leaves the state (log 2). -/
def Obligations.LinkGapAndTimersTaken : Prop :=
  ∀ (s : State) (p : Port),
    exec (.linkGap p) s = .next (s.modPort p (fun q => { q with answer := none }))
    ∧ (∀ max extra, exec (.commandFrame p (0x5A :: max :: extra)) s = exec (.noticeRead p max) s)
    ∧ (∀ extra, exec (.commandFrame p (0x3C :: extra)) s = exec (.statusRead p) s)
    ∧ (s.startUp.resetPin = false → (s.ports.get p).status ≠ .absent → ∃ t,
        exec (.noticeRead p (Config.unwrittenMaximum s.freeCount)) s = .next t
        ∧ exec (.commandFrame p [0x5A]) s = .next { t with freeCount := s.freeCount + 1 })
    ∧ ((s.ports.get p).answer = none → ∀ k, (s.ports.get p).readSlot k = none)
    ∧ (∀ bs, (s.ports.get p).answer = some bs → ∀ k,
        (s.ports.get p).readSlot k = if h : k < bs.length then some bs[k] else some 0xFF)
    ∧ ((s.ports.get p).status = .absent → ∀ bs max,
        exec (.commandFrame p bs) s = .next s ∧ exec (.noticeRead p max) s = .next s ∧ exec (.statusRead p) s = .next s)
    ∧ (s.startUp.resetPin = false →
        (∀ us, (s.ports.get p).quiet = .running us → exec (.quietTimerExpiry p) s = .next (s.modPort p (fun q =>
          { q with quiet := .stopped, attention := q.attention || !q.notices.isEmpty })))
        ∧ (∀ us, (s.ports.get p).hold = .running us → exec (.holdTimerExpiry p) s = .next (s.modPort p (fun q =>
          { q with hold := .stopped, attention := q.attention || !q.notices.isEmpty })))
        ∧ ((s.ports.get p).quiet = .stopped → exec (.quietTimerExpiry p) s = .next s)
        ∧ ((s.ports.get p).hold = .stopped → exec (.holdTimerExpiry p) s = .next s))

/-- An unknown code, or a payload length that does not fit its code, at an ATTACHED port completes with BAD_COMMAND
(R177); a long command's code with a misfitting length does so also while the in-flight table is full (the model's choice,
log 41). -/
def Obligations.UnknownCommandRefused : Prop :=
  ∀ (s : State) (p : Port) (f : Frame) (rest : List Frame), AtHead s p none f rest →
    (s.ports.get p).status = .attached → exec (.unknownCommand p) s = .next (s.answered p f rest .badCommand .none)

/-- SUBSCRIBE (R180): a mask byte with a bit of 5–7 set is refused with BAD_COMMAND; any other replaces the mask and
reports the previous and the new one. -/
def Obligations.SubscribeTaken : Prop :=
  ∀ (s : State) (p : Port) (f : Frame) (rest : List Frame) (m : Byte), Takes s p .subscribe f rest → f.payload = [m] →
    ((m.getLsbD 5 = true ∨ m.getLsbD 6 = true ∨ m.getLsbD 7 = true) →
      exec (.subscribe p) s = .next (s.answered p f rest .badCommand .none))
    ∧ (m.getLsbD 5 = false → m.getLsbD 6 = false → m.getLsbD 7 = false →
        exec (.subscribe p) s =
          .next ((s.answered p f rest .ok (.subscribe (s.ports.get p).mask m)).modPort p (fun q => { q with mask := m })))

/-- READ STATISTICS (R186): a group above 7 or a clear byte above 1 is refused with BAD_COMMAND; the values are the raw
counters of the group less the port's baselines; with clear 1 the baselines of the group become the raw counters, those
of the other groups stay. -/
def Obligations.ReadStatisticsTaken : Prop :=
  ∀ (s : State) (p : Port) (f : Frame) (rest : List Frame) (g clear : Byte), Takes s p .readStatistics f rest →
    f.payload = [g, clear] →
    (7 < g.toNat ∨ 1 < clear.toNat → exec (.readStatistics p) s = .next (s.answered p f rest .badCommand .none))
    ∧ (g.toNat ≤ 7 → clear.toNat ≤ 1 → ∃ base, exec (.readStatistics p) s =
        .next ((s.answered p f rest .ok (.statistics g.toNat (clear == 1)
          (List.zipWith (· - ·) (s.counters.group g.toNat) ((s.ports.get p).baselines.group g.toNat)))).modPort p
            (fun q => { q with baselines := base }))
        ∧ (clear = 0 → base = (s.ports.get p).baselines)
        ∧ (clear = 1 → base.group g.toNat = s.counters.group g.toNat
            ∧ ∀ h, h ≠ g.toNat → base.group h = (s.ports.get p).baselines.group h))

/-! ## Surfaces -/

/-- DEFINE SURFACE accepted (R11, R12, R9, R3): the clamped geometry, the lowest-numbered FREE entry, the pages from the
head of the free list, the account charged; OK or CLAMPED with the handle and the size used. -/
def Obligations.DefineSurfaceAccepted : Prop :=
  ∀ (s : State) (p : Port) (f : Frame) (rest : List Frame) (w h : Nat) (fmt : Format) (i : Nat) (g : Byte),
    Takes s p .defineSurface f rest → w < 65536 → h < 65536 → f.payload = b16 w ++ b16 h ++ b8 fmt.code →
    w ≠ 0 → h ≠ 0 →
    let even (n : Nat) : Nat := if fmt = .yc420 ∧ n % 2 = 1 then n + 1 else n
    let w' := even (min w 4096)
    let h' := even (min h 4096)
    let size := match fmt with
      | .pa8888 => w' * h' * 4 | .rgb565 => w' * h' * 2 | .a8 => w' * h' | .yc420 => w' * h' + 2 * ((w' / 2) * (h' / 2))
    let n := (size + 4095) / 4096
    let r := match p with | .a => s.surfaces.portA | .b => s.surfaces.portB
    let r' : AccountRecord := { r with charged := r.charged + n, entries := r.entries + 1 }
    n ≤ 4096 → r.entries < 48 → r.charged + n ≤ r.budget → n ≤ s.surfaces.freeList.length → s.errors.fault = false →
    1 ≤ i → s.surfaces.entries[i]? = some ⟨g, none⟩ →
    (∀ j, 1 ≤ j → j < i → ∃ e, s.surfaces.entries[j]? = some e ∧ e.body.isSome = true) →
    exec (.defineSurface p) s = .next
      { s.answered p f rest (if w' = w ∧ h' = h then .ok else .clamped) (.surface ⟨i, g⟩ w' h' size n) with
        surfaces :=
          { s.surfaces with
            entries := s.surfaces.entries.set i
              ⟨g, some { owner := match p with | .a => .portA | .b => .portB
                         kind := .port, width := w', height := h', format := fmt, byteSize := size
                         pages := s.surfaces.freeList.take n, state := .defined, attached := none, damaged := false
                         refs := ⟨0, 0⟩ }⟩
            freeList := s.surfaces.freeList.drop n
            portA := match p with | .a => r' | .b => s.surfaces.portA
            portB := match p with | .a => s.surfaces.portB | .b => r' } }

/-- DEFINE SURFACE refused (R11, R12), with the first check that fails and nothing changed but the port. -/
def Obligations.DefineSurfaceRefused : Prop :=
  ∀ (s : State) (p : Port) (f : Frame) (rest : List Frame) (w h : Nat) (code : Byte),
    Takes s p .defineSurface f rest → w < 65536 → h < 65536 → f.payload = b16 w ++ b16 h ++ [code] →
    let refused (st : Status) : Prop := exec (.defineSurface p) s = .next (s.answered p f rest st .none)
    let r := match p with | .a => s.surfaces.portA | .b => s.surfaces.portB
    (3 < code.toNat ∨ w = 0 ∨ h = 0 → refused .badGeometry)
    ∧ ∀ fmt : Format, fmt.code = code.toNat → w ≠ 0 → h ≠ 0 →
        let even (n : Nat) : Nat := if fmt = .yc420 ∧ n % 2 = 1 then n + 1 else n
        let n := pageCount (byteSize fmt (even (min w 4096)) (even (min h 4096)))
        (4096 < n → refused .badGeometry)
        ∧ (n ≤ 4096 → 48 ≤ r.entries → refused .noSurface)
        ∧ (n ≤ 4096 → r.entries < 48 → r.budget < r.charged + n → refused .noBudget)
        ∧ (n ≤ 4096 → r.entries < 48 → r.charged + n ≤ r.budget → s.surfaces.freeList.length < n → refused .noPages)
        ∧ (n ≤ 4096 → r.entries < 48 → r.charged + n ≤ r.budget → n ≤ s.surfaces.freeList.length →
            s.errors.fault = true → refused .fault)

/-- WRITE SURFACE accepted (R13, R14, R10): each byte whose page is not on the bad page list is stored at its place, every
other byte of frame memory keeps its value; OK, or PAGE_BAD with the count of discarded bytes; the write mark is returned,
in every completion of WRITE SURFACE (DEDUCED, log 21). -/
def Obligations.WriteSurfaceStores : Prop :=
  ∀ (s : State) (p : Port) (f : Frame) (rest : List Frame) (idx : Nat) (g : Byte) (off : Nat) (mark data : List Byte)
    (x : Surface),
    Takes s p .writeSurface f rest → idx < 256 → off < 4294967296 → mark.length = 8 →
    f.payload = b8 idx ++ [g] ++ b32 off ++ b16 data.length ++ mark ++ data →
    s.resolve ⟨idx, g⟩ = some x → x.owner = accountOf p → x.state = .defined →
    (∀ i k y, x.attached = some (i, k) → (s.streams.get i).slots[k]? = some y → y.state = .empty) →
    off + data.length ≤ x.byteSize → x.byteSize ≤ 4096 * x.pages.length → x.pages.Nodup → s.errors.fault = false →
    let page (k : Nat) : Nat := x.pages.getD ((off + k) / 4096) 0
    let addr (k : Nat) : Nat := page k * 4096 + (off + k) % 4096
    let d := ((List.range data.length).filter (fun k => s.errors.bad.contains (page k))).length
    ∃ t, exec (.writeSurface p) s = .next t
      ∧ t = { s.answered p f rest (if d = 0 then .ok else .pageBad) (.written mark (if d = 0 then none else some d)) with
              frame := t.frame }
      ∧ (∀ k, k < data.length → page k ∉ s.errors.bad → t.frame.read Config.frameBlank (addr k) = data.getD k 0)
      ∧ ∀ a, (∀ k, k < data.length → page k ∉ s.errors.bad → a ≠ addr k) →
          t.frame.read Config.frameBlank a = s.frame.read Config.frameBlank a

/-- WRITE SURFACE and FREE SURFACE refused (R13, R15), with the first check that fails and nothing changed but the
port; a refused WRITE SURFACE returns its write mark too (DEDUCED, log 21). -/
def Obligations.WriteAndFreeSurfaceRefused : Prop :=
  ∀ (s : State) (p : Port) (f : Frame) (rest : List Frame) (idx : Nat) (g : Byte), idx < 256 →
    (∀ (off count : Nat) (mark data : List Byte), Takes s p .writeSurface f rest → off < 4294967296 → count < 65536 →
      mark.length = 8 → f.payload = b8 idx ++ [g] ++ b32 off ++ b16 count ++ mark ++ data →
      let refused (st : Status) : Prop := exec (.writeSurface p) s = .next (s.answered p f rest st (.written mark none))
      (count ≠ data.length → refused .badCommand)
      ∧ (count = data.length → s.resolve ⟨idx, g⟩ = none → refused .badHandle)
      ∧ ∀ x, count = data.length → s.resolve ⟨idx, g⟩ = some x →
          let busy : Prop := ∃ i k y, x.attached = some (i, k) ∧ (s.streams.get i).slots[k]? = some y ∧ y.state ≠ .empty
          (x.owner ≠ accountOf p → refused .notOwner)
          ∧ (x.owner = accountOf p → x.state ≠ .defined → refused .wrongState)
          ∧ (x.owner = accountOf p → x.state = .defined → busy → refused .slotBusy)
          ∧ (x.owner = accountOf p → x.state = .defined → ¬ busy → x.byteSize < off + data.length → refused .badGeometry)
          ∧ (x.owner = accountOf p → x.state = .defined → ¬ busy → off + data.length ≤ x.byteSize →
              s.errors.fault = true → refused .fault))
    ∧ (Takes s p .freeSurface f rest → f.payload = b8 idx ++ [g] →
        let refused (st : Status) : Prop := exec (.freeSurface p) s = .next (s.answered p f rest st .none)
        (s.resolve ⟨idx, g⟩ = none → refused .badHandle)
        ∧ ∀ x, s.resolve ⟨idx, g⟩ = some x →
            (x.owner ≠ accountOf p → refused .notOwner)
            ∧ (x.owner = accountOf p → x.state = .retiring → refused .wrongState)
            ∧ (x.owner = accountOf p → x.state ≠ .retiring → x.attached ≠ none → refused .attached)
            ∧ (x.owner = accountOf p → x.state ≠ .retiring → x.attached = none →
                (∃ id r, layerIdOf p id ∧ s.layers[id]? = some r ∧ r.pending.output ≠ none
                  ∧ r.pending.source = .surface ⟨idx, g⟩) → refused .inUse))

/-- FREE SURFACE accepted (R16, R18, R29): a surface in a hold set becomes RETIRING; any other becomes FREE: its good
pages join the free list, its bad ones are quarantined, the account is uncharged, the generation steps, and every layer
copy that names it loses its source. -/
def Obligations.FreeSurfaceTaken : Prop :=
  ∀ (s : State) (p : Port) (f : Frame) (rest : List Frame) (idx : Nat) (g : Byte) (x : Surface),
    Takes s p .freeSurface f rest → idx < 256 → f.payload = b8 idx ++ [g] → s.resolve ⟨idx, g⟩ = some x →
    x.owner = accountOf p → x.kind = .port → x.state ≠ .retiring → x.attached = none →
    (∀ id r, layerIdOf p id → s.layers[id]? = some r → r.pending.output ≠ none →
      r.pending.source ≠ .surface ⟨idx, g⟩) →
    let inHold : Prop := idx ∈ s.outputs.o0.holdSet ∨ idx ∈ s.outputs.o1.holdSet
    let forget (c : LayerCopy) : LayerCopy := if c.source = .surface ⟨idx, g⟩ then { c with source := .none } else c
    let less (r : AccountRecord) : AccountRecord :=
      { r with charged := r.charged - x.pages.length, entries := r.entries - 1 }
    (inHold → exec (.freeSurface p) s = .next
      { s.answered p f rest .ok (.freed (some .retiring)) with
        surfaces := { s.surfaces with entries := s.surfaces.entries.set idx ⟨g, some { x with state := .retiring }⟩ } })
    ∧ (¬ inHold → exec (.freeSurface p) s = .next
      { s.answered p f rest .ok (.freed none) with
        surfaces :=
          { s.surfaces with
            entries := s.surfaces.entries.set idx ⟨g + 1, none⟩
            freeList := s.surfaces.freeList ++ x.pages.filter (fun page => !s.errors.bad.contains page)
            quarantined := s.surfaces.quarantined ++ x.pages.filter (fun page => s.errors.bad.contains page)
            portA := match p with | .a => less s.surfaces.portA | .b => s.surfaces.portA
            portB := match p with | .a => s.surfaces.portB | .b => less s.surfaces.portB }
        layers := s.layers.map (fun r => ⟨forget r.active, forget r.pending⟩) })

/-- QUERY POOL (R23): the four page counts, which total 16,384 where the pool is whole, the accounts and the length of
the bad page list; nothing changes but the port. -/
def Obligations.QueryPoolTaken : Prop :=
  ∀ (s : State) (p : Port) (f : Frame) (rest : List Frame), Takes s p .queryPool f rest →
    let allocated := ((s.surfaces.entries.drop 1).flatMap (·.pages)).length
    exec (.queryPool p) s = .next (s.answered p f rest .ok (.pool
      { free := s.surfaces.freeList.length, reserved := 64, allocated := allocated
        quarantined := s.surfaces.quarantined.length, portA := s.surfaces.portA, portB := s.surfaces.portB
        posters := s.surfaces.posters, bad := s.errors.bad.length }))
    ∧ (PoolWhole s →
        s.surfaces.freeList.length + 64 + allocated + s.surfaces.quarantined.length = 16384 ∧ s.errors.bad.length ≤ 64)

/-! ## Layers -/

/-- SET LAYER accepted (R30 to R33): the pending copy of the record is replaced by the fields given, with the crop clamped
against a surface source; CLAMPED if the crop changed or a scale step is out of its limits. Where the old pending copy
named no POSTER surface nothing else changes. A POSTER surface that no copy names any more, and on which no port counts, is
unpinned (R36, R114): it joins the idle list, or drains while held, or is given back from the stale list, with the sources
of R29. The source byte after a stream number, which Section 10.8 gives as 0, is ignored whatever it holds (DEDUCED, log 16). -/
def Obligations.SetLayerTaken : Prop :=
  ∀ (s : State) (p : Port) (f : Frame) (rest : List Frame) (src : Source) (r : LayerRecord),
    let b := f.payload
    let id := u8 b 0
    let c := layerCopyOf b src
    Takes s p .setLayer f rest → layerIdOf p id → s.layers[id]? = some r → layerFieldsInRange b →
    LayerSource b src → s.maySource p src →
    (∀ o, c.output = some o → s.outputEnabled o = true) →
    (∀ o, c.output = some o → layerCount (s.layers.set id { r with pending := c }) o ≤ 12) →
    let crop : Crop := match src with
      | .surface h => match s.resolve h with
        | some x => c.crop.within x.width x.height
        | none => c.crop
      | _ => c.crop
    let c' : LayerCopy := { c with crop := crop }
    let out (n d : Nat) : Bool := n * 65536 / d < 8192 || 262144 < n * 65536 / d
    let stepClamp : Bool := match src with | .none => false | _ => out crop.cw c.dw || out crop.ch c.dh
    let cropClamp : Bool := crop != c.crop
    ∃ t, exec (.setLayer p) s = .next t
      ∧ t = { s.answered p f rest (if cropClamp || stepClamp then .clamped else .ok) (.layer crop cropClamp stepClamp) with
              surfaces := t.surfaces, layers := t.layers, cache := t.cache }
      ∧ ((∀ h x, r.pending.source = .surface h → s.resolve h = some x → x.kind ≠ .poster) →
          t.surfaces = s.surfaces ∧ t.cache = s.cache ∧ t.layers = s.layers.set id { r with pending := c' })
      ∧ s.Renamed t id r c'
      ∧ t.layers.length = s.layers.length
      ∧ ∀ (j : Nat) (q : LayerRecord), s.layers[j]? = some q → ∃ q', t.layers[j]? = some q' ∧ q.active.agrees q'.active
          ∧ (if j = id then c' else q.pending).agrees q'.pending

/-- SET LAYER refused (R30, R31, R32), with the first check that fails and nothing changed but the port. -/
def Obligations.SetLayerRefused : Prop :=
  ∀ (s : State) (p : Port) (f : Frame) (rest : List Frame), Takes s p .setLayer f rest →
    let b := f.payload
    let id := u8 b 0
    let refused (st : Status) : Prop := exec (.setLayer p) s = .next (s.answered p f rest st .none)
    let enabled : Prop := ∀ o, (layerCopyOf b .none).output = some o → s.outputEnabled o = true
    (¬ layerIdOf p id → refused .notOwner)
    ∧ (layerIdOf p id → ¬ layerFieldsInRange b → refused .badGeometry)
    ∧ (layerIdOf p id → layerFieldsInRange b → ¬ enabled → refused .noOutput)
    ∧ (layerIdOf p id → layerFieldsInRange b → enabled →
        (u8 b 3 = 1 → s.resolve ⟨u8 b 4, b.getD 5 0⟩ = none → refused .badHandle)
        ∧ (u8 b 3 = 1 → ∀ x, s.resolve ⟨u8 b 4, b.getD 5 0⟩ = some x →
            (x.kind = .port ∧ x.owner ≠ accountOf p) ∨ (x.kind = .poster ∧ x.refs.get p = 0) → refused .notOwner)
        ∧ (u8 b 3 = 2 → 2 ≤ u8 b 4 → refused .badHandle)
        ∧ (∀ i, u8 b 3 = 2 → u8 b 4 = streamNum i → (s.streams.get i).state = .idleClosed → refused .wrongState)
        ∧ ∀ src r o, LayerSource b src → s.maySource p src → s.layers[id]? = some r →
            (layerCopyOf b src).output = some o →
            12 < layerCount (s.layers.set id { r with pending := layerCopyOf b src }) o → refused .outputFull)

/-- CLEAR LAYER (R34): NOT_OWNER for a record that is not the port's; otherwise the pending copy's output becomes none
and its other fields stay, no active copy changes, and the command completes with OK. A POSTER surface that no copy names
any more, and on which no port counts, is unpinned (R36, R114): it joins the idle list, or drains while held, or is given
back from the stale list, with the sources of R29. -/
def Obligations.ClearLayerTaken : Prop :=
  ∀ (s : State) (p : Port) (f : Frame) (rest : List Frame) (id : Byte), Takes s p .clearLayer f rest → f.payload = [id] →
    (¬ layerIdOf p id.toNat → exec (.clearLayer p) s = .next (s.answered p f rest .notOwner .none))
    ∧ ∀ r, layerIdOf p id.toNat → s.layers[id.toNat]? = some r →
        let c' : LayerCopy := { r.pending with output := none }
        ∃ t, exec (.clearLayer p) s = .next t
          ∧ t = { s.answered p f rest .ok .none with surfaces := t.surfaces, layers := t.layers, cache := t.cache }
          ∧ ((∀ h x, r.pending.source = .surface h → s.resolve h = some x → x.kind ≠ .poster) →
              t.surfaces = s.surfaces ∧ t.cache = s.cache ∧ t.layers = s.layers.set id.toNat { r with pending := c' })
          ∧ s.Renamed t id.toNat r c'
          ∧ t.layers.length = s.layers.length
          ∧ ∀ (j : Nat) (q : LayerRecord), s.layers[j]? = some q → ∃ q', t.layers[j]? = some q'
              ∧ q.active.agrees q'.active ∧ (if j = id.toNat then c' else q.pending).agrees q'.pending

/-- LATCH (R37, R177): NO_OUTPUT for an output number that is not 0 or 1 or a disabled output; otherwise it joins the tail
of the output's latch list and holds an in-flight entry. -/
def Obligations.LatchTaken : Prop :=
  ∀ (s : State) (p : Port) (f : Frame) (rest : List Frame) (n : Byte), Takes s p .latch f rest → f.payload = [n] →
    ((∀ o, n.toNat = outputNum o → s.outputEnabled o = false) →
      exec (.latch p) s = .next (s.answered p f rest .noOutput .none))
    ∧ ∀ o, n.toNat = outputNum o → s.outputEnabled o = true → exec (.latch p) s = .next
        { s.dispatched p f rest with
          outputs := s.outputs.set o
            { s.outputs.get o with latches := (s.outputs.get o).latches ++ [⟨p, f.tag⟩] } }

/-! ## Outputs and lines -/

/-- SET PANEL (R79, R80, R81, Table 4-4): BAD_COMMAND for a wish code other than 0, 1 and 3, then NO_OUTPUT for an output
that is not enabled; otherwise the wish is replaced and the result gives both wishes, the target and the panel state. An
ASLEEP output whose target changes to ACTIVE or BLANKED starts its timing in WAKING or BLANKED; any other keeps its state. -/
def Obligations.SetPanelTaken : Prop :=
  ∀ (s : State) (p : Port) (f : Frame) (rest : List Frame) (n w : Byte), Takes s p .setPanel f rest →
    f.payload = [n, w] →
    (w.toNat ≠ 0 → w.toNat ≠ 1 → w.toNat ≠ 3 →
      exec (.setPanel p) s = .next (s.answered p f rest .badCommand .none))
    ∧ ∀ wish : Wish, w.toNat = (match wish with | .active => 0 | .blanked => 1 | .asleep => 3) →
        ((∀ o, n.toNat = outputNum o → s.outputEnabled o = false) →
          exec (.setPanel p) s = .next (s.answered p f rest .noOutput .none))
        ∧ ∀ o, n.toNat = outputNum o → s.outputEnabled o = true →
            let q := s.outputs.get o
            let other := q.wishes.get p.other
            let new := q.wishes.set p (some wish)
            let target : Wish :=
              if wish = .active ∨ other = some .active then .active
              else if wish = .blanked ∨ other = some .blanked then .blanked else .asleep
            (q.panel ≠ .asleep ∨ target = .asleep ∨ target = panelTarget q.wishes → exec (.setPanel p) s = .next
              { s.answered p f rest .ok (.panel o (some wish) other target q.panel q.forcedBlank) with
                outputs := s.outputs.set o { q with wishes := new } })
            ∧ (q.panel = .asleep → target ≠ .asleep → target ≠ panelTarget q.wishes →
                let panel : PanelState := if target = .active then .waking else .blanked
                ∃ t, exec (.setPanel p) s = .next t
                  ∧ t = { s with
                          ports := t.ports, counters := { s.counters with port := t.counters.port }
                          outputs := s.outputs.set o
                            { q with wishes := new, panel := panel, running := true, leadIn := true, fieldCount := 0
                                     acc := 0, pen := true, nextLine := 0, work := none, ahead := [], line := [] } }
                  ∧ (s.ports.get p).completed (t.ports.get p) rest (.completion f.tag f.code .ok none
                      (.panel o (some wish) other target panel q.forcedBlank))
                  ∧ (s.ports.get p.other).noticed (t.ports.get p.other)
                  ∧ ((s.ports.get p.other).hears 2 1 →
                      (t.ports.get p.other).notices.getLast? = some (.panelState o panel q.forcedBlank 0)))

/-- FIELD START at an output whose timing runs (R75 to R77, R82 to R84, R41, R43, R44): the field count, the fields
counter and the accumulator; the panel state of Table 4-5 with its notice; the FIELD START notice; the latch list and the
internal latches are emptied; the sets are formed, empty unless the field begins ACTIVE and not under FORCED BLANK, each
record with its frozen copy, resolved source and steps (R42, R50, R52); entry into ASLEEP stops the timing. At the new hold
sets a RETIRING surface no longer held becomes FREE (R17), a draining poster found unheld joins the idle list (R115), and a
teardown that has nothing left to wait for ends (R169, R171). The other output is unchanged. The model's choices: pixels not
driven yet and an unfinished line are dropped (log 33); a RESETTING port whose line is asserted again stays so (log 37). -/
def Obligations.FieldStartTaken : Prop :=
  ∀ (s : State) (o : OutputId), s.startUp.resetPin = false → s.outputEnabled o = true →
    (s.outputs.get o).running = true → ∃ t, exec (.fieldStart o) s = .next t ∧
    let q := s.outputs.get o
    let r := t.outputs.get o
    let k := s.counters.output.get o
    let count := q.fieldCount + 1
    let target := panelTarget q.wishes
    let panel : PanelState :=
      if target = .asleep then .asleep
      else if target = .blanked then .blanked
      else if q.panel = .waking ∧ count.toNat ≤ q.timing.wakeFields then .waking else .active
    t = { s with
          surfaces := t.surfaces, layers := t.layers, outputs := s.outputs.set o r, streams := t.streams, cache := t.cache
          ports := t.ports
          counters := { s.counters with
            output := s.counters.output.set o { k with fields := satSucc k.fields }
            stream := t.counters.stream, port := t.counters.port } }
    ∧ r = { q with
            running := panel != .asleep, leadIn := false, fieldCount := count
            acc := (q.acc + 90000 * q.timing.htotal * q.timing.vtotal) % (q.timing.pixelKHz * 1000)
            panel := panel, pen := if panel = .asleep then false else q.pen, latches := [], internal := ⟨false, false⟩
            layers := r.layers, holdSet := r.holdSet, nextLine := 0, work := none, ahead := [], line := [] }
    ∧ (panel ≠ .active ∨ q.forcedBlank = true → r.layers = [] ∧ r.holdSet = [])
    ∧ (panel = .active → q.forcedBlank = false →
        r.layers.map (·.id) = (List.range t.layers.length).filter (fun id =>
          match t.layers[id]? with
          | some l => l.active.output == some o && l.active.visible && decide (0 < l.active.alpha)
          | none => false)
        ∧ (s.surfaces.entries.length = 160 → (∀ i, (s.streams.get i).state ≠ .closing) →
            ∀ l ∈ r.layers, ∀ x, t.layers[l.id]? = some x → t.Froze x.active l))
    ∧ (s.surfaces.entries.length = 160 →
        ∀ i, i ∈ r.holdSet ↔ ∃ l ∈ r.layers, ∃ x, l.source = some x ∧ x.surface = i)
    ∧ r.holdSet.Pairwise (· < ·)
    ∧ ∀ p,
        ((s.ports.get p).hears (outputNum o) 2 → Notice.fieldStart o count ∈ (t.ports.get p).notices)
        ∧ (panel ≠ q.panel → (s.ports.get p).hears 2 1 →
            Notice.panelState o panel q.forcedBlank count ∈ (t.ports.get p).notices)
    ∧ s.SetsTested t
    ∧ (∀ i e x, i < 160 → s.surfaces.entries[i]? = some e → e.body = some x → x.state = .retiring → x.kind ≠ .fallback →
        t.drawn i → ∃ y, t.surfaces.entries[i]? = some ⟨e.gen, some y⟩ ∧ y = { x with attached := y.attached })
    ∧ t.cache = { s.cache with idle := t.cache.idle, stale := t.cache.stale }
    ∧ s.cache.idle <+: t.cache.idle ∧ t.cache.stale.Sublist s.cache.stale
    ∧ ∀ p, s.TeardownEnds t p

/-- A field start takes the latches due on its output (R37, R38, R46, R177): every record of a port with a LATCH on the
list, or an internal latch, takes its pending copy into its active copy if either names the output; no other active copy
and no pending copy changes (but for a source that R29 sets to none); each LATCH completes with the output and the field
count and frees its in-flight entry. -/
def Obligations.FieldStartTakesLatches : Prop :=
  ∀ (s : State) (o : OutputId), s.startUp.resetPin = false → s.outputEnabled o = true →
    (s.outputs.get o).running = true → ∃ t, exec (.fieldStart o) s = .next t ∧
    let q := s.outputs.get o
    let due (p : Port) : Prop := q.internal.get p = true ∨ ∃ e ∈ q.latches, e.port = p
    t.layers.length = s.layers.length
    ∧ (∀ (id : Nat) (r : LayerRecord), s.layers[id]? = some r → ∃ r', t.layers[id]? = some r'
        ∧ r.pending.agrees r'.pending
        ∧ ((∃ p, layerIdOf p id ∧ due p) → r.active.output = some o ∨ r.pending.output = some o →
            r.pending.agrees r'.active)
        ∧ ((¬ ∃ p, layerIdOf p id ∧ due p) ∨ (r.active.output ≠ some o ∧ r.pending.output ≠ some o) →
            r.active.agrees r'.active))
    ∧ (∀ e ∈ q.latches, (s.ports.get e.port).status ≠ .resetting →
        Notice.completion e.tag 0x22 .ok none (.latch o (q.fieldCount + 1)) ∈ (t.ports.get e.port).notices)
    ∧ ∀ p, (s.ports.get p).status = .attached → (∀ i, (s.streams.get i).state ≠ .closing) →
        (t.ports.get p).inFlight = (q.latches.filter (fun e => e.port = p)).foldl
          (fun es e => es.erase ⟨0x22, e.tag⟩) (s.ports.get p).inFlight
        ∧ (t.ports.get p).owed = (s.ports.get p).owed - (q.latches.filter (fun e => e.port = p)).length

/-- The stream block's work at a field start (R87, R95, R98, R99, R100, R101, R106): a PRIMED stream of the output takes its
start stamp as clock and is RUNNING, a RUNNING one adds the field advance, a PAUSED one keeps its clock; the run of ready
frames at or before the clock gives the new current slot, the others and the old current slot leave; the four counters rise
by Table 5-4. A RELEASING slot in no hold set once the field's sets are formed becomes EMPTY, with SLOT FREED; a CLOSING
stream whose slots are then all EMPTY is cleared but for its clock, its surfaces are detached, and its CLOSE STREAM
completes. Otherwise a stream keeps its record. -/
def Obligations.StreamSelection : Prop :=
  ∀ (s : State) (o : OutputId) (i : StreamId), s.startUp.resetPin = false → s.outputEnabled o = true →
    (s.outputs.get o).running = true → ∃ t, exec (.fieldStart o) s = .next t ∧
    let q := s.outputs.get o
    let r := s.streams.get i
    let r' := t.streams.get i
    let k := s.counters.stream.get i
    let advance := (q.acc + 90000 * q.timing.htotal * q.timing.vtotal) / (q.timing.pixelKHz * 1000)
    let selects : Prop := r.clockOutput = some o ∧ (r.state = .primed ∨ r.state = .running ∨ r.state = .paused)
    let clock : Word32 :=
      if r.state = .primed then r.startStamp.getD r.clock
      else if r.state = .running then r.clock + BitVec.ofNat 32 advance else r.clock
    let stamp (k : Nat) : Option Word32 := (r.slots[k]?).bind (·.stamp)
    let due (k : Nat) : Bool := match stamp k with
      | some x => (clock - x).toNat < 2147483648
      | none => false
    let run := r.ready.takeWhile due
    let freed (j : Nat) : Prop := ∀ p, r.owner = some p → s.told t p (.slotFreed i j)
    let emptied (x : Slot) : Slot := { x with state := .empty, stamp := none }
    (¬ selects → t.counters.stream.get i = k ∧ s.StreamTested t i)
    ∧ (selects →
        r' = { r with
               state := if r.state = .primed then .running else r.state
               startStamp := if r.state = .primed then none else r.startStamp
               clock := clock, current := run.getLast?.or r.current, ready := r.ready.drop run.length, slots := r'.slots }
        ∧ r'.slots.map (·.surface) = r.slots.map (·.surface)
        ∧ t.counters.stream.get i =
          { shown := if run = [] then k.shown else satSucc k.shown
            dropped := satAdd k.dropped (run.length - 1)
            repeated := if run = [] ∧ r.current ≠ none then satSucc k.repeated else k.repeated
            starved := if r.ready = [] then satSucc k.starved else k.starved }
        ∧ ((r.ready ++ r.current.toList).Nodup →
            (∀ (j : Nat) (x : Slot), run.getLast? = some j → r.slots[j]? = some x →
              r'.slots[j]? = some { x with state := .current })
            ∧ (∀ (j : Nat) (x : Slot), j ∈ run.dropLast ∨ (run ≠ [] ∧ r.current = some j) → r.slots[j]? = some x →
                (s.drawn x.surface.index → t.drawn x.surface.index →
                  r'.slots[j]? = some { x with state := .releasing, stamp := none })
                ∧ (¬ s.drawn x.surface.index ∨ ¬ t.drawn x.surface.index → r'.slots[j]? = some (emptied x) ∧ freed j))
            ∧ ∀ (j : Nat) (x : Slot), j ∉ run → (run = [] ∨ r.current ≠ some j) → r.slots[j]? = some x →
                s.SlotTested t i r'.slots j x))

/-- The accumulator of field advances (R77): over `k` field starts from the timing's start the advances of an enabled
output sum to floor(k × N / D), each is floor(N / D) or one more and at least 24, and the accumulator stays below D. -/
def Obligations.FieldAdvanceSum : Prop :=
  ∀ (q : OutputState) (st : PanelState) (k : Nat), q.timing.enabled = true →
    let at' (j : Nat) : OutputState := Nat.iterate OutputState.advance j (q.start st)
    let n := 90000 * q.timing.htotal * q.timing.vtotal
    let d := q.timing.pixelKHz * 1000
    ((List.range k).map (fun j => (at' j).fieldAdvance)).sum = k * n / d
    ∧ (at' k).acc < d ∧ (at' k).fieldCount = BitVec.ofNat 32 k
    ∧ n / d ≤ (at' k).fieldAdvance ∧ (at' k).fieldAdvance ≤ n / d + 1 ∧ 24 ≤ (at' k).fieldAdvance
    ∧ n ≤ 6039797760000 ∧ d ≤ 300000000

/-- mul255 and the widening of an RGB565 sample (R57, R59): the formula of mul255, its nearest rounding, its bounds and
its laws, and its use in the A8 expansion, the layer alpha and the blend. Beside them the pixel a record gives to a column:
where the bytes of a sample lie and which byte counts, that of the burst read or of frame memory; when a sample is
substituted; the four expansions; the filters NEAREST and BILINEAR; transparent and uncovered columns leave the line (R10,
R53 to R56, R58, R60 to R63, R65, R66). Which byte counts rests on the model's choices: a burst comes with its result, and one
that no result names is good (log 13); it is read once for a record and a row, and what it gave stands (log 33). -/
def Obligations.PixelArithmetic : Prop :=
  (∀ x y : Nat, x ≤ 255 → y ≤ 255 →
    mul255 x y = (x * y + 128 + (x * y + 128) / 256) / 256
    ∧ x * y ≤ 255 * mul255 x y + 127 ∧ 255 * mul255 x y ≤ x * y + 127 ∧ mul255 x y ≤ 255
    ∧ mul255 x 255 = x ∧ mul255 x 0 = 0 ∧ mul255 x y = mul255 y x)
  ∧ (∀ (fill : Rgb) (a : Nat), expandA8 fill a = ⟨a, mul255 fill.r a, mul255 fill.g a, mul255 fill.b a⟩)
  ∧ (∀ (s : State) (fs : List Fetched) (x : Nat) (dst : Rgb) (c : Cover) (pix : Sample),
      let i := ((x : Int) - c.copy.dx).toNat
      c.copy.dx ≤ x → c.i0 ≤ i → i ≤ c.i1 → s.layerPixel fs c i = some pix →
      let g (k : Nat) : Nat := mul255 k c.copy.alpha
      let blend (src dst : Nat) : Nat := min 255 (src + mul255 dst (255 - g pix.a))
      s.applyCover fs x dst c = ⟨blend (g pix.r) dst.r, blend (g pix.g) dst.g, blend (g pix.b) dst.b⟩)
  ∧ (∀ r5 g6 b5 : Nat, r5 ≤ 31 → g6 ≤ 63 → b5 ≤ 31 →
      expand565 (r5 * 2048 + g6 * 32 + b5) = ⟨255, r5 * 8 + r5 / 4, g6 * 4 + g6 / 16, b5 * 8 + b5 / 4⟩
      ∧ r5 * 8 + r5 / 4 ≤ 255 ∧ g6 * 4 + g6 / 16 ≤ 255 ∧ b5 * 8 + b5 / 4 ≤ 255)
  ∧ expand565 0 = ⟨255, 0, 0, 0⟩ ∧ expand565 0xFFFF = ⟨255, 255, 255, 255⟩ ∧ (expand565 (16 * 2048)).r = 132
  ∧ (∀ (s : State) (fs : List Fetched) (c : Cover) (x y : Nat),
      let page (off : Nat) : Nat := c.src.pages.getD (off / 4096) 0
      let burst (off : Nat) : Option Fetched :=
        fs.find? (fun f => f.id == c.id && f.row == y && f.burst == ⟨page off, off % 4096 / 32 * 32⟩)
      let n := y * c.src.width + x
      let plane := c.src.width * c.src.height
      let chroma := y / 2 * (c.src.width / 2) + x / 2
      let places : List Nat := match c.src.format with
        | .pa8888 => [4 * n, 4 * n + 1, 4 * n + 2, 4 * n + 3]
        | .rgb565 => [2 * n, 2 * n + 1]
        | .a8 => [n]
        | .yc420 => [n, plane + chroma, plane + c.src.width / 2 * (c.src.height / 2) + chroma]
      let byte (off : Nat) : Nat := (match (burst off).bind (·.data) with
        | some bs => bs.getD (off % 32) 0
        | none => s.frame.read Config.frameBlank (page off * 4096 + off % 4096)).toNat
      let lost : Prop := ∃ off ∈ places,
        (∃ f, burst off = some f ∧ f.data = none) ∨ (burst off = none ∧ page off ∈ s.errors.bad)
      let at' (k : Nat) : Nat := byte (places.getD k 0)
      let limit (k : Int) : Nat := (max 0 (min 255 k)).toNat
      let luma : Int := 298 * ((at' 0 : Int) - 16)
      let cb : Int := (at' 1 : Int) - 128
      let cr : Int := (at' 2 : Int) - 128
      let word := at' 0 + 256 * at' 1
      let fill := c.copy.fill
      let damage := s.startUp.damageColour
      (lost → s.sampleAt fs c x y = ⟨255, damage.r, damage.g, damage.b⟩)
      ∧ (¬ lost → s.sampleAt fs c x y = match c.src.format with
          | .pa8888 => ⟨at' 0, at' 1, at' 2, at' 3⟩
          | .rgb565 => expand565 word
          | .a8 => ⟨at' 0, mul255 fill.r (at' 0), mul255 fill.g (at' 0), mul255 fill.b (at' 0)⟩
          | .yc420 => ⟨255, limit ((luma + 409 * cr + 128) / 256), limit ((luma - 100 * cb - 208 * cr + 128) / 256),
              limit ((luma + 516 * cb + 128) / 256)⟩))
  ∧ (∀ (s : State) (fs : List Fetched) (c : Cover) (i : Nat),
      let crop := c.copy.crop
      let u := i * c.src.sx
      let p := u / 65536
      let f := u % 65536 / 256
      let sample (k row : Nat) : Sample := s.sampleAt fs c (crop.cx + k) row
      let mix (w : Nat) (x y : Sample) : Sample :=
        let one (m n : Nat) : Nat := (m * (256 - w) + n * w + 128) / 256
        ⟨one x.a y.a, one x.r y.r, one x.g y.g, one x.b y.b⟩
      let across (row : Nat) : Sample := mix f (sample p row) (sample (min (p + 1) (crop.cw - 1)) row)
      (crop.cw ≤ p → s.layerPixel fs c i = none)
      ∧ (p < crop.cw → c.copy.filter = .nearest → s.layerPixel fs c i = some (sample p (crop.cy + c.q)))
      ∧ (p < crop.cw → c.copy.filter = .bilinear → s.layerPixel fs c i =
          some (mix c.g (across (crop.cy + c.q)) (across (crop.cy + min (c.q + 1) (crop.ch - 1))))))
  ∧ ∀ (s : State) (fs : List Fetched) (x : Nat) (dst : Rgb) (c : Cover),
      let i := ((x : Int) - c.copy.dx).toNat
      (x : Int) < c.copy.dx ∨ i < c.i0 ∨ c.i1 < i ∨ s.layerPixel fs c i = none → s.applyCover fs x dst c = dst

/-- The line budget (R51, R52, R68, R69, R70): which records cover a line, and with which columns and rows; the cost of one by
Table 3-2, between 1 and 65,536 for a crop of a surface. The covering records are considered ESSENTIAL first, then by falling
z and falling layer id; each is kept if its cost still fits the budget and shed otherwise, the ones after a shed one
included; the kept ones cost at most the budget. -/
def Obligations.LineBudgetRule : Prop :=
  (∀ (ls : List FieldLayer) (w y : Nat) (c : Cover), c ∈ covers ls w y ↔ ∃ l ∈ ls, l.Covers w y c)
  ∧ (∀ (l : FieldLayer) (w y : Nat) (c c' : Cover), l.Covers w y c → l.Covers w y c' → c' = c)
  ∧ (∀ (ls : List FieldLayer) (w y : Nat), ∀ c ∈ covers ls w y,
      let span := c.last - c.first + 1
      let row := match c.src.format with
        | .pa8888 => span * 4
        | .rgb565 => span * 2
        | .a8 => span
        | .yc420 => span + 2 * ((span + 1) / 2)
      c.first ≤ c.last ∧ c.cost = row * (if c.copy.filter = .bilinear then 2 else 1)
      ∧ 0 < c.cost ∧ (c.copy.crop.cw ≤ 4096 → c.cost ≤ 65536))
  ∧ ∀ (ls : List FieldLayer) (w y budget : Nat), ∃ order : List Cover,
      order.Perm (covers ls w y)
      ∧ order.Pairwise (fun a b =>
          (a.copy.cls = .essential ∧ b.copy.cls = .decorative)
          ∨ (a.copy.cls = b.copy.cls ∧ (b.copy.z < a.copy.z ∨ (b.copy.z = a.copy.z ∧ b.id ≤ a.id))))
      ∧ keptOn ls w y budget = keepWithin budget 0 order
      ∧ (keptOn ls w y budget).1.Sublist order
      ∧ (keptOn ls w y budget).1.length + (keptOn ls w y budget).2 = order.length
      ∧ ((keptOn ls w y budget).1.map (·.cost)).sum ≤ budget
      ∧ ∀ (before after : List Cover) (c : Cover), order = before ++ c :: after →
          let kept := (keepWithin budget 0 before).1
          (keepWithin budget 0 (before ++ [c])).1 =
            if (kept.map (·.cost)).sum + c.cost ≤ budget then kept ++ [c] else kept

/-- COMPOSE LINE (R48, R49, R62 to R64, R66, R67, R71, R72), a whole line or a part of one, as its sender says (log 33; the
occasion and its order logs 2, 11): bursts are read, each once for a record and a row, from frame memory as it stands, their
data unused where the page is bad or the result uncorrectable (log 13); then further columns are composed, each from the
background, with the kept records blended from the bottom of the stacking order to its top, by z and then by layer id; a
column under no kept record shows the background. The shed counter rises by the records shed as the line begins, the damage
counter by the substituted samples; with an empty field layer set the pixels are background and no counter moves. Composed
pixels are driven in their order. Nothing else changes. -/
def Obligations.ComposeLineTaken : Prop :=
  ∀ (s : State) (o : OutputId) (part : LinePart), s.startUp.resetPin = false → s.outputEnabled o = true →
    let q := s.outputs.get o
    let k := s.counters.output.get o
    let kept := keptOn q.layers q.timing.width q.nextLine q.timing.lineBudget
    let w := q.work.getD ⟨[], 0⟩
    let read (r : BurstRead) : Fetched :=
      { id := r.id, row := r.row, burst := r.burst
        data := if s.errors.bad.contains r.burst.page || r.failed then none
                else some ((List.range 32).map (fun j =>
                  s.frame.read Config.frameBlank (r.burst.page * 4096 + r.burst.offset + j))) }
    let known (fs : List Fetched) (r : BurstRead) : Bool :=
      fs.any (fun f => f.id == r.id && f.row == r.row && f.burst == r.burst)
    let fs := w.fetched ++ (part.reads.filter (fun r => !known w.fetched r)).map read
    let n := min part.columns (q.timing.width - w.columns)
    let row := if q.line.length < q.timing.width then q.line else []
    let d := min part.drive (q.timing.width - row.length)
    let drives (ahead : List Rgb) (r : OutputState) : Prop :=
      (d = 0 ∨ ahead = [] → r.line = q.line ∧ r.ahead = ahead)
      ∧ (d ≠ 0 → ahead ≠ [] → r.line = row ++ ahead.take d ∧ r.ahead = ahead.drop d)
    (q.running = false → exec (.composeLine o part) s = .next s)
    ∧ (q.running = true → q.timing.height ≤ q.nextLine ∨ (part.reads = [] ∧ part.columns = 0) → ∃ r,
        exec (.composeLine o part) s = .next { s with outputs := s.outputs.set o { q with line := r.line, ahead := r.ahead } }
        ∧ drives q.ahead r)
    ∧ (q.running = true → q.nextLine < q.timing.height → part.reads ≠ [] ∨ part.columns ≠ 0 →
      ∃ (t : State) (stack : List Cover) (pixels : List Rgb), exec (.composeLine o part) s = .next t ∧
      let r := t.outputs.get o
      let ends : Prop := q.timing.width ≤ w.columns + part.columns
      let damage := (t.counters.output.get o).damage
      t = { s with
            outputs := s.outputs.set o
              { q with nextLine := r.nextLine, work := r.work, ahead := r.ahead, line := r.line }
            counters := { s.counters with
              output := s.counters.output.set o
                { k with shed := satAdd k.shed (if q.work = none then kept.2 else 0), damage := damage } } }
      ∧ pixels.length = n ∧ drives (q.ahead ++ pixels) r
      ∧ stack.Perm kept.1
      ∧ stack.Pairwise (fun a b => a.copy.z < b.copy.z ∨ (a.copy.z = b.copy.z ∧ a.id ≤ b.id))
      ∧ (∀ j, j < n → pixels[j]? = some (stack.foldl (s.applyCover fs (w.columns + j)) q.timing.background))
      ∧ (∀ j, j < n →
          (∀ c ∈ kept.1, ((w.columns + j : Nat) : Int) < c.copy.dx ∨ c.copy.dx + c.copy.dw ≤ (w.columns + j : Nat)) →
          pixels[j]? = some q.timing.background)
      ∧ (ends → r.work = none ∧ r.nextLine = q.nextLine + 1
          ∧ damage = satAdd k.damage ((kept.1.map (s.damageIn fs)).sum - lostSamples kept.1 w.fetched))
      ∧ (¬ ends → r.nextLine = q.nextLine ∧ ∃ more : List BurstRead,
          let fs' := fs ++ more.map read
          r.work = some ⟨fs', w.columns + part.columns⟩ ∧ (∀ x ∈ more, x.failed = false)
          ∧ (∀ c ∈ kept.1, ∀ x ∈ c.needs (List.range' w.columns n), known fs' x = true)
          ∧ damage = satAdd k.damage (lostSamples kept.1 fs' - lostSamples kept.1 w.fetched))
      ∧ (q.work = none → lostSamples kept.1 w.fetched = 0)
      ∧ ((∀ f ∈ fs, f.data ≠ none) → s.errors.bad = [] → damage = k.damage)
      ∧ (q.layers = [] → pixels = List.replicate n q.timing.background ∧ t.counters = s.counters))

/-! ## Streams -/

/-- OPEN STREAM (R91, R92): each check in its order, a refusal of a handle with its position, counted from 0 (the model's
choice, log 39), and nothing else changed; an
accepted one sets the record, attaches each slot surface with its index, offers STREAM STATE and reports the stream. -/
def Obligations.OpenStreamTaken : Prop :=
  ∀ (s : State) (p : Port) (f : Frame) (rest : List Frame), Takes s p .openStream f rest →
    let b := f.payload
    let n := u8 b 2
    let refused (st : Status) (res : Result) : Prop := exec (.openStream p) s = .next (s.answered p f rest st res)
    let h (k : Nat) : Handle := ⟨u8 b (3 + 2 * k), b.getD (4 + 2 * k) 0⟩
    let good (k : Nat) : Prop := ∃ x, s.resolve (h k) = some x ∧ x.kind = .port ∧ x.owner = accountOf p
      ∧ x.state ≠ .retiring ∧ x.attached = none ∧ ∀ j < k, (h j).index ≠ (h k).index
    let same (x y : Surface) : Prop := y.width = x.width ∧ y.height = x.height ∧ y.format = x.format
    (n < 2 ∨ 6 < n ∨ b.length ≠ 3 + 2 * n → refused .badCommand .none)
    ∧ (2 ≤ n → n ≤ 6 → b.length = 3 + 2 * n →
      (2 ≤ u8 b 0 → refused .badHandle .none)
      ∧ ∀ i, u8 b 0 = streamNum i →
        ((s.streams.get i).state ≠ .idleClosed → refused .busy .none)
        ∧ ((s.streams.get i).state = .idleClosed →
          ((∀ o, u8 b 1 = outputNum o → s.outputEnabled o = false) → refused .noOutput .none)
          ∧ ∀ o, u8 b 1 = outputNum o → s.outputEnabled o = true →
            (∀ k < n, (∀ j < k, good j) →
              (s.resolve (h k) = none → refused .badHandle (.position k))
              ∧ ∀ x, s.resolve (h k) = some x →
                (x.kind ≠ .port ∨ x.owner ≠ accountOf p → refused .notOwner (.position k))
                ∧ (x.kind = .port → x.owner = accountOf p → x.state = .retiring → refused .wrongState (.position k))
                ∧ (x.kind = .port → x.owner = accountOf p → x.state ≠ .retiring →
                    x.attached ≠ none ∨ (∃ j < k, (h j).index = (h k).index) → refused .attached (.position k)))
            ∧ ((∀ k < n, good k) → ∀ x, s.resolve (h 0) = some x →
              (x.format = .a8 ∨ (∃ k < n, ∃ y, s.resolve (h k) = some y ∧ ¬ same x y) → refused .badGeometry .none)
              ∧ (x.format ≠ .a8 → (∀ k < n, ∀ y, s.resolve (h k) = some y → same x y) →
                ∃ t, exec (.openStream p) s = .next t
                  ∧ t = { s with
                          surfaces := { s.surfaces with entries := t.surfaces.entries }
                          streams := s.streams.set i
                            { state := .opened, owner := some p, clockOutput := some o
                              slots := (List.range n).map (fun k => { surface := h k, state := .empty, stamp := none })
                              current := none, ready := [], clock := 0, startStamp := none, lastStamp := none
                              closeTag := none }
                          ports := t.ports, counters := { s.counters with port := t.counters.port } }
                  ∧ (∀ k < n, ∀ y, s.resolve (h k) = some y →
                      t.resolve (h k) = some { y with attached := some (i, k) })
                  ∧ (∀ j, (∀ k < n, (h k).index ≠ j) → t.surfaces.entries[j]? = s.surfaces.entries[j]?)
                  ∧ (s.ports.get p).completed (t.ports.get p) rest (.completion f.tag f.code .ok none (.stream
                      { stream := i, state := .opened, owner := some p, clockOutput := some o
                        slots := List.replicate n .empty, readyLength := 0, clock := 0 }))
                  ∧ (s.ports.get p.other).noticed (t.ports.get p.other)
                  ∧ ((s.ports.get p.other).hears 4 1 → (t.ports.get p.other).notices.getLast? =
                      some (.streamState i .opened (some p) (some o) 0))))))

/-- The checks of R93 for the six commands on an open stream; and START STREAM, PAUSE STREAM and RESUME STREAM (R94,
R103): WRONG_STATE in any state but OPEN, RUNNING and PAUSED in turn; otherwise the new state, and for START the start
stamp, STREAM STATE and the stream report, with nothing else changed. -/
def Obligations.StreamShiftsTaken : Prop :=
  (∀ (s : State) (p : Port) (c : Cmd) (f : Frame) (rest : List Frame),
    c ∈ [Cmd.startStream, .frameReady, .pauseStream, .resumeStream, .stopStream, .closeStream] → Takes s p c f rest →
    let refused (st : Status) : Prop := exec (c.instr p) s = .next (s.answered p f rest st .none)
    (2 ≤ u8 f.payload 0 → refused .badHandle)
    ∧ ∀ i, u8 f.payload 0 = streamNum i →
        ((s.streams.get i).state = .idleClosed → refused .wrongState)
        ∧ ((s.streams.get i).state ≠ .idleClosed → (s.streams.get i).owner ≠ some p → refused .notOwner))
  ∧ ∀ (s : State) (p : Port) (f : Frame) (rest : List Frame) (i : StreamId),
    let r := s.streams.get i
    let shift (c : Cmd) (held : StreamState) (r' : StreamRecord) : Prop :=
      Takes s p c f rest →
      (r.state ≠ held → exec (c.instr p) s = .next (s.answered p f rest .wrongState .none))
      ∧ (r.state = held → ∃ t, exec (c.instr p) s = .next t
          ∧ t = { s with
                  streams := s.streams.set i r', ports := t.ports
                  counters := { s.counters with port := t.counters.port } }
          ∧ (s.ports.get p).completed (t.ports.get p) rest (.completion f.tag f.code .ok none (.stream
              { stream := i, state := r'.state, owner := some p, clockOutput := r.clockOutput
                slots := r.slots.map (·.state), readyLength := r.ready.length, clock := r.clock }))
          ∧ (s.ports.get p.other).noticed (t.ports.get p.other)
          ∧ ((s.ports.get p.other).hears 4 1 → (t.ports.get p.other).notices.getLast? =
              some (.streamState i r'.state (some p) r.clockOutput r.clock)))
    r.state ≠ .idleClosed → r.owner = some p →
    (∀ x : Word32, f.payload = b8 (streamNum i) ++ b32 x.toNat →
      shift .startStream .opened { r with state := .primed, startStamp := some x })
    ∧ (f.payload = b8 (streamNum i) →
        shift .pauseStream .running { r with state := .paused }
        ∧ shift .resumeStream .paused { r with state := .running })

/-- FRAME READY (R96, R97): after R93, WRONG_STATE while CLOSING, BAD_HANDLE, SLOT_BUSY and STAMP_ORDER in turn; an
accepted one makes the slot READY with its stamp, at the tail of the ready list, and reports the stream. -/
def Obligations.FrameReadyTaken : Prop :=
  ∀ (s : State) (p : Port) (f : Frame) (rest : List Frame) (i : StreamId) (k : Byte) (x : Word32),
    Takes s p .frameReady f rest → f.payload = b8 (streamNum i) ++ [k] ++ b32 x.toNat →
    let r := s.streams.get i
    let refused (st : Status) : Prop := exec (.frameReady p) s = .next (s.answered p f rest st .none)
    let stamp (j : Nat) : Option Word32 := (r.slots[j]?).bind (·.stamp)
    let reference : Option Word32 :=
      match r.current, r.ready with
      | some j, _ => stamp j
      | none, j :: _ => stamp j
      | none, [] => r.lastStamp
    let inWindow (x₀ last : Word32) : Prop :=
      (last - x₀).toNat < (x - x₀).toNat ∧ (x - x₀).toNat < 2147483648
    r.state ≠ .idleClosed → r.owner = some p →
    (r.state = .closing → refused .wrongState)
    ∧ (r.state ≠ .closing → r.slots.length ≤ k.toNat → refused .badHandle)
    ∧ ∀ slot, r.state ≠ .closing → r.slots[k.toNat]? = some slot →
        (slot.state ≠ .empty → refused .slotBusy)
        ∧ (slot.state = .empty →
          (∀ x₀ last, reference = some x₀ → r.lastStamp = some last → ¬ inWindow x₀ last → refused .stampOrder)
          ∧ (reference = none ∨ (∃ x₀ last, reference = some x₀ ∧ r.lastStamp = some last ∧ inWindow x₀ last) →
            let slots := r.slots.set k.toNat { slot with state := .ready, stamp := some x }
            exec (.frameReady p) s = .next
              { s.answered p f rest .ok (.stream
                  { stream := i, state := r.state, owner := some p, clockOutput := r.clockOutput
                    slots := slots.map (·.state), readyLength := r.ready.length + 1, clock := r.clock }) with
                streams := s.streams.set i
                  { r with slots := slots, ready := r.ready ++ [k.toNat], lastStamp := some x } }))

/-- STOP STREAM and CLOSE STREAM (R104, R105, R106, R89, R102): the ready and the current slots leave, RELEASING while
in a hold set and EMPTY otherwise with SLOT FREED; the stamps become absent. STOP leaves the stream OPEN and reports it.
CLOSE holds an in-flight entry; with every slot EMPTY the surfaces are detached, the record is cleared but for its clock and
the command completes, otherwise the stream is CLOSING. CLOSE of an OPEN stream removes its ready frames and its stamps too
(DEDUCED, log 32). -/
def Obligations.StopAndCloseStreamTaken : Prop :=
  ∀ (s : State) (p : Port) (f : Frame) (rest : List Frame) (i : StreamId),
    let r := s.streams.get i
    let freed (t : State) : Prop := (s.ports.get p).notices.length + (s.ports.get p).owed + r.ready.length < 32 →
      ∀ (j : Nat) (x : Slot), r.slots[j]? = some x → j ∈ r.ready ∨ r.current = some j → ¬ s.drawn x.surface.index →
        Notice.slotFreed i j ∈ (t.ports.get p).notices
    let e : InFlight := ⟨f.code, f.tag⟩
    f.payload = b8 (streamNum i) → r.state ≠ .idleClosed → r.owner = some p →
    (Takes s p .stopStream f rest →
      (r.state = .opened ∨ r.state = .closing →
        exec (.stopStream p) s = .next (s.answered p f rest .wrongState .none))
      ∧ (r.state = .primed ∨ r.state = .running ∨ r.state = .paused → ∃ t slots, exec (.stopStream p) s = .next t
        ∧ s.halted r slots ∧ freed t
        ∧ t = { s with
                streams := s.streams.set i
                  { r with state := .opened, slots := slots, current := none, ready := [], startStamp := none
                           lastStamp := none }
                ports := t.ports, counters := { s.counters with port := t.counters.port } }
        ∧ (s.ports.get p).completed (t.ports.get p) rest (.completion f.tag f.code .ok none (.stream
            { stream := i, state := .opened, owner := some p, clockOutput := r.clockOutput
              slots := slots.map (·.state), readyLength := 0, clock := r.clock }))
        ∧ (s.ports.get p.other).noticed (t.ports.get p.other)))
    ∧ (Takes s p .closeStream f rest →
      (r.state = .closing → exec (.closeStream p) s = .next (s.answered p f rest .wrongState .none))
      ∧ (r.state ≠ .closing → ∃ t slots, exec (.closeStream p) s = .next t
        ∧ s.halted r slots ∧ freed t
        ∧ t = { s with
                surfaces := t.surfaces, layers := t.layers, streams := t.streams, ports := t.ports
                counters := { s.counters with port := t.counters.port } }
        ∧ (∀ j, j ≠ i → t.streams.get j = s.streams.get j)
        ∧ (t.ports.get p).status = .attached ∧ (t.ports.get p).queue = rest
        ∧ (s.ports.get p).notices <+: (t.ports.get p).notices
        ∧ ((∀ x ∈ slots, x.state = .empty) →
            t.streams.get i = r.closed
            ∧ (∀ idx y, s.surfaceAt idx = some y → y.state ≠ .retiring →
                ((∃ x ∈ r.slots, x.surface.index = idx) → t.surfaceAt idx = some { y with attached := none })
                ∧ ((∀ x ∈ r.slots, x.surface.index ≠ idx) → t.surfaceAt idx = some y))
            ∧ (t.ports.get p).inFlight = ((s.ports.get p).inFlight ++ [e]).erase e
            ∧ (t.ports.get p).owed = (s.ports.get p).owed - 1
            ∧ Notice.completion f.tag f.code .ok none (.closed i) ∈ (t.ports.get p).notices)
        ∧ ((∃ x ∈ slots, x.state ≠ .empty) →
            t.streams.get i = { r with
              state := .closing, slots := slots, current := none, ready := [], startStamp := none, lastStamp := none
              closeTag := some f.tag }
            ∧ (∀ idx y, s.surfaceAt idx = some y → y.state ≠ .retiring → t.surfaceAt idx = some y)
            ∧ (t.ports.get p).inFlight = (s.ports.get p).inFlight ++ [e]
            ∧ (t.ports.get p).owed = (s.ports.get p).owed)))

/-! ## Posters -/

/-- LOAD POSTER (R117, R118, R119): the first case that applies. FAULT and REF_LIMIT refuse; a hit raises the port's
count and takes the surface off the idle list; a LOADING title and an entry of the queue are joined as a waiter; the
directory, the bad record and a full queue answer with PLACEHOLDER and surface 0; otherwise a new entry is queued. While
a reload is in progress the directory is not consulted. -/
def Obligations.LoadPosterTaken : Prop :=
  ∀ (s : State) (p : Port) (f : Frame) (rest : List Frame) (title : Nat), Takes s p .loadPoster f rest →
    title < 65536 → f.payload = b16 title →
    let placeholder (why : PlaceholderReason) : Prop := exec (.loadPoster p) s =
      .next (s.answeredPlaceholder p f rest why (.poster ⟨0, 0⟩ title none))
    let counted (k : PosterCounters) : Counters := { s.counters with posters := k }
    let pc := s.counters.posters
    let queued (q : List LoadEntry) : Prop := exec (.loadPoster p) s = .next
      { s.dispatched p f rest with
        cache := { s.cache with queue := q }, counters := counted { pc with misses := satSucc pc.misses } }
    let joins : Prop := ∀ before e after, s.cache.queue = before ++ e :: after → e.title = title → e.removed = false →
      (∀ d ∈ before, d.title ≠ title ∨ d.removed = true) →
      queued (before ++ { e with waiters := e.waiters ++ [⟨p, f.tag⟩] } :: after)
    (s.errors.fault = true → exec (.loadPoster p) s = .next (s.answered p f rest .fault .none))
    ∧ (s.errors.fault = false →
      (∀ m e x, s.cache.map.find? (fun m => m.title == title) = some m → s.surfaces.entries[m.surface]? = some e →
        e.body = some x →
        (x.state = .loading → joins)
        ∧ (x.state ≠ .loading → 255 ≤ x.refs.get p →
            exec (.loadPoster p) s = .next (s.answered p f rest .refLimit .none))
        ∧ (x.state ≠ .loading → x.refs.get p < 255 → exec (.loadPoster p) s = .next
            { s.answered p f rest .ok
                (.poster ⟨m.surface, e.gen⟩ title (some (x.width, x.height, x.format))) with
              surfaces := { s.surfaces with
                entries := s.surfaces.entries.set m.surface
                  { e with body := some { x with refs := x.refs.set p (x.refs.get p + 1) } } }
              cache := { s.cache with idle := s.cache.idle.erase m.surface }
              counters := counted { pc with hits := satSucc pc.hits } }))
      ∧ ((∀ m ∈ s.cache.map, m.title ≠ title) → joins
        ∧ ((∀ e ∈ s.cache.queue, e.title ≠ title ∨ e.removed = true) →
          (s.cache.reload = none →
            (s.cache.directory = none → placeholder .noDirectory)
            ∧ ∀ d, s.cache.directory = some d →
                ((∀ r ∈ d, r.title ≠ title) → placeholder .unknownTitle)
                ∧ ∀ r, d.find? (fun r => r.title == title) = some r → r.bad = true → placeholder .badImage)
          ∧ (s.cache.reload ≠ none ∨ (∃ d r, s.cache.directory = some d
                ∧ d.find? (fun r => r.title == title) = some r ∧ r.bad = false) →
              (8 ≤ s.cache.queue.length → placeholder .loadBusy)
              ∧ (s.cache.queue.length < 8 → queued (s.cache.queue ++ [⟨title, [⟨p, f.tag⟩], false⟩]))))))

/-- RELEASE POSTER and QUERY POSTER (R124, R125, R114, R115, R116): the three checks of a release; otherwise the port's
count falls by 1, and a surface that becomes unpinned joins the idle list, drains while in a hold set, or is given back
where it was stale (R20, R18, R29): RETIRING while in a hold set, and otherwise FREE, its pages and charge returned and
the copies that named it at source none. A release of surface 0 carries no result fields (DEDUCED, log 19). A query
changes nothing but the port and reports the directory, the title's condition, its handle, and for RESIDENT the count and
the idle list; a title whose only queue entry lost its surface to damage is ABSENT (DEDUCED, log 22). -/
def Obligations.ReleaseAndQueryPosterTaken : Prop :=
  (∀ (s : State) (p : Port) (f : Frame) (rest : List Frame) (idx : Nat) (g : Byte),
    Takes s p .releasePoster f rest → idx < 256 → f.payload = b8 idx ++ [g] →
    let refused (st : Status) : Prop := exec (.releasePoster p) s = .next (s.answered p f rest st .none)
    let h : Handle := ⟨idx, g⟩
    (s.resolve h = none → refused .badHandle)
    ∧ ∀ x, s.resolve h = some x →
      (idx = 0 → refused .ok)
      ∧ (idx ≠ 0 → x.kind ≠ .poster ∨ x.refs.get p = 0 → refused .notOwner)
      ∧ (idx ≠ 0 → x.kind = .poster → x.refs.get p ≠ 0 →
        let x' : Surface := { x with refs := x.refs.set p (x.refs.get p - 1) }
        let pinned : Prop := x'.refs.a ≠ 0 ∨ x'.refs.b ≠ 0
          ∨ ∃ r ∈ s.layers, ∃ c, (c = r.active ∨ c = r.pending) ∧ c.output ≠ none ∧ c.source = .surface h
        let inHold : Prop := idx ∈ s.outputs.o0.holdSet ∨ idx ∈ s.outputs.o1.holdSet
        let inMap : Prop := ∃ m ∈ s.cache.map, m.surface = idx
        let released (c : PosterCondition) (y : Surface) (cache : PosterCache) : Prop :=
          exec (.releasePoster p) s = .next
            { s.answered p f rest .ok (.released (x.refs.get p - 1) c) with
              surfaces := { s.surfaces with entries := s.surfaces.entries.set idx ⟨g, some y⟩ }, cache := cache }
        (x.state ≠ .retiring → pinned → released .pinned x' s.cache)
        ∧ (x.state = .resident → ¬ pinned → inMap → idx ∉ s.cache.idle →
            (¬ inHold → released .idle x' { s.cache with idle := s.cache.idle ++ [idx] })
            ∧ (inHold → released .draining x' s.cache))
        ∧ (x.state = .resident → ¬ pinned → ¬ inMap → idx ∈ s.cache.stale → x.attached = none →
            let cache := { s.cache with stale := s.cache.stale.erase idx }
            let counted : State :=
              { s with surfaces := { s.surfaces with entries := s.surfaces.entries.set idx ⟨g, some x'⟩ } }
            (inHold → released .retiring { x' with state := .retiring } cache)
            ∧ (¬ inHold → ∃ t, exec (.releasePoster p) s = .next t
                ∧ t = { s.answered p f rest .ok (.released (x.refs.get p - 1) .freed) with
                        surfaces := t.surfaces, layers := t.layers, cache := cache }
                ∧ counted.GivenBack t idx g x'))))
  ∧ ∀ (s : State) (p : Port) (f : Frame) (rest : List Frame) (title : Nat), Takes s p .queryPoster f rest →
    title < 65536 → f.payload = b16 title →
    ∃ r : PosterReport, exec (.queryPoster p) s = .next (s.answered p f rest .ok (.posterQuery r))
      ∧ (r.hasDirectory = true ↔ s.cache.directory ≠ none)
      ∧ (r.listed = true ↔ ∃ d, s.cache.directory = some d ∧ ∃ e ∈ d, e.title = title)
      ∧ (∀ d e, s.cache.directory = some d → d.find? (fun e => e.title == title) = some e → r.bad = e.bad)
      ∧ (∀ m e x, s.cache.map.find? (fun m => m.title == title) = some m → s.surfaces.entries[m.surface]? = some e →
          e.body = some x → r.handle = some ⟨m.surface, e.gen⟩
          ∧ (x.state = .loading → r.condition = .loading ∧ r.resident = none)
          ∧ (x.state ≠ .loading → r.condition = .resident
              ∧ r.resident = some (x.refs.get p, s.cache.idle.contains m.surface)))
      ∧ ((∀ m ∈ s.cache.map, m.title ≠ title) → r.handle = none ∧ r.resident = none
          ∧ ((∃ e ∈ s.cache.queue, e.title = title ∧ e.removed = false) → r.condition = .queued)
          ∧ ((∀ e ∈ s.cache.queue, e.title ≠ title ∨ e.removed = true) → r.condition = .absent))

/-- LOADER BEGIN and RELOAD DIRECTORY (R112, R120, R121, R128, R129, R138, R145). The loader begins no entry while it serves
one or a reload is in progress, and the state stays (log 2). The head fails with its waiters answered by PLACEHOLDER when the directory does not give its
title or no room can be made; it waits while a program or erase overlaps its image; while room is missing it evicts the
first idle surface not held, which becomes FREE, and goes on from there; otherwise its surface is LOADING, in the map, and the first transaction is asked for. RELOAD
DIRECTORY is denied, busy, or accepted; an idle loader then reads the image again. A good image leads to a directory load,
whose end replaces the directory, removes each RESIDENT surface whose record is gone or differs from the map, pinned ones to
the stale list and the others given back, and completes with the counts. A directory out of range or a CRC mismatch leaves no
directory: every RESIDENT surface leaves the map, every waiter is answered PLACEHOLDER, NO_DIRECTORY, the queue is empty, and
the command completes with DIRECTORY_BAD; a bad image does the same (LoaderReadEndTaken). At either end the re-read flag is
cleared before the next grant is given (the model's choice, log 45). A directory of 0
records is loaded without a read, its CRC that of no bytes (DEDUCED, log 29). -/
def Obligations.LoaderBeginAndReloadTaken : Prop :=
  (∀ s : State, s.startUp.resetPin = false → s.startUp.starting = false →
    let pc := s.counters.posters
    let fails (why : PlaceholderReason) : Prop := ∃ t, exec .loaderBegin s = .next t
      ∧ t = { s with
              cache := { s.cache with queue := s.cache.queue.tail, work := .idle }, ports := t.ports
              counters := { s.counters with posters := { pc with failures := satSucc pc.failures } } }
      ∧ ∀ e, s.cache.queue.head? = some e → ∀ w ∈ e.waiters, (s.ports.get w.port).status ≠ .resetting →
          Notice.completion w.tag 0x40 .placeholder (some why) (.poster ⟨0, 0⟩ e.title none)
            ∈ (t.ports.get w.port).notices
    ((s.cache.work ≠ .idle ∧ s.cache.work ≠ .waiting) ∨ s.cache.reload ≠ none → exec .loaderBegin s = .next s)
    ∧ (s.cache.work = .idle ∨ s.cache.work = .waiting → s.cache.reload = none →
      (s.cache.queue = [] → exec .loaderBegin s = .next { s with cache := { s.cache with work := .idle } })
      ∧ ∀ e q, s.cache.queue = e :: q →
        (s.cache.directory = none → fails .noDirectory)
        ∧ ∀ d, s.cache.directory = some d →
          ((∀ r ∈ d, r.title ≠ e.title) → fails .unknownTitle)
          ∧ ∀ r, d.find? (fun r => r.title == e.title) = some r →
            let n := pageCount (byteSize r.format r.width r.height)
            let held (j : Nat) : Bool := s.outputs.o0.holdSet.contains j || s.outputs.o1.holdSet.contains j
            let account := s.surfaces.posters
            let overlaps : Prop := ∃ op x,
              (op ∈ s.arbiter.queues.a ∨ op ∈ s.arbiter.queues.b ∨ ∃ p, s.arbiter.grant = some (.port p op))
              ∧ op.kind.range = some x ∧ 0 < x.length ∧ 0 < r.length ∧ x.offset < r.offset + r.length
              ∧ r.offset < x.offset + x.length
            let room : Prop := account.entries < 63 ∧ account.charged + n ≤ account.budget
              ∧ n ≤ s.surfaces.freeList.length ∧ ∃ j g, 1 ≤ j ∧ s.surfaces.entries[j]? = some ⟨g, none⟩
            (r.bad = true → fails .badImage)
            ∧ (r.bad = false → overlaps → exec .loaderBegin s = .next { s with cache := { s.cache with work := .waiting } })
            ∧ (r.bad = false → ¬ overlaps →
              (account.budget < n ∨ (¬ room ∧ ∀ j ∈ s.cache.idle, held j = true) → fails .noSpace)
              ∧ (n ≤ account.budget → ¬ room → ∀ j, s.cache.idle.find? (fun j => !held j) = some j →
                  ∃ u, exec .loaderBegin s = exec .loaderBegin u ∧ s.Evicted u j)
              ∧ (room → ∀ i g, 1 ≤ i → s.surfaces.entries[i]? = some ⟨g, none⟩ →
                (∀ j, 1 ≤ j → j < i → ∃ y, s.surfaces.entries[j]? = some y ∧ y.body.isSome = true) →
                let read : FlashRange := ⟨r.offset, min 4096 r.length⟩
                ∃ t, exec .loaderBegin s = .next t
                  ∧ t = { s with
                          surfaces := { s.surfaces with
                            entries := s.surfaces.entries.set i
                              ⟨g, some { owner := .posters, kind := .poster, width := r.width, height := r.height
                                         format := r.format, byteSize := byteSize r.format r.width r.height
                                         pages := s.surfaces.freeList.take n, state := .loading, attached := none
                                         damaged := false, refs := ⟨0, 0⟩ }⟩
                            freeList := s.surfaces.freeList.drop n
                            posters := { account with charged := account.charged + n, entries := account.entries + 1 } }
                          cache := { s.cache with
                            map := s.cache.map ++ [⟨r.title, i, r.width, r.height, r.format, r.crc⟩]
                            work := .filling { title := r.title, surface := i, offset := r.offset, length := r.length
                                               imageCrc := r.crc, k := 0, crc := 0xFFFFFFFF } }
                          counters := { s.counters with posters := { pc with loads := satSucc pc.loads } }
                          arbiter := t.arbiter }
                  ∧ t.arbiter.loadingRange = some ⟨r.offset, r.length⟩ ∧ t.arbiter.queues = s.arbiter.queues
                  ∧ (s.arbiter.grant ≠ none → t.arbiter.request = some read ∧ t.arbiter.grant = s.arbiter.grant)
                  ∧ (s.arbiter.grant = none → Arbiter.NextGiven
                      { s.arbiter with loadingRange := some ⟨r.offset, r.length⟩, request := some read } t.arbiter)
                  ∧ (s.arbiter.grant = none → s.arbiter.queues = ⟨[], []⟩ →
                      t.arbiter.request = none ∧ t.arbiter.grant = some (.loader read) ∧ t.arbiter.turn = .loader)))))
  ∧ ∀ (s : State) (p : Port) (f : Frame) (rest : List Frame), Takes s p .reloadDirectory f rest →
    ((s.ports.get p).maintainer = false →
      exec (.reloadDirectory p) s = .next (s.answered p f rest .denied .none))
    ∧ ((s.ports.get p).maintainer = true → s.cache.reload ≠ none →
        exec (.reloadDirectory p) s = .next (s.answered p f rest .busy .none))
    ∧ ((s.ports.get p).maintainer = true → s.cache.reload = none →
        let idle : Prop := s.cache.work = .idle ∨ s.cache.work = .waiting
        (¬ idle → exec (.reloadDirectory p) s = .next
          { s.dispatched p f rest with cache := { s.cache with reload := some ⟨p, f.tag⟩ } })
        ∧ (idle → ∃ t, exec (.reloadDirectory p) s = .next t
          ∧ t = { s.dispatched p f rest with
                  cache := { s.cache with reload := some ⟨p, f.tag⟩, work := .reloadConfig }, arbiter := t.arbiter }
          ∧ t.arbiter.reread = true ∧ t.arbiter.queues = s.arbiter.queues
          ∧ (s.arbiter.grant ≠ none → t.arbiter.request = some ⟨0, 95⟩ ∧ t.arbiter.grant = s.arbiter.grant)
          ∧ (s.arbiter.grant = none →
              Arbiter.NextGiven { s.arbiter with reread := true, request := some ⟨0, 95⟩ } t.arbiter)
          ∧ (s.arbiter.grant = none → s.arbiter.queues = ⟨[], []⟩ →
              t.arbiter.request = none ∧ t.arbiter.grant = some (.loader ⟨0, 95⟩))))
  ∧ ∀ (s : State) (r : FlashRange) (w : Waiter), s.startUp.resetPin = false → s.startUp.starting = false →
    s.arbiter.grant = some (.loader r) → s.cache.reload = some w →
    let data := s.flashRead r
    let c := parseImage data
    let good (t : State) (count : Nat) (got : List Byte) : Prop := ∃ rs removed stale,
      DirectoryOf count s.arbiter.deviceSize got rs ∧ s.Reloaded t (some rs) removed stale
      ∧ ((s.ports.get w.port).status ≠ .resetting →
          Notice.completion w.tag 0x43 (if rs.length = count then .ok else .directoryTruncated) none
            (.reload rs.length removed.length stale) ∈ (t.ports.get w.port).notices)
    let ends (count : Nat) (crc : Word32) (got : List Byte) : Prop :=
      ∃ t, exec .loaderReadEnd s = .next t ∧ (crc32 got ≠ crc → s.ReloadFailed t w) ∧ (crc32 got = crc → good t count got)
    (s.cache.work = .reloadConfig → imageValid data = true →
      let count := min c.dirCount 4096
      ((∀ off, c.dirOffset = some off → s.arbiter.deviceSize < off + count * 19) →
        ∃ t, exec .loaderReadEnd s = .next t ∧ s.ReloadFailed t w)
      ∧ ∀ off, c.dirOffset = some off → off + count * 19 ≤ s.arbiter.deviceSize →
          (count = 0 → ends 0 c.dirCrc [])
          ∧ (count ≠ 0 → ∃ t, exec .loaderReadEnd s = .next t
            ∧ t = { s with
                    cache := { s.cache with work := .directory ⟨off, count, c.dirCrc, []⟩ }, arbiter := t.arbiter
                    ports := t.ports, counters := { s.counters with port := t.counters.port } }
            ∧ t.arbiter.queues = s.arbiter.queues
            ∧ (s.arbiter.queues = ⟨[], []⟩ → t.arbiter.grant = some (.loader ⟨off, min 4096 (count * 19)⟩))))
    ∧ ∀ d, s.cache.work = .directory d → d.count * 19 ≤ (d.got ++ data).length → ends d.count d.crc (d.got ++ data)

/-- LOADER READ END (R73, R112, R122, R123, R129, R137, R188 to R192, R173), by the loader's work. Without a loader grant the
state stays (log 2). The bytes are those of the flash; in a read mode in which the flash gives other bytes they are free values,
which pass or fail the tests of R188, and which fail the signature test where it gives no answer (log 7). A fill's transaction stores its bytes and asks for the next; its end makes the surface RESIDENT and
answers OK, and the poster is in use, idle, stale or given back; or on a CRC mismatch it frees it, marks the record BAD and
answers PLACEHOLDER; a reload that waited for it begins, with its re-read flag set first (the model's choice, log 35). At
start-up an invalid image is read in the next mode, then the built-in defaults are taken; a valid one sets the values, each
clamped and noted by R189, the budgets by R190 (the note of a disabled output by log 18), and its directory is read, one of 0
records without a read (DEDUCED, log 29); then the fallback poster, surface 0 taking the damage colour where it fails; then
start-up finishes. The default timing record of output 1, of which Table 11-2 says only that it is disabled, is the model's
choice (log 43). A bad image at a reload leaves no directory: every RESIDENT surface leaves the map, pinned ones to the stale
list and the others given back, every waiter is answered PLACEHOLDER, NO_DIRECTORY, the queue is empty, and the command completes
with DIRECTORY_BAD, the re-read flag cleared before the next grant (the model's choice, log 45); for a good image see
LoaderBeginAndReloadTaken. -/
def Obligations.LoaderReadEndTaken : Prop :=
  ∀ s : State, s.startUp.resetPin = false →
    ((∀ r, s.arbiter.grant ≠ some (.loader r)) → exec .loaderReadEnd s = .next s)
    ∧ ∀ r, s.arbiter.grant = some (.loader r) →
      let data := s.flashRead r
      let pc := s.counters.posters
      let answers (t : State) (e : LoadEntry) (st : Status) (why : Option PlaceholderReason) (res : Result) : Prop :=
        ∀ w ∈ e.waiters, (s.ports.get w.port).status ≠ .resetting →
          Notice.completion w.tag 0x40 st why res ∈ (t.ports.get w.port).notices
      let asks (t : State) (x : FlashRange) : Prop :=
        t.arbiter.queues = s.arbiter.queues ∧ t.arbiter.loadingRange = s.arbiter.loadingRange
        ∧ Arbiter.NextGiven { t.arbiter with grant := none, request := some x, turn := s.arbiter.turn } t.arbiter
        ∧ (s.arbiter.queues = ⟨[], []⟩ → t.arbiter.grant = some (.loader x))
        ∧ ∀ tag off len ops, s.arbiter.turn = .loader → s.arbiter.queues.a = ⟨tag, .read off len⟩ :: ops →
            t.arbiter.grant = some (.port .a ⟨tag, .read off len⟩) ∧ t.arbiter.request = some x
      let stored (t : State) (i k : Nat) : Prop :=
        ∀ x page, s.surfaceAt i = some x → x.pages[k]? = some page → x.pages.Nodup → r.length ≤ 4096 →
          (page ∉ s.errors.bad → ∀ j, j < r.length →
            t.frame.read Config.frameBlank (page * 4096 + j) = data.getD j 0)
          ∧ ∀ a, page ∈ s.errors.bad ∨ a < page * 4096 ∨ page * 4096 + r.length ≤ a →
              t.frame.read Config.frameBlank a = s.frame.read Config.frameBlank a
      let freed (t : State) : Prop :=
        t.arbiter.loadingRange = none ∧ t.cache.reload = s.cache.reload
        ∧ Arbiter.NextGiven
            { s.arbiter with
              grant := none, loadingRange := none, reread := t.arbiter.reread
              request := if s.cache.reload = none then s.arbiter.request else some ⟨0, 95⟩ } t.arbiter
        ∧ (s.cache.reload = none → t.cache.work = .idle)
        ∧ (s.cache.reload ≠ none → t.cache.work = .reloadConfig ∧ t.arbiter.reread = true
            ∧ (s.arbiter.queues = ⟨[], []⟩ → t.arbiter.grant = some (.loader ⟨0, 95⟩)))
      let usable (x : TimingRecord) : Bool := x.flag
        && decide (320 ≤ x.width ∧ x.width ≤ 4096 ∧ 240 ≤ x.height ∧ x.height ≤ 4096 ∧ x.width + 16 ≤ x.htotal
          ∧ x.htotal ≤ 8192 ∧ x.height + 4 ≤ x.vtotal ∧ x.vtotal ≤ 8192 ∧ 25000 ≤ x.pixelKHz ∧ x.pixelKHz ≤ 300000)
      let loaded (t : State) (count : Nat) (crc : Word32) (got : List Byte) : Prop :=
        s.AfterDirectory t
        ∧ (crc32 got ≠ crc → t.cache.directory = none ∧ t.startUp.status.directory = .noDirectory
            ∧ t.startUp.status.records = 0)
        ∧ (crc32 got = crc → ∃ rs, t.cache.directory = some rs ∧ DirectoryOf count t.arbiter.deviceSize got rs
            ∧ t.startUp.status.directory = (if rs.length = count then .ok else .truncated)
            ∧ t.startUp.status.records = rs.length)
      data.length = r.length
      ∧ (s.lanes.answer s.arbiter.mode = .bytes →
          data = (List.range r.length).map (fun j => s.flash.read Config.flashBlank (r.offset + j)))
      ∧ (s.lanes.answer s.arbiter.mode = .garbled →
          data = (List.range r.length).map (fun j => Config.strayFlashByte s.arbiter.mode.lanes (r.offset + j)))
      ∧ (s.lanes.answer s.arbiter.mode = .silent → r.offset = 0 → 4 ≤ r.length → u32 data 0 ≠ 0x3F71A6C2)
      ∧ (imageValid data = true ↔ u32 data 0 = 0x3F71A6C2 ∧ u16 data 4 = 1 ∧ u32 data 6 = 95
          ∧ (crc32 ((data.take 95).drop 14)).toNat = u32 data 10)
      ∧ (∀ l, s.cache.work = .filling l → (l.k + 1) * 4096 < l.length → ∃ t, exec .loaderReadEnd s = .next t
        ∧ t = { s with
                frame := t.frame
                cache := { s.cache with work := .filling { l with k := l.k + 1, crc := crc32Run l.crc data } }
                arbiter := t.arbiter, ports := t.ports, counters := { s.counters with port := t.counters.port } }
        ∧ asks t ⟨l.offset + (l.k + 1) * 4096, min 4096 (l.length - (l.k + 1) * 4096)⟩ ∧ stored t l.surface l.k)
      ∧ (∀ l e q y x, s.cache.work = .filling l → l.length ≤ (l.k + 1) * 4096 → s.cache.queue = e :: q →
        s.surfaces.entries[l.surface]? = some y → y.body = some x → x.kind = .poster → x.state = .loading →
        (crc32Final (crc32Run l.crc data) = l.imageCrc → ∃ t, exec .loaderReadEnd s = .next t
          ∧ stored t l.surface l.k ∧ t.cache.queue = q ∧ freed t ∧ t.cache.directory = s.cache.directory
          ∧ answers t e .ok none (.poster ⟨l.surface, y.gen⟩ l.title (some (x.width, x.height, x.format)))
          ∧ (let x' : Surface := { x with
               state := .resident
               refs := ⟨x.refs.a + (e.waiters.filter (fun w => w.port = .a)).length,
                        x.refs.b + (e.waiters.filter (fun w => w.port = .b)).length⟩ }
             let filled : State := { s with surfaces := { s.surfaces with
               entries := s.surfaces.entries.set l.surface ⟨y.gen, some x'⟩ } }
             let inMap : Prop := ∃ m ∈ s.cache.map, m.surface = l.surface
             let pinned : Prop := x'.refs.a ≠ 0 ∨ x'.refs.b ≠ 0 ∨ namesHandle s.layers ⟨l.surface, y.gen⟩
             let joined (xs : List Nat) : List Nat := if l.surface ∈ xs then xs else xs ++ [l.surface]
             t.cache.map = s.cache.map
             ∧ (inMap ∨ pinned → t.surfaces = filled.surfaces)
             ∧ (¬ inMap → ¬ pinned → filled.GivenBack t l.surface y.gen x')
             ∧ (inMap → ¬ pinned → t.cache.idle = joined s.cache.idle)
             ∧ (¬ inMap ∨ pinned → t.cache.idle = s.cache.idle)
             ∧ (¬ inMap → pinned → t.cache.stale = joined s.cache.stale)
             ∧ (inMap ∨ ¬ pinned → t.cache.stale = s.cache.stale)))
        ∧ (crc32Final (crc32Run l.crc data) ≠ l.imageCrc → ∃ t, exec .loaderReadEnd s = .next t
          ∧ stored t l.surface l.k ∧ t.cache.queue = q ∧ freed t ∧ t.cache.directory = s.cache.directory.map (fun d =>
              d.map (fun r => if r.title = l.title then { r with bad := true } else r))
          ∧ t.counters.posters = { pc with failures := satSucc pc.failures }
          ∧ t.surfaceAt l.surface = none ∧ (∀ m ∈ t.cache.map, m.surface ≠ l.surface)
          ∧ answers t e .placeholder (some .badImage) (.poster ⟨0, 0⟩ e.title none)))
      ∧ (∀ m m', s.cache.work = .startConfig m → imageValid data = false → (m = .one ∧ m' = .two) ∨ (m = .two ∧ m' = .four) →
        s.arbiter.queues = ⟨[], []⟩ → ∃ t, exec .loaderReadEnd s = .next t
          ∧ t = { s with
                  cache := { s.cache with work := .startConfig m' }, arbiter := t.arbiter, ports := t.ports
                  counters := { s.counters with port := t.counters.port } }
          ∧ t.arbiter.mode = m' ∧ t.arbiter.grant = some (.loader ⟨0, 95⟩))
      ∧ (∀ m c, s.cache.work = .startConfig m → s.startUp.starting = true →
        (imageValid data = true ∧ c = parseImage data) ∨ (imageValid data = false ∧ m = .four ∧ c = defaultImage) →
        ∃ t, exec .loaderReadEnd s = .next t
          ∧ (∀ o, let x := c.timing.get o
              (t.outputs.get o).timing = if usable x then
                { x with lineBudget := max 4096 (min 65536 x.lineBudget), wakeFields := max 1 (min 64 x.wakeFields) } else x)
          ∧ t.startUp.damageColour = c.damage
          ∧ t.arbiter.deviceSize = max 1 (min 256 c.flashMiB) * 1048576
          ∧ t.surfaces.portA.budget + t.surfaces.portB.budget + t.surfaces.posters.budget ≤ 16320
          ∧ (let a := c.sections.a.budget
             let b := c.sections.b.budget
             let excess := a + b + c.posters - 16320
             let fromPosters := min excess (c.posters - 1024)
             let b' := b - (excess - fromPosters)
             let a' := a - (excess - fromPosters - b)
             t.surfaces.posters.budget = c.posters - fromPosters
             ∧ (s.startUp.straps = ⟨true, true⟩ → t.surfaces.portA.budget = a' ∧ t.surfaces.portB.budget = b')
             ∧ (s.startUp.straps = ⟨true, false⟩ → t.surfaces.portA.budget = a' + b' ∧ t.surfaces.portB.budget = 0)
             ∧ (s.startUp.straps = ⟨false, true⟩ → t.surfaces.portA.budget = 0 ∧ t.surfaces.portB.budget = a' + b')
             ∧ t.surfaces.portA.budget + t.surfaces.portB.budget = a' + b')
          ∧ (∀ p, (t.ports.get p).maintainer = (c.sections.get p).maintainer
              ∧ (t.ports.get p).quietTime = min (c.sections.get p).quiet 1000
              ∧ (t.ports.get p).holdTime = min (c.sections.get p).hold 10000)
          ∧ t.startUp.status.mode = (if imageValid data then s.arbiter.mode else .one)
          ∧ t.startUp.status.notes =
            (let x := c.timing.o0
             let y := c.timing.o1
             { defaultsUsed := !imageValid data
               output0Disabled := x.flag && !usable x, output1Disabled := y.flag && !usable y
               lineBudget0 := usable x && (x.lineBudget < 4096 || 65536 < x.lineBudget)
               lineBudget1 := usable y && (y.lineBudget < 4096 || 65536 < y.lineBudget)
               wakeFields0 := usable x && (x.wakeFields = 0 || 64 < x.wakeFields)
               wakeFields1 := usable y && (y.wakeFields = 0 || 64 < y.wakeFields)
               flashSize := c.flashMiB = 0 || 256 < c.flashMiB, directoryCount := 4096 < c.dirCount
               directoryRange := c.dirOffset != none && t.startUp.dirSource == none
               fallbackRange := c.fallback != none && t.startUp.fallbackSource == none
               fallbackFailed := t.startUp.status.notes.fallbackFailed
               budgetsReduced := 16320 < c.sections.a.budget + c.sections.b.budget + c.posters
               timesA := 1000 < c.sections.a.quiet || 10000 < c.sections.a.hold
               timesB := 1000 < c.sections.b.quiet || 10000 < c.sections.b.hold })
          ∧ (∀ off count crc, t.startUp.dirSource = some (off, count, crc) → count ≠ 0 →
              t.cache.work = .directory ⟨off, count, crc, []⟩ ∧ t.startUp.starting = true
              ∧ asks t ⟨off, min 4096 (count * 19)⟩)
          ∧ (∀ off crc, t.startUp.dirSource = some (off, 0, crc) → loaded t 0 crc [])
          ∧ (t.startUp.dirSource = none → t.cache.directory = none ∧ t.startUp.status.directory = .noDirectory
              ∧ t.startUp.status.records = 0 ∧ s.AfterDirectory t)
          ∧ (∀ off count crc, t.startUp.dirSource = some (off, count, crc) ↔ c.dirOffset = some off
              ∧ count = min c.dirCount 4096 ∧ crc = c.dirCrc ∧ off + count * 19 ≤ t.arbiter.deviceSize)
          ∧ (t.startUp.fallbackSource ≠ none → t.startUp.status.notes.fallbackFailed = false)
          ∧ ∀ off crc, t.startUp.fallbackSource = some (off, crc) ↔
              c.fallback = some (off, crc) ∧ off + 172800 ≤ t.arbiter.deviceSize)
      ∧ (∀ d, s.cache.work = .directory d →
        let got := d.got ++ data
        (got.length < d.count * 19 → ∃ t, exec .loaderReadEnd s = .next t
          ∧ t = { s with
                  cache := { s.cache with work := .directory { d with got := got } }, arbiter := t.arbiter
                  ports := t.ports, counters := { s.counters with port := t.counters.port } }
          ∧ asks t ⟨d.offset + got.length, min 4096 (d.count * 19 - got.length)⟩)
        ∧ (d.count * 19 ≤ got.length → s.startUp.starting = true → ∃ t, exec .loaderReadEnd s = .next t
          ∧ t.startUp.status = { s.startUp.status with
              notes := t.startUp.status.notes, directory := t.startUp.status.directory
              records := t.startUp.status.records }
          ∧ t.startUp.fallbackSource = s.startUp.fallbackSource ∧ t.arbiter.deviceSize = s.arbiter.deviceSize
          ∧ (s.startUp.fallbackSource ≠ none → t.startUp.status.notes = s.startUp.status.notes)
          ∧ loaded t d.count d.crc got))
      ∧ (∀ off crc k run, s.cache.work = .fallback off crc k run →
        let run' := crc32Run run data
        ((k + 1) * 4096 < 172800 → ∃ t, exec .loaderReadEnd s = .next t
          ∧ t = { s with
                  frame := t.frame, cache := { s.cache with work := .fallback off crc (k + 1) run' }
                  arbiter := t.arbiter, ports := t.ports, counters := { s.counters with port := t.counters.port } }
          ∧ asks t ⟨off + (k + 1) * 4096, min 4096 (172800 - (k + 1) * 4096)⟩ ∧ stored t 0 k)
        ∧ (172800 ≤ (k + 1) * 4096 → ∃ t, exec .loaderReadEnd s = .next t ∧ s.Finished t
          ∧ t.surfaces = s.surfaces ∧ t.cache = { s.cache with work := .idle }
          ∧ (crc32Final run' = crc → t.startUp.status = s.startUp.status ∧ stored t 0 k)
          ∧ (crc32Final run' ≠ crc → s.FallbackFilled t)))
      ∧ (∀ w, s.cache.work = .reloadConfig → s.startUp.starting = false → imageValid data = false →
        s.cache.reload = some w → ∃ t, exec .loaderReadEnd s = .next t ∧ s.ReloadFailed t w)

/-! ## Catalogue flash -/

/-- FLASH READ, FLASH PROGRAM and FLASH ERASE (R139, R140, R141, R142, R144, R145): each check in its order; an accepted
operation joins the tail of the port's queue and holds an in-flight entry. On an idle device with no other request it
holds the grant at once, with the operation timer at 5 ms for a program and 2,000 ms for an erase, unless a re-read or an
overlapping load defers it. -/
def Obligations.FlashCommandsTaken : Prop :=
  ∀ (s : State) (p : Port) (f : Frame) (rest : List Frame) (off : Nat), off < 4294967296 →
    let a := s.arbiter
    let size := s.arbiter.deviceSize
    let maintainer := (s.ports.get p).maintainer
    let refused (c : Cmd) (st : Status) : Prop := exec (c.instr p) s = .next (s.answered p f rest st .none)
    let queued (c : Cmd) (k : FlashOpKind) : Prop := ∃ t, exec (c.instr p) s = .next t
      ∧ t = { s.dispatched p f rest with arbiter := t.arbiter }
      ∧ t.arbiter.queues = a.queues.set p (a.queues.get p ++ [⟨f.tag, k⟩])
      ∧ (a.grant ≠ none → t.arbiter = { a with queues := t.arbiter.queues })
      ∧ (a.grant = none → Arbiter.NextGiven { a with queues := t.arbiter.queues } t.arbiter)
      ∧ (a.grant = none → a.request = none → a.queues = ⟨[], []⟩ →
          let deferred : Prop := ∃ x, k.range = some x ∧ (a.reread = true ∨ ∃ r, a.loadingRange = some r
            ∧ 0 < x.length ∧ 0 < r.length ∧ x.offset < r.offset + r.length ∧ r.offset < x.offset + x.length)
          (deferred → t.arbiter = { a with queues := t.arbiter.queues })
          ∧ (¬ deferred → t.arbiter.grant = some (.port p ⟨f.tag, k⟩) ∧ t.arbiter.turn = .port p
              ∧ t.arbiter.timer = match k with
                | .read _ _ => .stopped
                | .program _ _ => .running 5000
                | .erase _ => .running 2000000))
    (∀ len, Takes s p .flashRead f rest → len < 65536 → f.payload = b32 off ++ b16 len →
      (len = 0 ∨ 256 < len → refused .flashRead .badCommand)
      ∧ (1 ≤ len → len ≤ 256 → size < off + len → refused .flashRead .outOfRange)
      ∧ (1 ≤ len → len ≤ 256 → off + len ≤ size → queued .flashRead (.read off len)))
    ∧ (∀ data, Takes s p .flashProgram f rest → f.payload = b32 off ++ data →
      (maintainer = false → refused .flashProgram .denied)
      ∧ (maintainer = true → size < off + data.length ∨ off / 256 ≠ (off + data.length - 1) / 256 →
          refused .flashProgram .outOfRange)
      ∧ (maintainer = true → off + data.length ≤ size → off / 256 = (off + data.length - 1) / 256 →
          queued .flashProgram (.program off data)))
    ∧ (Takes s p .flashErase f rest → f.payload = b32 off →
      (maintainer = false → refused .flashErase .denied)
      ∧ (maintainer = true → off % 65536 ≠ 0 ∨ size < off + 65536 → refused .flashErase .outOfRange)
      ∧ (maintainer = true → off % 65536 = 0 → off + 65536 ≤ size → queued .flashErase (.erase off)))

/-- The ends of pass-through operations (R134, R135, R139, R142, R147): a read completes with its bytes, free values in a read
mode the board does not wire (log 7); a program stores the AND of old and new bytes, an erase sets its block to 0xFF, and
either completes with OK; an expired timer resets the device, and when it accepts commands again the operation completes with
FLASH_TIMEOUT: a byte of a program lies bit by bit between the old byte and the AND, one of an erase is 0xFF or as it was
(log 8). In each case the operation leaves its queue, its in-flight entry is freed, and the next grant goes round the cycle
from the turn (R137), before a waiting loader is answered; other flash bytes keep their values. What an operation reported
done stored is that of cells neither protected nor worn (the model's choice, log 40). Without a running timer, a recovery or a grant such an end leaves the state (log 2). -/
def Obligations.FlashOperationsEnd : Prop :=
  ∀ s : State, s.startUp.resetPin = false →
    let a := s.arbiter
    let same (t : State) : Prop :=
      t = { s with flash := t.flash, freeCount := t.freeCount, arbiter := t.arbiter, ports := t.ports
                   counters := { s.counters with port := t.counters.port } }
    let ended (t : State) (p : Port) (op : FlashOp) (code : Byte) (st : Status) (res : Result) : Prop :=
      t.arbiter.queues = a.queues.set p ((a.queues.get p).erase op) ∧ (s.cache.work ≠ .waiting → same t)
      ∧ ((s.ports.get p).status ≠ .resetting →
          Notice.completion op.tag code st none res ∈ (t.ports.get p).notices)
      ∧ ((s.ports.get p).status = .attached → s.cache.work ≠ .waiting →
          (t.ports.get p).inFlight = (s.ports.get p).inFlight.erase ⟨code, op.tag⟩)
      ∧ ∃ b, Arbiter.NextGiven
          { a with grant := none, timer := .stopped, recovering := false, queues := t.arbiter.queues } b
        ∧ (s.cache.work ≠ .waiting ∨ op.kind.range = none → t.arbiter = b)
        ∧ (b.grant ≠ none → t.arbiter.grant = b.grant ∧ t.arbiter.turn = b.turn ∧ t.arbiter.timer = b.timer)
    let read (m : Memory) (x : Nat) : Byte := m.read Config.flashBlank x
    (∀ p tag off len, a.grant = some (.port p ⟨tag, .read off len⟩) →
      ∃ t, exec .flashReadEnd s = .next t ∧ same t ∧ t.flash = s.flash ∧ t.freeCount = s.freeCount
        ∧ ∃ data : List Byte, data.length = len
          ∧ (s.lanes.answer a.mode = .bytes → data = (List.range len).map (fun j => read s.flash (off + j)))
          ∧ ended t p ⟨tag, .read off len⟩ 0x50 .ok (.flashRead off len data))
    ∧ (∀ p tag off data us, a.grant = some (.port p ⟨tag, .program off data⟩) → a.timer = .running us →
      ∃ t, exec .flashOperationDone s = .next t ∧ t.freeCount = s.freeCount
        ∧ ended t p ⟨tag, .program off data⟩ 0x51 .ok (.flashProgram off data.length)
        ∧ ∀ x, read t.flash x = if off ≤ x ∧ x < off + data.length
            then read s.flash x &&& data.getD (x - off) 0 else read s.flash x)
    ∧ (∀ p tag off us, a.grant = some (.port p ⟨tag, .erase off⟩) → a.timer = .running us →
      ∃ t, exec .flashOperationDone s = .next t ∧ t.freeCount = s.freeCount
        ∧ ended t p ⟨tag, .erase off⟩ 0x52 .ok (.flashErase off)
        ∧ ∀ x, read t.flash x = if off ≤ x ∧ x < off + 65536 then 0xFF else read s.flash x)
    ∧ (∀ p op r, a.grant = some (.port p op) → op.kind.range = some r →
      (∀ us, a.timer = .running us → exec .operationTimerExpiry s =
        .next { s with arbiter := { a with timer := .stopped, recovering := true } })
      ∧ (a.recovering = true → ∃ t, exec .deviceAcceptsCommands s = .next t ∧ t.freeCount = s.freeCount + 1
          ∧ ended t p op (match op.kind with | .erase _ => 0x52 | _ => 0x51) .flashTimeout .none
          ∧ (∀ x, x < r.offset ∨ r.offset + r.length ≤ x → read t.flash x = read s.flash x)
          ∧ (∀ off data, op.kind = .program off data → ∀ j, j < data.length →
              let old := read s.flash (off + j)
              let new := read t.flash (off + j)
              old &&& new = new ∧ old &&& data.getD j 0 &&& new = old &&& data.getD j 0)
          ∧ (∀ off, op.kind = .erase off → ∀ x, off ≤ x → x < off + 65536 →
              read t.flash x = 0xFF ∨ read t.flash x = read s.flash x)))
    ∧ (a.timer = .stopped → exec .flashOperationDone s = .next s ∧ exec .operationTimerExpiry s = .next s)
    ∧ (a.recovering = false → exec .deviceAcceptsCommands s = .next s)
    ∧ (a.grant = none → exec .flashReadEnd s = .next s)

/-! ## Memory errors -/

/-- ECC results (R151, R152, R153, R154, R155, R156, R159). A corrected result only raises its counter. An uncorrectable
one appends its page to the bad page list if it is not there and fewer than 64 are, else enters FAULT if it is not there;
fills the unlocked capture record or counts as lost; marks a POSTER surface that owns the page and takes it out of the
map, where a RESIDENT one joins the stale list if pinned and otherwise leaves the idle list and is given back, RETIRING while
a hold set names it (R116, R126, R127); and offers MEMORY ERROR, then FAULT where FAULT is entered, to each attached port. The entry into FAULT empties the
sets of both outputs, blanks the enabled ones and turns every pixel composed and not yet driven to the background (R49); at
the emptied hold sets RELEASING slots become EMPTY and a close may end (R101, R106), RETIRING surfaces that are not held
become FREE (R17), and draining posters join the idle list (R115). A result comes from outside as a command (log 13); a FREE
page that joins the list stays on the free list (log 14). -/
def Obligations.EccResultsTaken : Prop :=
  ∀ (s : State) (r : Reader) (page offset : Nat), s.startUp.resetPin = false → page < 16384 → offset < 4096 →
    offset % 32 = 0 →
    let k := s.counters.memory
    exec (.eccCorrected r ⟨page, offset⟩) s = .next
      { s with counters := { s.counters with memory := { k with corrected := satSucc k.corrected } } }
    ∧ ∃ t, exec (.eccUncorrectable r ⟨page, offset⟩) s = .next t ∧
      let e := s.errors
      let c := e.capture
      let added : Bool := !e.bad.contains page && decide (e.bad.length < 64)
      let entered : Bool := !e.bad.contains page && decide (64 ≤ e.bad.length) && !e.fault
      let owner := s.pageOwner page
      let error : Notice := .memoryError page r offset owner added t.errors.bad.length
        (if c.locked then 0 else t.errors.capture.sequence) t.errors.capture.lostCount
      t = { s with
            surfaces := t.surfaces, layers := t.layers, outputs := t.outputs, streams := t.streams, cache := t.cache
            errors := t.errors, ports := t.ports
            counters := { s.counters with
              memory := { k with uncorrectable := satSucc k.uncorrectable }, port := t.counters.port } }
      ∧ t.errors.bad = (if added then e.bad ++ [page] else e.bad) ∧ t.errors.fault = (e.fault || entered)
      ∧ (c.locked = true → t.errors.capture =
          { c with lost := true, lostCount := if c.lostCount < 255 then c.lostCount + 1 else c.lostCount })
      ∧ (c.locked = false → t.errors.capture =
          { c with sequence := if c.sequence = 65535 then 1 else c.sequence + 1, page := some page, surface := owner
                   reader := some r, offset := some offset, pageAdded := added, locked := true })
      ∧ (∀ h x, owner = some h → s.surfaceAt h.index = some x → x.kind = .poster →
          (∀ m ∈ t.cache.map, m.surface ≠ h.index) ∧ (∀ y, t.surfaceAt h.index = some y → y.damaged = true)
          ∧ (let x' : Surface := { x with damaged := true }
             let marked : State := { s with
               errors := t.errors
               surfaces := { s.surfaces with entries := s.surfaces.entries.set h.index ⟨h.gen, some x'⟩ } }
             let inMap : Prop := ∃ m ∈ s.cache.map, m.surface = h.index
             let pinned : Prop := x.refs.a ≠ 0 ∨ x.refs.b ≠ 0 ∨ namesHandle s.layers h
             (entered = false ∨ s.startUp.starting = true → marked.DamageReported t h x')
             ∧ (entered = true → s.startUp.starting = false → inMap → x.state = .resident →
                 (pinned → t.cache.stale =
                   if h.index ∈ s.cache.stale then s.cache.stale else s.cache.stale ++ [h.index])
                 ∧ (¬ pinned → t.cache.stale = s.cache.stale
                     ∧ (h.index < 160 → x.attached = none →
                         t.surfaces.entries[h.index]? = some ⟨h.gen + 1, none⟩)))))
      ∧ (entered = false → t.outputs = s.outputs ∧ t.streams = s.streams
          ∧ ((∀ h x, owner = some h → s.surfaceAt h.index = some x → x.kind ≠ .poster) →
              t.surfaces = s.surfaces ∧ t.layers = s.layers ∧ t.cache = s.cache)
          ∧ ∀ p, (s.ports.get p).status = .attached → (s.ports.get p).notices.length + (s.ports.get p).owed < 32 →
              (t.ports.get p).notices = (s.ports.get p).notices ++ [error])
      ∧ (entered = true → s.startUp.starting = false →
          (∀ o, t.outputs.get o = { s.outputs.get o with
            forcedBlank := (s.outputs.get o).forcedBlank || s.outputEnabled o, layers := [], holdSet := []
            work := (s.outputs.get o).work.map (fun w => { w with fetched := [] })
            ahead := List.replicate (s.outputs.get o).ahead.length (s.outputs.get o).timing.background })
          ∧ (∀ i, s.StreamTested t i) ∧ s.SetsTested t
          ∧ ∀ p, (s.ports.get p).status = .attached → (s.ports.get p).lost < 255 →
              (t.ports.get p).lost = (s.ports.get p).lost → error ∈ (t.ports.get p).notices
                ∧ (t.ports.get p).notices.getLast? = some (.fault page r t.errors.capture.sequence))

/-- READ ERROR and CLEAR ERROR (R157, R158): the record, the FAULT flag and the bad page list as they stand, with nothing
changed; a clear with the sequence of a locked record clears the locked flag, the lost flag and the lost count and reports
what was lost; any other is refused with STALE_CLEAR, the present sequence and the locked flag, and changes nothing; where
the record is sound, a sequence of 0 never clears. -/
def Obligations.ErrorCommandsTaken : Prop :=
  ∀ (s : State) (p : Port) (f : Frame) (rest : List Frame),
    let c := s.errors.capture
    (Takes s p .readError f rest →
      exec (.readError p) s = .next (s.answered p f rest .ok (.errors c s.errors.fault s.errors.bad)))
    ∧ ∀ n, Takes s p .clearError f rest → n < 65536 → f.payload = b16 n →
        let stale := s.answered p f rest .staleClear (.staleClear c.sequence c.locked)
        (c.locked = true → c.sequence = n → exec (.clearError p) s = .next
          { s.answered p f rest .ok (.cleared c.lost c.lostCount) with
            errors := { s.errors with capture := { c with locked := false, lost := false, lostCount := 0 } } })
        ∧ (c.locked = false ∨ c.sequence ≠ n → exec (.clearError p) s = .next stale)
        ∧ (CaptureSound s → n = 0 → exec (.clearError p) s = .next stale)

end Statements
end

