-- ==== Sys2Proof/Laws/State.lean ====
section
/-! SUPPORT. The small lemmas of the state record: reading back one port, output or stream, and one lemma for each field
after each update. -/

namespace Sys2Proof

@[simp] theorem PerPort.get_set {α : Type} (t : PerPort α) (p : Port) (x : α) : (t.set p x).get p = x := by
  cases p <;> rfl

@[simp] theorem PerPort.set_set {α : Type} (t : PerPort α) (p : Port) (x y : α) : (t.set p x).set p y = t.set p y := by
  cases p <;> rfl

@[simp] theorem PerPort.set_get {α : Type} (t : PerPort α) (p : Port) : t.set p (t.get p) = t := by
  cases p <;> rfl

theorem PerPort.get_set_ne {α : Type} (t : PerPort α) (p q : Port) (x : α) (h : q ≠ p) : (t.set p x).get q = t.get q := by
  cases p <;> cases q <;> first | rfl | exact absurd rfl h

@[simp] theorem PerOutput.get_set {α : Type} (t : PerOutput α) (p : OutputId) (x : α) : (t.set p x).get p = x := by
  cases p <;> rfl

@[simp] theorem PerOutput.set_set {α : Type} (t : PerOutput α) (p : OutputId) (x y : α) : (t.set p x).set p y = t.set p y := by
  cases p <;> rfl

@[simp] theorem PerOutput.set_get {α : Type} (t : PerOutput α) (p : OutputId) : t.set p (t.get p) = t := by
  cases p <;> rfl

theorem PerOutput.get_set_ne {α : Type} (t : PerOutput α) (p q : OutputId) (x : α) (h : q ≠ p) : (t.set p x).get q = t.get q := by
  cases p <;> cases q <;> first | rfl | exact absurd rfl h

@[simp] theorem PerStream.get_set {α : Type} (t : PerStream α) (p : StreamId) (x : α) : (t.set p x).get p = x := by
  cases p <;> rfl

@[simp] theorem PerStream.set_set {α : Type} (t : PerStream α) (p : StreamId) (x y : α) : (t.set p x).set p y = t.set p y := by
  cases p <;> rfl

@[simp] theorem PerStream.set_get {α : Type} (t : PerStream α) (p : StreamId) : t.set p (t.get p) = t := by
  cases p <;> rfl

theorem PerStream.get_set_ne {α : Type} (t : PerStream α) (p q : StreamId) (x : α) (h : q ≠ p) : (t.set p x).get q = t.get q := by
  cases p <;> cases q <;> first | rfl | exact absurd rfl h

@[simp] theorem Port.other_ne (p : Port) : p.other ≠ p := by cases p <;> decide

@[simp] theorem Port.other_other (p : Port) : p.other.other = p := by cases p <;> rfl

@[simp] theorem PerPort.get_other_set {α : Type} (t : PerPort α) (p : Port) (x : α) :
    (t.set p x).get p.other = t.get p.other := by
  cases p <;> rfl

end Sys2Proof

namespace Sys2Proof.Machine

section

variable (s : State) (p : Port) (f : PortState → PortState)

@[simp] theorem State.modPort_pending : (s.modPort p f).pending = s.pending := rfl
@[simp] theorem State.modPort_startUp : (s.modPort p f).startUp = s.startUp := rfl
@[simp] theorem State.modPort_surfaces : (s.modPort p f).surfaces = s.surfaces := rfl
@[simp] theorem State.modPort_frame : (s.modPort p f).frame = s.frame := rfl
@[simp] theorem State.modPort_layers : (s.modPort p f).layers = s.layers := rfl
@[simp] theorem State.modPort_outputs : (s.modPort p f).outputs = s.outputs := rfl
@[simp] theorem State.modPort_streams : (s.modPort p f).streams = s.streams := rfl
@[simp] theorem State.modPort_cache : (s.modPort p f).cache = s.cache := rfl
@[simp] theorem State.modPort_arbiter : (s.modPort p f).arbiter = s.arbiter := rfl
@[simp] theorem State.modPort_flash : (s.modPort p f).flash = s.flash := rfl
@[simp] theorem State.modPort_lanes : (s.modPort p f).lanes = s.lanes := rfl
@[simp] theorem State.modPort_errors : (s.modPort p f).errors = s.errors := rfl
@[simp] theorem State.modPort_ports : (s.modPort p f).ports = s.ports.set p (f (s.ports.get p)) := rfl
@[simp] theorem State.modPort_counters : (s.modPort p f).counters = s.counters := rfl
@[simp] theorem State.modPort_freeCount : (s.modPort p f).freeCount = s.freeCount := rfl

end

section

variable (s : State) (o : OutputId) (f : OutputState → OutputState)

@[simp] theorem State.modOut_pending : (s.modOut o f).pending = s.pending := rfl
@[simp] theorem State.modOut_startUp : (s.modOut o f).startUp = s.startUp := rfl
@[simp] theorem State.modOut_surfaces : (s.modOut o f).surfaces = s.surfaces := rfl
@[simp] theorem State.modOut_frame : (s.modOut o f).frame = s.frame := rfl
@[simp] theorem State.modOut_layers : (s.modOut o f).layers = s.layers := rfl
@[simp] theorem State.modOut_outputs : (s.modOut o f).outputs = s.outputs.set o (f (s.outputs.get o)) := rfl
@[simp] theorem State.modOut_streams : (s.modOut o f).streams = s.streams := rfl
@[simp] theorem State.modOut_cache : (s.modOut o f).cache = s.cache := rfl
@[simp] theorem State.modOut_arbiter : (s.modOut o f).arbiter = s.arbiter := rfl
@[simp] theorem State.modOut_flash : (s.modOut o f).flash = s.flash := rfl
@[simp] theorem State.modOut_lanes : (s.modOut o f).lanes = s.lanes := rfl
@[simp] theorem State.modOut_errors : (s.modOut o f).errors = s.errors := rfl
@[simp] theorem State.modOut_ports : (s.modOut o f).ports = s.ports := rfl
@[simp] theorem State.modOut_counters : (s.modOut o f).counters = s.counters := rfl
@[simp] theorem State.modOut_freeCount : (s.modOut o f).freeCount = s.freeCount := rfl

end

section

variable (s : State) (i : StreamId) (f : StreamRecord → StreamRecord)

@[simp] theorem State.modStream_pending : (s.modStream i f).pending = s.pending := rfl
@[simp] theorem State.modStream_startUp : (s.modStream i f).startUp = s.startUp := rfl
@[simp] theorem State.modStream_surfaces : (s.modStream i f).surfaces = s.surfaces := rfl
@[simp] theorem State.modStream_frame : (s.modStream i f).frame = s.frame := rfl
@[simp] theorem State.modStream_layers : (s.modStream i f).layers = s.layers := rfl
@[simp] theorem State.modStream_outputs : (s.modStream i f).outputs = s.outputs := rfl
@[simp] theorem State.modStream_streams : (s.modStream i f).streams = s.streams.set i (f (s.streams.get i)) := rfl
@[simp] theorem State.modStream_cache : (s.modStream i f).cache = s.cache := rfl
@[simp] theorem State.modStream_arbiter : (s.modStream i f).arbiter = s.arbiter := rfl
@[simp] theorem State.modStream_flash : (s.modStream i f).flash = s.flash := rfl
@[simp] theorem State.modStream_lanes : (s.modStream i f).lanes = s.lanes := rfl
@[simp] theorem State.modStream_errors : (s.modStream i f).errors = s.errors := rfl
@[simp] theorem State.modStream_ports : (s.modStream i f).ports = s.ports := rfl
@[simp] theorem State.modStream_counters : (s.modStream i f).counters = s.counters := rfl
@[simp] theorem State.modStream_freeCount : (s.modStream i f).freeCount = s.freeCount := rfl

end

section

variable (s : State) (f : Counters → Counters)

@[simp] theorem State.modCounters_pending : (s.modCounters f).pending = s.pending := rfl
@[simp] theorem State.modCounters_startUp : (s.modCounters f).startUp = s.startUp := rfl
@[simp] theorem State.modCounters_surfaces : (s.modCounters f).surfaces = s.surfaces := rfl
@[simp] theorem State.modCounters_frame : (s.modCounters f).frame = s.frame := rfl
@[simp] theorem State.modCounters_layers : (s.modCounters f).layers = s.layers := rfl
@[simp] theorem State.modCounters_outputs : (s.modCounters f).outputs = s.outputs := rfl
@[simp] theorem State.modCounters_streams : (s.modCounters f).streams = s.streams := rfl
@[simp] theorem State.modCounters_cache : (s.modCounters f).cache = s.cache := rfl
@[simp] theorem State.modCounters_arbiter : (s.modCounters f).arbiter = s.arbiter := rfl
@[simp] theorem State.modCounters_flash : (s.modCounters f).flash = s.flash := rfl
@[simp] theorem State.modCounters_lanes : (s.modCounters f).lanes = s.lanes := rfl
@[simp] theorem State.modCounters_errors : (s.modCounters f).errors = s.errors := rfl
@[simp] theorem State.modCounters_ports : (s.modCounters f).ports = s.ports := rfl
@[simp] theorem State.modCounters_counters : (s.modCounters f).counters = f s.counters := rfl
@[simp] theorem State.modCounters_freeCount : (s.modCounters f).freeCount = s.freeCount := rfl

end

section

variable (s : State) (f : PosterCache → PosterCache)

@[simp] theorem State.modCache_pending : (s.modCache f).pending = s.pending := rfl
@[simp] theorem State.modCache_startUp : (s.modCache f).startUp = s.startUp := rfl
@[simp] theorem State.modCache_surfaces : (s.modCache f).surfaces = s.surfaces := rfl
@[simp] theorem State.modCache_frame : (s.modCache f).frame = s.frame := rfl
@[simp] theorem State.modCache_layers : (s.modCache f).layers = s.layers := rfl
@[simp] theorem State.modCache_outputs : (s.modCache f).outputs = s.outputs := rfl
@[simp] theorem State.modCache_streams : (s.modCache f).streams = s.streams := rfl
@[simp] theorem State.modCache_cache : (s.modCache f).cache = f s.cache := rfl
@[simp] theorem State.modCache_arbiter : (s.modCache f).arbiter = s.arbiter := rfl
@[simp] theorem State.modCache_flash : (s.modCache f).flash = s.flash := rfl
@[simp] theorem State.modCache_lanes : (s.modCache f).lanes = s.lanes := rfl
@[simp] theorem State.modCache_errors : (s.modCache f).errors = s.errors := rfl
@[simp] theorem State.modCache_ports : (s.modCache f).ports = s.ports := rfl
@[simp] theorem State.modCache_counters : (s.modCache f).counters = s.counters := rfl
@[simp] theorem State.modCache_freeCount : (s.modCache f).freeCount = s.freeCount := rfl

end

section

variable (s : State) (f : Arbiter → Arbiter)

@[simp] theorem State.modArbiter_pending : (s.modArbiter f).pending = s.pending := rfl
@[simp] theorem State.modArbiter_startUp : (s.modArbiter f).startUp = s.startUp := rfl
@[simp] theorem State.modArbiter_surfaces : (s.modArbiter f).surfaces = s.surfaces := rfl
@[simp] theorem State.modArbiter_frame : (s.modArbiter f).frame = s.frame := rfl
@[simp] theorem State.modArbiter_layers : (s.modArbiter f).layers = s.layers := rfl
@[simp] theorem State.modArbiter_outputs : (s.modArbiter f).outputs = s.outputs := rfl
@[simp] theorem State.modArbiter_streams : (s.modArbiter f).streams = s.streams := rfl
@[simp] theorem State.modArbiter_cache : (s.modArbiter f).cache = s.cache := rfl
@[simp] theorem State.modArbiter_arbiter : (s.modArbiter f).arbiter = f s.arbiter := rfl
@[simp] theorem State.modArbiter_flash : (s.modArbiter f).flash = s.flash := rfl
@[simp] theorem State.modArbiter_lanes : (s.modArbiter f).lanes = s.lanes := rfl
@[simp] theorem State.modArbiter_errors : (s.modArbiter f).errors = s.errors := rfl
@[simp] theorem State.modArbiter_ports : (s.modArbiter f).ports = s.ports := rfl
@[simp] theorem State.modArbiter_counters : (s.modArbiter f).counters = s.counters := rfl
@[simp] theorem State.modArbiter_freeCount : (s.modArbiter f).freeCount = s.freeCount := rfl

end

section

variable (s : State) (i : Nat) (f : Surface → Surface)

@[simp] theorem State.modSurface_pending : (s.modSurface i f).pending = s.pending := rfl
@[simp] theorem State.modSurface_startUp : (s.modSurface i f).startUp = s.startUp := rfl
@[simp] theorem State.modSurface_surfaces : (s.modSurface i f).surfaces = s.surfaces.modSurface i f := rfl
@[simp] theorem State.modSurface_frame : (s.modSurface i f).frame = s.frame := rfl
@[simp] theorem State.modSurface_layers : (s.modSurface i f).layers = s.layers := rfl
@[simp] theorem State.modSurface_outputs : (s.modSurface i f).outputs = s.outputs := rfl
@[simp] theorem State.modSurface_streams : (s.modSurface i f).streams = s.streams := rfl
@[simp] theorem State.modSurface_cache : (s.modSurface i f).cache = s.cache := rfl
@[simp] theorem State.modSurface_arbiter : (s.modSurface i f).arbiter = s.arbiter := rfl
@[simp] theorem State.modSurface_flash : (s.modSurface i f).flash = s.flash := rfl
@[simp] theorem State.modSurface_lanes : (s.modSurface i f).lanes = s.lanes := rfl
@[simp] theorem State.modSurface_errors : (s.modSurface i f).errors = s.errors := rfl
@[simp] theorem State.modSurface_ports : (s.modSurface i f).ports = s.ports := rfl
@[simp] theorem State.modSurface_counters : (s.modSurface i f).counters = s.counters := rfl
@[simp] theorem State.modSurface_freeCount : (s.modSurface i f).freeCount = s.freeCount := rfl

end

end Sys2Proof.Machine
end

