-- ==== Sys2Proof/Laws/Stable.lean ====
section
/-! SUPPORT. What the shared operations and the meanings can do, said once: each is built from few kinds of change, so a
property of states that those changes keep is kept by all of them. An invariant is then a proof of `Stable`, and the few
changes that are not of these kinds are hypotheses of the lemmas that make them. -/

namespace Sys2Proof.Machine

/-- An update of a surface that keeps its owner, its kind and its page list. -/
structure KeepsPages (f : Surface → Surface) : Prop where
  owner : ∀ x, (f x).owner = x.owner
  kind : ∀ x, (f x).kind = x.kind
  pages : ∀ x, (f x).pages = x.pages

/-- A property that every change of the common kinds keeps: any change of the start-up block, the ports, the outputs, the streams, the cache,
the arbiter and the count of free values; counters that do not fall; an update of a surface that keeps its pages; a surface freed (R18); a
surface allocated (R12, R19). -/
structure Stable (P : State → Prop) : Prop where
  startUp : ∀ s x, P s → P { s with startUp := x }
  ports : ∀ s x, P s → P { s with ports := x }
  outputs : ∀ s x, P s → P { s with outputs := x }
  streams : ∀ s x, P s → P { s with streams := x }
  cache : ∀ s x, P s → P { s with cache := x }
  arbiter : ∀ s x, P s → P { s with arbiter := x }
  freeCount : ∀ s n, P s → P { s with freeCount := n }
  counters : ∀ s x, s.counters.le x → P s → P { s with counters := x }
  surface : ∀ s i f, KeepsPages f → P s → P (s.modSurface i f)
  free : ∀ s i, P s → P (s.becomeFree i)
  allocate : ∀ s i a kind st f w h, s.surfaces.lowestFree = some i →
    s.surfaces.allocationRefusal a (pageCount (byteSize f w h)) = none → a ≠ .part → kind ≠ .fallback → P s →
    P { s with surfaces := s.surfaces.allocate i a kind st f w h }

/-- A property that layer records replaced one for one keep. -/
abbrev KeepsLayers (P : State → Prop) : Prop :=
  ∀ s x, x.length = s.layers.length → P s → P { s with layers := x }

/-! ## Counters -/

theorem satSucc_le (n : Nat) : n ≤ satSucc n := by unfold satSucc; split <;> omega

theorem satAdd_le (n k : Nat) : n ≤ satAdd n k := by unfold satAdd; omega

theorem Counters.le_refl (c : Counters) : c.le c := fun _ => List.forall₂_same.mpr fun _ _ => Nat.le_refl _

theorem Counters.le_trans {a b c : Counters} (h : a.le b) (k : b.le c) : a.le c := fun g => by
  have h := h g
  have k := k g
  generalize a.group g = x at h
  generalize b.group g = y at h k
  generalize c.group g = z at k
  induction h generalizing z with
  | nil => cases k; exact .nil
  | cons h _ ih => cases k with
    | cons k kt => exact .cons (Nat.le_trans h k) (ih _ kt)

theorem Counters.le_onOutput (c : Counters) (o : OutputId) (f : OutputCounters → OutputCounters)
    (h : ∀ k, List.Forall₂ (· ≤ ·) k.values (f k).values) : c.le (c.onOutput o f) := fun g => by
  cases o <;> match g with
  | 0 | 1 | 2 | 3 | 4 | 5 | 6 | 7 | _ + 8 =>
    first
    | exact h _
    | exact List.forall₂_same.mpr fun _ _ => Nat.le_refl _

theorem Counters.le_onStream (c : Counters) (i : StreamId) (f : StreamCounters → StreamCounters)
    (h : ∀ k, List.Forall₂ (· ≤ ·) k.values (f k).values) : c.le (c.onStream i f) := fun g => by
  cases i <;> match g with
  | 0 | 1 | 2 | 3 | 4 | 5 | 6 | 7 | _ + 8 =>
    first
    | exact h _
    | exact List.forall₂_same.mpr fun _ _ => Nat.le_refl _

theorem Counters.le_onPort (c : Counters) (p : Port) (f : PortCounters → PortCounters)
    (h : ∀ k, List.Forall₂ (· ≤ ·) k.values (f k).values) : c.le (c.onPort p f) := fun g => by
  cases p <;> match g with
  | 0 | 1 | 2 | 3 | 4 | 5 | 6 | 7 | _ + 8 =>
    first
    | exact h _
    | exact List.forall₂_same.mpr fun _ _ => Nat.le_refl _

theorem Counters.le_posters (c : Counters) (k : PosterCounters) (h : List.Forall₂ (· ≤ ·) c.posters.values k.values) :
    c.le { c with posters := k } := fun g => by
  match g with
  | 0 | 1 | 2 | 3 | 4 | 5 | 6 | 7 | _ + 8 =>
    first
    | exact h
    | exact List.forall₂_same.mpr fun _ _ => Nat.le_refl _

theorem Counters.le_memory (c : Counters) (k : MemoryCounters) (h : List.Forall₂ (· ≤ ·) c.memory.values k.values) :
    c.le { c with memory := k } := fun g => by
  match g with
  | 0 | 1 | 2 | 3 | 4 | 5 | 6 | 7 | _ + 8 =>
    first
    | exact h
    | exact List.forall₂_same.mpr fun _ _ => Nat.le_refl _

/-! ## Small facts -/

theorem setPending_length (l : List LayerRecord) (id : Nat) (c : LayerCopy) : (setPending l id c).length = l.length := by
  unfold setPending; split <;> simp

theorem latchWrite_length (l : List LayerRecord) (p : Port) (o : OutputId) : (latchWrite l p o).length = l.length := by
  simp [latchWrite]

theorem clearPending_length (l : List LayerRecord) (p : Port) : (clearPending l p).length = l.length := by
  simp [clearPending]

/-- A loop of changes that keep a property keeps it. -/
theorem foldl_keeps {P : State → Prop} {α : Type} {f : State → α → State} (step : ∀ t x, P t → P (f t x)) (xs : List α)
    {s : State} (hs : P s) : P (xs.foldl f s) := by
  induction xs generalizing s with
  | nil => exact hs
  | cons x xs ih => exact ih (step s x hs)

section

variable {P : State → Prop} (h : Stable P) {s : State}
include h

theorem Stable.modPort (p : Port) (f : PortState → PortState) (hs : P s) : P (s.modPort p f) := h.ports _ _ hs

theorem Stable.modOut (o : OutputId) (f : OutputState → OutputState) (hs : P s) : P (s.modOut o f) := h.outputs _ _ hs

theorem Stable.modStream (i : StreamId) (f : StreamRecord → StreamRecord) (hs : P s) : P (s.modStream i f) :=
  h.streams _ _ hs

theorem Stable.modCache (f : PosterCache → PosterCache) (hs : P s) : P (s.modCache f) := h.cache _ _ hs

theorem Stable.modArbiter (f : Arbiter → Arbiter) (hs : P s) : P (s.modArbiter f) := h.arbiter _ _ hs

theorem Stable.modPosters (f : PosterCounters → PosterCounters)
    (le : List.Forall₂ (· ≤ ·) s.counters.posters.values (f s.counters.posters).values) (hs : P s) :
    P (s.modCounters (fun c => { c with posters := f c.posters })) :=
  h.counters _ _ (Counters.le_posters _ _ le) hs

/-! ## Ports -/

theorem Stable.notify (p : Port) (n : Notice) (hs : P s) : P (s.notify p n) := by
  unfold State.notify
  dsimp only
  split
  · split
    · exact h.modPort _ _ hs
    · refine h.counters _ _ (Counters.le_onPort _ _ _ fun k => ?_) (h.modPort _ _ hs)
      simp [PortCounters.values, satSucc_le]
  · exact hs

theorem Stable.notifyIf (t : Topic) (p : Port) (n : Notice) (hs : P s) : P (s.notifyIf t p n) := by
  unfold State.notifyIf; split
  · exact h.notify _ _ hs
  · exact hs

theorem Stable.publish (t : Topic) (n : Notice) (hs : P s) : P (s.publish t n) :=
  h.notifyIf _ _ _ (h.notifyIf _ _ _ hs)

theorem Stable.portChange (p : Port) (hs : P s) : P (s.portChange p) := h.notifyIf _ _ _ hs

theorem Stable.deliver (p : Port) (n : Notice) (hs : P s) : P (s.deliver p n) := by
  unfold State.deliver; split
  · exact hs
  · exact h.modPort _ _ hs

theorem Stable.complete (p : Port) (f : Frame) (st : Status) (r : Result) (hs : P s) : P (s.complete p f st r) :=
  h.deliver _ _ hs

theorem Stable.completePlaceholder (p : Port) (f : Frame) (r : PlaceholderReason) (x : Result) (hs : P s) :
    P (s.completePlaceholder p f r x) := h.deliver _ _ hs

theorem Stable.enter (p : Port) (f : Frame) (hs : P s) : P (s.enter p f) := h.modPort _ _ hs

theorem Stable.completeHeld (p : Port) (c : Cmd) (tag : Byte) (st : Status) (r : Option PlaceholderReason) (x : Result)
    (hs : P s) : P (s.completeHeld p c tag st r x) := h.deliver _ _ (h.modPort _ _ hs)

theorem Stable.takeHead {p : Port} {c : Option Cmd} {f : Frame} {t : State} (e : s.takeHead p c = some (f, t))
    (hs : P s) : P t := by
  unfold State.takeHead at e
  dsimp only at e
  split at e
  · cases e
  · split at e
    · cases e
    · split at e
      · cases e
      · split at e
        · cases e
        · cases e; exact h.modPort _ _ hs

/-- A command taken from a queue keeps what its owning block keeps. -/
theorem Stable.taking (p : Port) (c : Cmd) {owner : Frame → State → State} (own : ∀ f t, P t → P (owner f t))
    (hs : P s) : P (s.taking p c owner) := by
  unfold State.taking
  split
  · exact hs
  · rename_i e
    split
    · exact own _ _ (h.takeHead e hs)
    · exact h.complete _ _ _ _ (h.takeHead e hs)

theorem Stable.settlePort (p : Port) (hs : P s) : P (s.settlePort p) := by
  unfold State.settlePort
  dsimp only
  split
  · split
    · split
      · exact h.portChange _ (h.modPort _ _ (h.completeHeld _ _ _ _ _ _ hs))
      · exact hs
    · exact hs
  · split
    · split
      · exact h.modPort _ _ hs
      · exact h.portChange _ (h.modPort _ _ hs)
    · exact hs
  · exact hs

theorem Stable.settle (hs : P s) : P s.settle := h.settlePort _ (h.settlePort _ hs)

/-! ## Surfaces and posters -/

theorem Stable.setState (i : Nat) (st : SurfaceState) (hs : P s) :
    P (s.modSurface i (fun x => { x with state := st })) := h.surface _ _ _ ⟨fun _ => rfl, fun _ => rfl, fun _ => rfl⟩ hs

theorem Stable.setAttached (i : Nat) (a : Option (StreamId × Nat)) (hs : P s) :
    P (s.modSurface i (fun x => { x with attached := a })) := h.surface _ _ _ ⟨fun _ => rfl, fun _ => rfl, fun _ => rfl⟩ hs

theorem Stable.setRefs (i : Nat) (f : Surface → PerPort Nat) (hs : P s) :
    P (s.modSurface i (fun x => { x with refs := f x })) := h.surface _ _ _ ⟨fun _ => rfl, fun _ => rfl, fun _ => rfl⟩ hs

theorem Stable.retireOrFree (i : Nat) (hs : P s) : P (s.retireOrFree i) := by
  unfold State.retireOrFree; split
  · exact h.setState _ _ hs
  · exact h.free _ _ hs

theorem Stable.freeRetired (hs : P s) : P s.freeRetired :=
  foldl_keeps (fun t i ht => by
    split
    · exact h.free _ _ ht
    · exact ht) _ hs

theorem Stable.tearSurfaces (p : Port) (hs : P s) : P (s.tearSurfaces p) :=
  foldl_keeps (fun t i ht => by
    split
    · split
      · exact h.retireOrFree _ ht
      · exact ht
    · exact ht) _ hs

theorem Stable.freePoster (i : Nat) (hs : P s) : P (s.freePoster i) := by
  unfold State.freePoster
  split
  · split
    · exact hs
    · split
      · exact h.free _ _ hs
      · exact h.retireOrFree _ hs
      · exact hs
  · exact hs

theorem Stable.joinIdle (i : Nat) (hs : P s) : P (s.joinIdle i) := h.modCache _ hs

theorem Stable.unpinEvent (i : Nat) (hs : P s) : P (s.unpinEvent i) := by
  unfold State.unpinEvent
  split
  · exact hs
  · split
    · split
      · split
        · exact hs
        · exact h.joinIdle _ hs
      · split
        · exact h.freePoster _ (h.modCache _ hs)
        · exact hs
    · exact hs

theorem Stable.drainToIdle (hs : P s) : P s.drainToIdle :=
  foldl_keeps (fun t i ht => by
    split
    · exact h.joinIdle _ ht
    · exact ht) _ hs

theorem Stable.unmap (i : Nat) (hs : P s) : P (s.unmap i) := h.modCache _ hs

theorem Stable.removeResident (i : Nat) (hs : P s) : P (s.removeResident i) := by
  unfold State.removeResident
  dsimp only
  split
  · exact h.modCache _ (h.unmap _ hs)
  · exact h.freePoster _ (h.modCache _ (h.unmap _ hs))

theorem Stable.damagedPoster (i : Nat) (hs : P s) : P (s.damagedPoster i) := by
  unfold State.damagedPoster
  split
  · split
    · exact h.removeResident _ hs
    · exact h.modCache _ (h.unmap _ hs)
    · exact h.unmap _ hs
  · exact hs

theorem Stable.reportUnnamed (before : State) (hs : P s) : P (State.reportUnnamed before s) :=
  foldl_keeps (fun _ _ ht => h.unpinEvent _ ht) _ hs

/-! ## Outputs and layers -/

theorem Stable.panelNotice (o : OutputId) (hs : P s) : P (s.panelNotice o) := h.publish _ _ hs

theorem Stable.targetChanged (o : OutputId) (w : Wish) (hs : P s) : P (s.targetChanged o w) := by
  unfold State.targetChanged
  split
  · split
    · exact h.panelNotice _ (h.modOut _ _ hs)
    · exact h.panelNotice _ (h.modOut _ _ hs)
    · exact hs
  · exact hs

theorem Stable.setWish (p : Port) (w : Option Wish) (o : OutputId) (hs : P s) : P (s.setWish p w o) := by
  unfold State.setWish
  dsimp only
  split
  · split
    · exact h.modOut _ _ hs
    · exact h.targetChanged _ _ (h.modOut _ _ hs)
  · exact hs

theorem Stable.setWishes (p : Port) (w : Option Wish) (hs : P s) : P (s.setWishes p w) :=
  h.setWish _ _ _ (h.setWish _ _ _ hs)

theorem Stable.writePending (layers : KeepsLayers P) (id : Nat) (c : LayerCopy) (hs : P s) : P (s.writePending id c) :=
  h.reportUnnamed _ (layers _ _ (setPending_length _ _ _) hs)

theorem Stable.completeLatches (o : OutputId) (n : Word32) (es : List LatchEntry) (hs : P s) :
    P (completeLatches o n es s) := foldl_keeps (fun _ _ ht => h.completeHeld _ _ _ _ _ _ ht) _ hs

theorem Stable.takeLatches (layers : KeepsLayers P) (o : OutputId) (hs : P s) : P (s.takeLatches o) := by
  unfold State.takeLatches
  dsimp only
  refine h.reportUnnamed _ (h.completeLatches _ _ _ (h.modOut _ _ (layers _ _ ?_ hs)))
  split <;> split <;> simp [latchWrite_length]

theorem Stable.formSets (o : OutputId) (hs : P s) : P (s.formSets o) := by
  unfold State.formSets; exact h.modOut _ _ hs

theorem Stable.tearLayersOn (layers : KeepsLayers P) (p : Port) (o : OutputId) (hs : P s) : P (s.tearLayersOn p o) := by
  unfold State.tearLayersOn
  dsimp only
  split
  · exact hs
  · split
    · exact h.completeLatches _ _ _ (h.modOut _ _ (layers _ _ (latchWrite_length _ _ _) hs))
    · exact h.modOut _ _ hs

theorem Stable.tearLayers (layers : KeepsLayers P) (p : Port) (hs : P s) : P (s.tearLayers p) :=
  h.reportUnnamed _ (h.tearLayersOn layers _ _ (h.tearLayersOn layers _ _ (layers _ _ (clearPending_length _ _) hs)))

/-! ## Streams -/

theorem Stable.streamNotice (i : StreamId) (hs : P s) : P (s.streamNotice i) := h.publish _ _ hs

theorem Stable.slotFreed (i : StreamId) (k : Nat) (hs : P s) : P (s.slotFreed i k) := by
  unfold State.slotFreed; split
  · exact h.notify _ _ hs
  · exact hs

theorem Stable.emptySlot (i : StreamId) (k : Nat) (hs : P s) : P (s.emptySlot i k) :=
  h.slotFreed _ _ (h.modStream _ _ hs)

theorem Stable.releaseSlot (i : StreamId) (k : Nat) (hs : P s) : P (s.releaseSlot i k) := by
  unfold State.releaseSlot
  split
  · split
    · exact h.modStream _ _ hs
    · exact h.emptySlot _ _ hs
  · exact hs

theorem Stable.attachSlots (i : StreamId) : ∀ (k : Nat) (hs' : List Handle) {s : State}, P s → P (attachSlots i k hs' s)
  | _, [], _, hs => hs
  | _, _ :: rest, _, hs => Stable.attachSlots i _ rest (h.setAttached _ _ hs)

theorem Stable.onStream (p : Port) (f : Frame) {body : StreamId → State → State} (own : ∀ i, P s → P (body i s))
    (hs : P s) : P (s.onStream p f body) := by
  unfold State.onStream
  split
  · exact h.complete _ _ _ _ hs
  · exact own _ hs

theorem Stable.completeStream (p : Port) (f : Frame) (i : StreamId) (hs : P s) : P (s.completeStream p f i) :=
  h.complete _ _ _ _ hs

theorem Stable.haltStream (i : StreamId) (hs : P s) : P (s.haltStream i) := by
  unfold State.haltStream
  dsimp only
  refine h.modStream _ _ ?_
  have hr := foldl_keeps (fun t k (ht : P t) => h.releaseSlot i k ht) (s.streams.get i).ready
    (h.modStream i (fun r => { r with ready := [] }) hs)
  split
  · exact h.releaseSlot _ _ hr
  · exact hr

theorem Stable.detachSlots (xs : List Slot) (hs : P s) : P (detachSlots xs s) :=
  foldl_keeps (fun _ _ ht => h.setAttached _ _ ht) _ hs

theorem Stable.finishClose (i : StreamId) (hs : P s) : P (s.finishClose i) := by
  unfold State.finishClose
  dsimp only
  split
  · have ht := h.streamNotice i (h.modStream i
      (fun _ => { StreamRecord.reset with clock := (s.streams.get i).clock }) (h.detachSlots (s.streams.get i).slots hs))
    split
    · exact h.completeHeld _ _ _ _ _ _ ht
    · exact ht
  · exact hs

theorem Stable.beginClose (i : StreamId) (tag : Option Byte) (hs : P s) : P (s.beginClose i tag) :=
  h.finishClose _ (h.streamNotice _ (h.modStream _ _ (h.haltStream _ hs)))

theorem Stable.selectFrame (i : StreamId) (hs : P s) : P (s.selectFrame i) := by
  unfold State.selectFrame
  dsimp only
  have hc : P (s.modCounters (fun c => c.onStream i (selectionCounters (s.streams.get i)))) := by
    refine h.counters _ _ (Counters.le_onStream _ _ _ fun k => ?_) hs
    simp only [selectionCounters, StreamCounters.values, List.forall₂_cons, List.forall₂_nil_left_iff, and_true]
    refine ⟨?_, satAdd_le _ _, ?_, ?_⟩ <;> split <;> simp [satSucc_le]
  split
  · exact hc
  · split
    · exact h.releaseSlot _ _ (foldl_keeps (fun t k ht => h.releaseSlot i k ht) _ (h.modStream _ _ hc))
    · exact foldl_keeps (fun t k ht => h.releaseSlot i k ht) _ (h.modStream _ _ hc)

theorem Stable.streamField (i : StreamId) (o : OutputId) (n : Nat) (hs : P s) : P (s.streamField i o n) := by
  unfold State.streamField
  dsimp only
  split
  · exact hs
  · split
    · exact h.streamNotice _ (h.selectFrame _ (h.modStream _ _ hs))
    · exact h.selectFrame _ (h.modStream _ _ hs)
    · exact h.selectFrame _ hs
    · exact hs

theorem Stable.releaseStream (i : StreamId) (hs : P s) : P (s.releaseStream i) :=
  h.finishClose _ (foldl_keeps (fun _ _ ht => h.emptySlot _ _ ht) _ hs)

theorem Stable.reportHoldSets (hs : P s) : P s.reportHoldSets :=
  h.settle (h.drainToIdle (h.freeRetired (h.releaseStream _ (h.releaseStream _ hs))))

theorem Stable.tearStream (p : Port) (i : StreamId) (hs : P s) : P (s.tearStream p i) := by
  unfold State.tearStream
  dsimp only
  split
  · exact h.beginClose _ _ hs
  · exact hs

theorem Stable.tearStreams (p : Port) (hs : P s) : P (s.tearStreams p) :=
  h.freeRetired (h.tearStream _ _ (h.tearStream _ _ hs))

/-! ## Flash and loader -/

theorem Stable.giveNext (hs : P s) : P s.giveNext := h.modArbiter _ hs

theorem Stable.requestRead (r : FlashRange) (hs : P s) : P (s.requestRead r) := h.giveNext (h.modArbiter _ hs)

theorem Stable.queueFlashOp (p : Port) (f : Frame) (k : FlashOpKind) (hs : P s) : P (queueFlashOp p f k s) :=
  h.giveNext (h.modArbiter _ (h.enter _ _ hs))

theorem Stable.cancelFlash (p : Port) (hs : P s) : P (s.cancelFlash p) :=
  foldl_keeps (fun _ _ ht => h.modPort _ _ (h.completeHeld _ _ _ _ _ _ ht)) _ (h.modArbiter _ hs)

theorem Stable.placeholderWaiters (title : Nat) (r : PlaceholderReason) (ws : List Waiter) (hs : P s) :
    P (s.placeholderWaiters title r ws) := foldl_keeps (fun _ _ ht => h.completeHeld _ _ _ _ _ _ ht) _ hs

theorem Stable.failHead (r : PlaceholderReason) (hs : P s) : P (s.failHead r) := by
  unfold State.failHead
  split
  · exact hs
  · refine h.placeholderWaiters _ _ _ (h.counters _ _ (Counters.le_posters _ _ ?_) (h.modCache _ hs))
    simp [PosterCounters.values, satSucc_le]

theorem Stable.evict (i : Nat) (hs : P s) : P (s.evict i) := by
  unfold State.evict
  refine h.counters _ _ (Counters.le_posters _ _ ?_) (h.freePoster _ (h.modCache _ (h.unmap _ hs)))
  simp [PosterCounters.values, satSucc_le]

theorem Stable.allocatePoster (f : Format) (w ht : Nat) : ∀ (fuel : Nat) {s : State}, P s →
    P (State.allocatePoster f w ht fuel s).2
  | 0, _, hs => hs
  | fuel + 1, s, hs => by
    unfold State.allocatePoster
    split
    · rename_i e1 e2
      exact h.allocate _ _ _ _ _ _ _ _ e2 e1 (by decide) (by decide) hs
    · split
      · exact Stable.allocatePoster f w ht fuel (h.evict _ hs)
      · exact hs

theorem Stable.loaderAllocate (r : DirRecord) (hs : P s) : P (s.loaderAllocate r) := by
  unfold State.loaderAllocate
  split
  · exact h.failHead _ hs
  · have hp := h.allocatePoster r.format r.width r.height (s.cache.idle.length + 1) hs
    split
    · rename_i e; rw [e] at hp; exact h.failHead _ hp
    · rename_i e; rw [e] at hp
      refine h.requestRead _ (h.modArbiter _ (h.counters _ _ (Counters.le_posters _ _ ?_) (h.modCache _ hp)))
      simp [PosterCounters.values, satSucc_le]

theorem Stable.loaderBegin (hs : P s) : P s.loaderBegin := by
  unfold State.loaderBegin
  split
  · exact hs
  · split
    · exact h.modCache _ hs
    · split
      · exact h.failHead _ hs
      · split
        · exact h.modCache _ hs
        · exact h.loaderAllocate _ hs

theorem Stable.answerLoader (hs : P s) : P s.answerLoader := by
  unfold State.answerLoader; split
  · exact h.loaderBegin hs
  · exact hs

theorem Stable.countMiss (hs : P s) : P s.countMiss :=
  h.counters _ _ (Counters.le_posters _ _ (by simp [PosterCounters.values, satSucc_le])) hs

theorem Stable.joinLoad (p : Port) (f : Frame) (title : Nat) (hs : P s) : P (s.joinLoad p f title) :=
  h.countMiss (h.modCache _ (h.enter _ _ hs))

theorem Stable.newLoad (p : Port) (f : Frame) (title : Nat) (hs : P s) : P (s.newLoad p f title) :=
  h.countMiss (h.modCache _ (h.enter _ _ hs))

theorem Stable.posterHit (p : Port) (f : Frame) (title i : Nat) (hs : P s) : P (s.posterHit p f title i) := by
  unfold State.posterHit
  split
  · split
    · exact h.joinLoad _ _ _ hs
    · split
      · exact h.complete _ _ _ _ hs
      · refine h.complete _ _ _ _ (h.counters _ _ (Counters.le_posters _ _ ?_) (h.modCache _ (h.setRefs _ _ hs)))
        simp [PosterCounters.values, satSucc_le]
  · exact h.complete _ _ _ _ hs

theorem Stable.queueLoad (p : Port) (f : Frame) (title : Nat) (hs : P s) : P (s.queueLoad p f title) := by
  unfold State.queueLoad; split
  · exact h.completePlaceholder _ _ _ _ hs
  · exact h.newLoad _ _ _ hs

theorem Stable.grantWaiters (i title : Nat) (ws : List Waiter) (hs : P s) : P (s.grantWaiters i title ws) :=
  foldl_keeps (fun _ _ ht => h.completeHeld _ _ _ _ _ _ (h.setRefs _ _ ht)) _ hs

theorem Stable.leaveHead (hs : P s) : P s.leaveHead := h.modArbiter _ (h.modCache _ hs)

theorem Stable.loadEnd (f : Fill) (hs : P s) : P (s.loadEnd f) := by
  unfold State.loadEnd
  dsimp only
  split
  · have ht := h.leaveHead (h.grantWaiters f.surface f.title (((s.cache.queue.head?).map (·.waiters)).getD [])
      (h.setState f.surface .resident hs))
    split
    · split
      · exact ht
      · exact h.joinIdle _ ht
    · split
      · exact h.modCache _ ht
      · exact h.freePoster _ ht
  · exact h.modArbiter _ (h.failHead _ (h.freePoster _ (h.unmap _ (h.modCache _ hs))))

theorem Stable.fillStep (frame : ∀ s pages off bs, P s → P (s.writeSurface pages off bs).1) (f : Fill)
    (data : List Byte) (hs : P s) : P (s.fillStep f data) := by
  unfold State.fillStep
  dsimp only
  split
  · exact h.modArbiter _ (h.modCache _ (frame _ _ _ _ hs))
  · exact h.loadEnd _ (frame _ _ _ _ hs)

theorem Stable.dropRefs (p : Port) (i : Nat) (hs : P s) : P (s.dropRefs p i) := by
  unfold State.dropRefs
  split
  · split
    · exact h.unpinEvent _ (h.setRefs _ _ hs)
    · exact hs
  · exact hs

theorem Stable.tearPosters (p : Port) (hs : P s) : P (s.tearPosters p) := by
  unfold State.tearPosters
  dsimp only
  have ht := foldl_keeps (fun t i (ht : P t) => h.dropRefs p i ht) surfaceIndices
    (foldl_keeps (fun t tag (ht : P t) => (h.modPort p (fun q => { q with cancelled := q.cancelled + 1 })
        (h.completeHeld p .loadPoster tag .cancelled none .none ht) : P (t.cancelLoad p tag)))
      (waiterTags p s.cache.queue)
      (h.modCache (fun c => { c with queue := dropWaiters p s.cache.work.serving c.queue }) hs))
  split
  · exact h.loaderBegin ht
  · exact ht

theorem Stable.tearFlash (p : Port) (hs : P s) : P (s.tearFlash p) := by
  unfold State.tearFlash
  dsimp only
  split
  · exact h.answerLoader (h.cancelFlash _ hs)
  · exact h.cancelFlash _ hs

/-! ## Teardown and reload -/

theorem Stable.tearDown (layers : KeepsLayers P) (p : Port) (hs : P s) : P (s.tearDown p) :=
  h.tearSurfaces _ (h.tearFlash _ (h.tearPosters _ (h.tearStreams _ (h.tearLayers layers _ (h.modPort _ _
    (h.setWishes _ _ hs))))))

theorem Stable.portReset (layers : KeepsLayers P) (p : Port) (hs : P s) : P (s.portReset p) := by
  unfold State.portReset
  dsimp only
  refine h.settle (h.portChange _ ?_)
  split
  · exact h.tearDown layers _ (h.modPort _ _ hs)
  · exact h.modPort _ _ hs

theorem Stable.askRead (r : FlashRange) (w : LoaderWork) (hs : P s) : P (s.askRead r w) :=
  h.modArbiter _ (h.modCache _ hs)

theorem Stable.beginReload (hs : P s) : P s.beginReload := h.askRead _ _ (h.modArbiter _ hs)

theorem Stable.failQueue (hs : P s) : P s.failQueue :=
  foldl_keeps (fun _ _ ht => h.placeholderWaiters _ _ _ ht) _ (h.modCache _ hs)

theorem Stable.completeReload (st : Status) (r : Result) (hs : P s) : P (s.completeReload st r) := by
  unfold State.completeReload; split
  · exact hs
  · exact h.completeHeld _ _ _ _ _ _ (h.modCache _ hs)

theorem Stable.reloadPass (d : Option (List DirRecord)) (x : State × ReloadTally) (i : Nat) (hs : P x.1) :
    P (reloadPass d x i).1 := by
  unfold Machine.reloadPass
  split
  · exact hs
  · split
    · split
      · exact h.removeResident _ hs
      · refine h.counters _ _ (Counters.le_posters _ _ ?_) (h.removeResident _ hs)
        simp [PosterCounters.values, satSucc_le]
    · exact hs

theorem Stable.reloadPasses (d : Option (List DirRecord)) (is : List Nat) : ∀ x : State × ReloadTally, P x.1 →
    P (is.foldl (Machine.reloadPass d) x).1 := by
  induction is with
  | nil => exact fun _ hs => hs
  | cons i is ih => exact fun x hs => ih _ (h.reloadPass d x i hs)

theorem Stable.reloadFinish (d : Option (List DirRecord)) (st : DirStatus) (hs : P s) : P (s.reloadFinish d st) := by
  unfold State.reloadFinish
  dsimp only
  have hp := h.reloadPasses d surfaceIndices (_, ⟨0, 0⟩)
    (h.modArbiter (fun a => { a with reread := false })
      (h.modCache (fun c => { c with directory := d, work := .idle }) hs))
  split
  · exact h.completeReload _ _ (h.failQueue hp)
  · exact h.completeReload _ _ hp

theorem Stable.fillEnd (frame : ∀ s pages off bs, P s → P (s.writeSurface pages off bs).1) (f : Fill)
    (data : List Byte) (hs : P s) : P (s.fillEnd f data) := by
  unfold State.fillEnd
  dsimp only
  split
  · exact h.beginReload (h.fillStep frame _ _ hs)
  · exact h.fillStep frame _ _ hs

/-! ## The field start and the damage report -/

theorem Stable.fieldStart (layers : KeepsLayers P) (o : OutputId) (hs : P s) : P (s.fieldStart o) := by
  unfold State.fieldStart
  dsimp only
  refine h.modOut _ _ (h.reportHoldSets (h.modOut _ _ (h.formSets _ (h.takeLatches layers _ (h.streamField _ _ _
    (h.streamField _ _ _ (h.publish _ _ ?_)))))))
  have hc : P ((s.modOut o OutputState.advance).modCounters
      (fun c => c.onOutput o (fun k => { k with fields := satSucc k.fields }))) :=
    h.counters _ _ (Counters.le_onOutput _ o _ (fun k => by simp [OutputCounters.values, satSucc_le]))
      (h.modOut o OutputState.advance hs)
  unfold State.settleOutput
  dsimp only
  split
  · exact hc
  · exact h.panelNotice _ (h.modOut _ _ hc)

theorem Stable.markDamage (page : Nat) (hs : P s) : P (s.markDamage page) := by
  unfold State.markDamage
  split
  · split
    · exact h.damagedPoster _ (h.surface _ _ _ ⟨fun _ => rfl, fun _ => rfl, fun _ => rfl⟩ hs)
    · exact hs
  · exact hs

end

end Sys2Proof.Machine
end

