-- ==== Sys2Proof/Laws/Exec.lean ====
section
/-! SUPPORT. One theorem over all commands: a property that the common changes keep (`Stable`) and that the few other
changes a command makes keep too is kept by that command. The other changes are named here once: the writes of frame
memory and of the flash, the budgets a configuration brings, the RESTART and cold-reset states, the error block. -/

namespace Sys2Proof.Machine

/-- What a property must be kept by, beside the common changes, for the command `c` on the state `s₀` to keep it. -/
structure KeptBy (P : State → Prop) (c : Instr) (s₀ : State) : Prop extends Stable P where
  layers : KeepsLayers P
  frame : (∃ p, c = .writeSurface p) ∨ c = .loaderReadEnd →
    ∀ s pages off bs, P s → P (s.writeSurface pages off bs).1
  configure : c = .loaderReadEnd → (∃ m, s₀.cache.work = .startConfig m) → ∀ s i d, P s → P (s.configure i d)
  program : c = .flashOperationDone → ∀ s off data, P s → P { s with flash := programFlash s.flash off data }
  erase : c = .flashOperationDone → ∀ s off, P s → P { s with flash := eraseFlash s.flash off }
  spoil : c = .deviceAcceptsCommands → ∀ s r f, P s → P (s.spoilFlash r f)
  blocks : (∃ p, c = .restart p) → ∀ s, P s → P s.restartBlocks
  note : ∀ r b, c = .eccUncorrectable r b → b.valid = true → ∀ s, P s → P (s.noteResult r b)
  faulted : (∃ r b, c = .eccUncorrectable r b) → ∀ s, P s → P { s with errors := { s.errors with fault := true } }
  clear : (∃ p, c = .clearError p) →
    ∀ s, P s → P { s with errors := { s.errors with capture := s.errors.capture.clear } }
  cold : ∀ a b, c = .coldReset a b → ∀ s, P s → P (s.coldReset a b)

section
variable {P : State → Prop} {s : State} (h : Stable P)
include h

/-! ## Start-up -/

theorem Stable.completeRestart (hs : P s) : P s.completeRestart := by
  unfold State.completeRestart
  split
  · exact hs
  · exact h.completeHeld _ _ _ _ _ _ (h.startUp _ _ hs)

theorem Stable.finishStart (hs : P s) : P s.finishStart := by
  unfold State.finishStart
  dsimp only
  have ho := h.outputs s ⟨s.outputs.o0.bringUp s.errors.fault, s.outputs.o1.bringUp s.errors.fault⟩ hs
  exact h.completeRestart (h.modCache _ (h.startUp _ { s.startUp with starting := false } ho))

theorem Stable.modStatus (f : ConfigStatus → ConfigStatus) (hs : P s) : P (s.modStatus f) := h.startUp _ _ hs

variable (frame : ∀ s pages off bs, P s → P (s.writeSurface pages off bs).1)
include frame

theorem Stable.fallbackFail (hs : P s) : P s.fallbackFail := h.modStatus _ (frame _ _ _ _ hs)

theorem Stable.beginFallback (hs : P s) : P s.beginFallback := by
  unfold State.beginFallback
  split
  · exact h.finishStart (h.fallbackFail frame hs)
  · exact h.askRead _ _ hs

theorem Stable.fallbackStep (off : Nat) (w : Word32) (k : Nat) (crc : Word32) (data : List Byte) (hs : P s) :
    P (s.fallbackStep off w k crc data) := by
  unfold State.fallbackStep
  dsimp only
  split
  · exact h.askRead _ _ (frame _ _ _ _ hs)
  · split
    · exact h.finishStart (frame _ _ _ _ hs)
    · exact h.finishStart (h.fallbackFail frame (frame _ _ _ _ hs))

theorem Stable.directoryEnd (d : Option (List DirRecord)) (st : DirStatus) (hs : P s) : P (s.directoryEnd d st) := by
  unfold State.directoryEnd
  split
  · exact h.beginFallback frame (h.modStatus _ (h.modArbiter _ (h.modCache _ hs)))
  · exact h.reloadFinish _ _ hs

theorem Stable.directoryGo (d : DirLoad) (hs : P s) : P (s.directoryGo d) := by
  unfold State.directoryGo
  split
  · exact h.askRead _ _ hs
  · exact h.directoryEnd frame _ _ hs

theorem Stable.beginDirectory (src : Option (Nat × Nat × Word32)) (hs : P s) : P (s.beginDirectory src) := by
  unfold State.beginDirectory
  split
  · exact h.directoryEnd frame _ _ hs
  · exact h.directoryGo frame _ hs

theorem Stable.startConfigStep (configure : ∀ s i d, P s → P (s.configure i d)) (m : ReadMode) (data : List Byte)
    (hs : P s) : P (s.startConfigStep m data) := by
  have apply' : ∀ {t} (i : Image) (d : Bool), P t → P (t.applyImage i d) := fun i d ht =>
    h.beginDirectory frame _ (configure _ _ _ ht)
  unfold State.startConfigStep
  split
  · exact apply' _ _ hs
  · split
    · exact h.askRead _ _ (h.modArbiter _ hs)
    · exact h.askRead _ _ (h.modArbiter _ hs)
    · exact apply' _ _ (h.modArbiter _ hs)

theorem Stable.loaderStep (configure : (∃ m, s.cache.work = .startConfig m) → ∀ s i d, P s → P (s.configure i d))
    (data : List Byte) (hs : P s) : P (s.loaderStep data) := by
  unfold State.loaderStep
  split
  · exact h.fillEnd frame _ _ hs
  · next m e => exact h.startConfigStep frame (configure ⟨m, e⟩) _ _ hs
  · unfold State.reloadConfigStep
    split
    · exact h.beginDirectory frame _ hs
    · exact h.reloadFinish _ _ hs
  · exact h.directoryGo frame _ hs
  · exact h.fallbackStep frame _ _ _ _ _ hs
  · exact hs
  · exact hs

end

section
variable {P : State → Prop} {s : State} (h : Stable P)
include h

/-! ## The commands with their own changes -/

theorem Stable.dropQueue (p : Port) (hs : P s) : P (s.dropQueue p) :=
  foldl_keeps (fun _ f ht => h.complete p f _ _ ht) _ (h.modPort _ _ hs)

theorem Stable.restart (blocks : ∀ s, P s → P s.restartBlocks) (p : Port) (f : Frame) (hs : P s) :
    P (Machine.restart p f s) := by
  unfold Machine.restart
  dsimp only
  split
  · exact h.complete _ _ _ _ hs
  · split
    · exact h.complete _ _ _ _ hs
    · have hd := h.dropQueue p.other (h.modPort p.other (fun q => { q with baselines := Counters.zero })
        (h.modPort p PortState.restartIssuer (h.enter p f hs)))
      exact h.startUp _ _ (blocks _ hd)

theorem Stable.uncorrectable (r : Reader) (b : Burst) (note : ∀ s, P s → P (s.noteResult r b))
    (faulted : ∀ s, P s → P { s with errors := { s.errors with fault := true } }) (hs : P s) :
    P (s.uncorrectable r b) := by
  have hf : ∀ {t}, P t → P t.enterFault := fun ht => by
    unfold State.enterFault
    dsimp only
    split
    · exact faulted _ ht
    · exact h.reportHoldSets (h.outputs _ _ (faulted _ ht))
  unfold State.uncorrectable
  dsimp only
  have hm := h.markDamage b.page (note _ hs)
  have hm' : P (if (s.errors.overflows b.page && !s.errors.fault) = true
      then ((s.noteResult r b).markDamage b.page).enterFault else (s.noteResult r b).markDamage b.page) := by
    split
    · exact hf hm
    · exact hm
  generalize (if (s.errors.overflows b.page && !s.errors.fault) = true
      then ((s.noteResult r b).markDamage b.page).enterFault else (s.noteResult r b).markDamage b.page) = u at hm'
  split
  · exact h.notify _ _ (h.notify _ _ (h.notify _ _ (h.notify _ _ hm')))
  · exact h.notify _ _ (h.notify _ _ hm')

theorem Stable.countCorrected (hs : P s) : P s.countCorrected :=
  h.counters _ _ (Counters.le_memory _ _ (by simp [MemoryCounters.values, satSucc_le])) hs

theorem Stable.commandFrame (p : Port) (bs : List Byte) (hs : P s) : P (s.commandFrame p bs) := by
  refine h.counters _ _ (Counters.le_onPort _ p _ fun k => ?_) (h.modPort _ _ hs)
  cases (s.judge p bs) <;> simp [LinkAck.count, PortCounters.values, satSucc_le]

theorem Stable.writePhase (p : Port) (bs : List Byte) (hs : P s) : P (s.writePhase p bs) := by
  unfold State.writePhase
  split
  · exact hs
  · split
    · split
      · exact h.modPort _ _ hs
      · exact h.freeCount _ _ (h.modPort _ _ hs)
    · split
      · exact h.modPort _ _ hs
      · exact h.commandFrame _ _ hs

theorem Stable.countLine (o : OutputId) (a b : Nat) (hs : P s) : P (State.countLine o a b s) := by
  refine h.counters _ _ (Counters.le_onOutput _ o _ fun k => ?_) hs
  simp [OutputCounters.values, satAdd_le]

theorem Stable.fetchLine (o : OutputId) (reads : List BurstRead) (hs : P s) : P (s.fetchLine o reads) :=
  h.countLine _ _ _ (h.modOut _ _ hs)

theorem Stable.composeColumns (o : OutputId) (xs : List Nat) (hs : P s) : P (s.composeColumns o xs) := by
  unfold State.composeColumns
  exact h.modOut _ _ (h.fetchLine _ _ hs)

theorem Stable.endLine (o : OutputId) (xs : List Nat) (hs : P s) : P (s.endLine o xs) := h.countLine _ _ _ (h.modOut _ _ hs)

theorem Stable.composeLine (o : OutputId) (reads : List BurstRead) (n : Nat) (hs : P s) :
    P (s.composeLine o reads n) := by
  unfold State.composeLine
  dsimp only
  split
  · exact hs
  · split
    · exact h.endLine _ _ (h.fetchLine o reads hs)
    · exact h.composeColumns _ _ (h.fetchLine o reads hs)

theorem Stable.takeAttach (p : Port) (hs : P s) : P (s.takeAttach p) := by
  unfold State.takeAttach
  split
  · exact hs
  · next e =>
    have ht := h.takeHead e hs
    split
    · exact h.portChange _ (h.complete _ _ _ _ (h.setWishes _ _ (h.modPort _ _ ht)))
    · exact h.complete _ _ _ _ ht
    · exact h.complete _ _ _ _ ht

theorem Stable.takeUnknown (p : Port) (hs : P s) : P (s.takeUnknown p) := by
  unfold State.takeUnknown
  split
  · exact hs
  · next e => exact h.complete _ _ _ _ (h.takeHead e hs)

theorem Stable.endFlashOp (p : Port) (op : FlashOp) (c : Cmd) (st : Status) (res : Result) (hs : P s) :
    P ((((s.modArbiter (fun a => a.endPort p op)).completeHeld p c op.tag st none res).giveNext).answerLoader).settle :=
  h.settle (h.answerLoader (h.giveNext (h.completeHeld _ _ _ _ _ _ (h.modArbiter _ hs))))

/-! ## The commands of the link, by their owning blocks -/

theorem Stable.subscribe (p : Port) (f : Frame) (hs : P s) : P (Machine.subscribe p f s) := by
  unfold Machine.subscribe; dsimp only; split
  · exact h.complete _ _ _ _ hs
  · exact h.complete _ _ _ _ (h.modPort _ _ hs)

theorem Stable.readStatistics (p : Port) (f : Frame) (hs : P s) : P (Machine.readStatistics p f s) := by
  unfold Machine.readStatistics; dsimp only; split
  · exact h.complete _ _ _ _ hs
  · split
    · exact h.complete _ _ _ _ (h.modPort _ _ hs)
    · exact h.complete _ _ _ _ hs

theorem Stable.defineSurface (p : Port) (f : Frame) (hs : P s) : P (Machine.defineSurface p f s) := by
  unfold Machine.defineSurface; dsimp only
  split
  · exact h.complete _ _ _ _ hs
  · split
    · exact h.complete _ _ _ _ hs
    · next hr =>
      split
      · exact h.complete _ _ _ _ hs
      · split
        · exact h.complete _ _ _ _ hs
        · next hi =>
          exact h.complete _ _ _ _ (h.allocate _ _ _ _ _ _ _ _ hi hr (by cases p <;> decide) (by decide) hs)

theorem Stable.writeSurface (frame : ∀ s pages off bs, P s → P (s.writeSurface pages off bs).1) (p : Port) (f : Frame)
    (hs : P s) : P (Machine.writeSurface p f s) := by
  unfold Machine.writeSurface; dsimp only
  split
  · exact h.complete _ _ _ _ hs
  · split
    · exact h.complete _ _ _ _ (frame _ _ _ _ hs)
    · exact h.complete _ _ _ _ (frame _ _ _ _ hs)

theorem Stable.freeSurface (p : Port) (f : Frame) (hs : P s) : P (Machine.freeSurface p f s) := by
  unfold Machine.freeSurface; dsimp only
  split
  · exact h.complete _ _ _ _ hs
  · exact h.complete _ _ _ _ (h.retireOrFree _ hs)

theorem Stable.setLayer (layers : KeepsLayers P) (p : Port) (f : Frame) (hs : P s) : P (Machine.setLayer p f s) := by
  unfold Machine.setLayer; dsimp only
  split
  · exact h.complete _ _ _ _ hs
  · split
    · exact h.complete _ _ _ _ hs
    · split
      · exact h.complete _ _ _ _ hs
      · split
        · exact h.complete _ _ _ _ hs
        · split
          · exact h.complete _ _ _ _ hs
          · exact h.complete _ _ _ _ (h.writePending layers _ _ hs)

theorem Stable.clearLayer (layers : KeepsLayers P) (p : Port) (f : Frame) (hs : P s) : P (Machine.clearLayer p f s) := by
  unfold Machine.clearLayer; dsimp only
  split
  · exact h.complete _ _ _ _ hs
  · split
    · exact h.complete _ _ _ _ (h.writePending layers _ _ hs)
    · exact h.complete _ _ _ _ hs

theorem Stable.latch (p : Port) (f : Frame) (hs : P s) : P (Machine.latch p f s) := by
  unfold Machine.latch; split
  · exact h.complete _ _ _ _ hs
  · exact h.modOut _ _ (h.enter _ _ hs)

theorem Stable.setPanel (p : Port) (f : Frame) (hs : P s) : P (Machine.setPanel p f s) := by
  unfold Machine.setPanel; dsimp only
  split
  · exact h.complete _ _ _ _ hs
  · split
    · exact h.complete _ _ _ _ hs
    · exact h.complete _ _ _ _ (h.setWish _ _ _ hs)

theorem Stable.openStream (p : Port) (f : Frame) (hs : P s) : P (Machine.openStream p f s) := by
  unfold Machine.openStream; dsimp only
  split
  · exact h.complete _ _ _ _ hs
  · split
    · exact h.complete _ _ _ _ hs
    · split
      · exact h.complete _ _ _ _ hs
      · split
        · exact h.complete _ _ _ _ hs
        · split
          · exact h.complete _ _ _ _ hs
          · split
            · exact h.complete _ _ _ _ hs
            · exact h.complete _ _ _ _ (h.streamNotice _ (h.modStream _ _ (h.attachSlots _ _ _ hs)))

theorem Stable.startStream (p : Port) (f : Frame) (hs : P s) : P (Machine.startStream p f s) := by
  refine h.onStream p f (fun i hs => ?_) hs
  try dsimp only
  split
  · exact h.complete _ _ _ _ hs
  · exact h.completeStream _ _ _ (h.streamNotice _ (h.modStream _ _ hs))

theorem Stable.shiftStream (p : Port) (f : Frame) (a b : StreamState) (hs : P s) : P (Machine.shiftStream p f a b s) := by
  refine h.onStream p f (fun i hs => ?_) hs
  try dsimp only
  split
  · exact h.complete _ _ _ _ hs
  · exact h.completeStream _ _ _ (h.streamNotice _ (h.modStream _ _ hs))

theorem Stable.frameReady (p : Port) (f : Frame) (hs : P s) : P (Machine.frameReady p f s) := by
  refine h.onStream p f (fun i hs => ?_) hs
  try dsimp only
  split
  · exact h.complete _ _ _ _ hs
  · exact h.completeStream _ _ _ (h.modStream _ _ hs)

theorem Stable.stopStream (p : Port) (f : Frame) (hs : P s) : P (Machine.stopStream p f s) := by
  refine h.onStream p f (fun i hs => ?_) hs
  try dsimp only
  split
  · exact h.complete _ _ _ _ hs
  · exact h.completeStream _ _ _ (h.streamNotice _ (h.modStream _ _ (h.haltStream _ hs)))

theorem Stable.closeStream (p : Port) (f : Frame) (hs : P s) : P (Machine.closeStream p f s) := by
  refine h.onStream p f (fun i hs => ?_) hs
  try dsimp only
  split
  · exact h.complete _ _ _ _ hs
  · exact h.settle (h.freeRetired (h.beginClose _ _ (h.enter _ _ hs)))

theorem Stable.loadPoster (p : Port) (f : Frame) (hs : P s) : P (Machine.loadPoster p f s) := by
  unfold Machine.loadPoster; dsimp only
  split
  · exact h.complete _ _ _ _ hs
  · split
    · exact h.posterHit _ _ _ _ hs
    · split
      · exact h.joinLoad _ _ _ hs
      · split
        · exact h.queueLoad _ _ _ hs
        · split
          · exact h.completePlaceholder _ _ _ _ hs
          · exact h.queueLoad _ _ _ hs

theorem Stable.releasePoster (p : Port) (f : Frame) (hs : P s) : P (Machine.releasePoster p f s) := by
  unfold Machine.releasePoster; dsimp only
  split
  · exact h.complete _ _ _ _ hs
  · split
    · exact h.complete _ _ _ _ hs
    · split
      · exact h.complete _ _ _ _ hs
      · exact h.complete _ _ _ _ (h.unpinEvent _ (h.setRefs _ _ hs))

theorem Stable.reloadDirectory (p : Port) (f : Frame) (hs : P s) : P (Machine.reloadDirectory p f s) := by
  unfold Machine.reloadDirectory; dsimp only
  split
  · exact h.complete _ _ _ _ hs
  · split
    · exact h.complete _ _ _ _ hs
    · split
      · exact h.giveNext (h.beginReload (h.modCache _ (h.enter _ _ hs)))
      · exact h.modCache _ (h.enter _ _ hs)

theorem Stable.flashRead (p : Port) (f : Frame) (hs : P s) : P (Machine.flashRead p f s) := by
  unfold Machine.flashRead; dsimp only
  split
  · exact h.complete _ _ _ _ hs
  · split
    · exact h.complete _ _ _ _ hs
    · exact h.queueFlashOp _ _ _ hs

theorem Stable.flashProgram (p : Port) (f : Frame) (hs : P s) : P (Machine.flashProgram p f s) := by
  unfold Machine.flashProgram; dsimp only
  split
  · exact h.complete _ _ _ _ hs
  · split
    · exact h.complete _ _ _ _ hs
    · split
      · exact h.complete _ _ _ _ hs
      · exact h.queueFlashOp _ _ _ hs

theorem Stable.flashErase (p : Port) (f : Frame) (hs : P s) : P (Machine.flashErase p f s) := by
  unfold Machine.flashErase; dsimp only
  split
  · exact h.complete _ _ _ _ hs
  · split
    · exact h.complete _ _ _ _ hs
    · exact h.queueFlashOp _ _ _ hs

theorem Stable.clearError (clear : ∀ s, P s → P { s with errors := { s.errors with capture := s.errors.capture.clear } })
    (p : Port) (f : Frame) (hs : P s) : P (Machine.clearError p f s) := by
  unfold Machine.clearError; dsimp only
  split
  · exact h.complete _ _ _ _ (clear _ hs)
  · exact h.complete _ _ _ _ hs

theorem Stable.detach (layers : KeepsLayers P) (p : Port) (f : Frame) (hs : P s) : P (Machine.detach p f s) :=
  h.settle (h.portChange _ (h.tearDown layers _ (h.modPort _ _ (h.enter _ _ hs))))

end

/-! ## Every command -/

/-- Answers the goal of a command whose outcome is `.next` of a state the property holds of. -/
theorem next_keeps {P : State → Prop} {u t : State} (e : Host.Outcome.next (φ := Fault) (ρ := Refusal) u = .next t)
    (hu : P u) : P t := by cases e; exact hu

/-- A command keeps what its changes keep. -/
theorem KeptBy.exec {P : State → Prop} {c : Instr} {s t : State} (h : KeptBy P c s) (hs : P s)
    (e : Machine.exec c s = .next t) : P t := by
  have k := h.toStable
  cases c with
  | coldReset a b => exact next_keeps e (h.cold a b rfl _ hs)
  | portResetAssert p =>
    simp only [Machine.exec, execPortResetAssert] at e
    split at e
    · exact next_keeps e hs
    · split at e
      · exact next_keeps e hs
      · exact next_keeps e (k.modPort _ _ hs)
      · exact next_keeps e (k.portReset h.layers _ hs)
  | portResetRelease p =>
    simp only [Machine.exec, execPortResetRelease] at e
    split at e
    · exact next_keeps e hs
    · split at e
      · exact next_keeps e hs
      · exact next_keeps e (k.settle (k.modPort _ _ hs))
  | commandFrame p bs =>
    simp only [Machine.exec, execCommandFrame] at e
    split at e
    · exact next_keeps e (k.writePhase _ _ hs)
    · exact next_keeps e hs
  | noticeRead p n =>
    simp only [Machine.exec, execNoticeRead] at e
    split at e
    · exact next_keeps e (k.modPort _ _ hs)
    · exact next_keeps e hs
  | statusRead p =>
    simp only [Machine.exec, execStatusRead] at e
    split at e
    · exact next_keeps e (k.modPort _ _ hs)
    · exact next_keeps e hs
  | unknownCommand p => exact next_keeps e (k.takeUnknown _ hs)
  | quietTimerExpiry p =>
    simp only [Machine.exec, execQuietTimerExpiry] at e
    split at e
    · exact next_keeps e hs
    · exact next_keeps e (k.modPort _ _ hs)
  | holdTimerExpiry p =>
    simp only [Machine.exec, execHoldTimerExpiry] at e
    split at e
    · exact next_keeps e hs
    · exact next_keeps e (k.modPort _ _ hs)
  | attach p => exact next_keeps e (k.takeAttach _ hs)
  | detach p => exact next_keeps e (k.taking _ _ (fun f _ ht => k.detach h.layers p f ht) hs)
  | restart p => exact next_keeps e (k.taking _ _ (fun f _ ht => k.restart (h.blocks ⟨p, rfl⟩) p f ht) hs)
  | subscribe p => exact next_keeps e (k.taking _ _ (fun f _ ht => k.subscribe p f ht) hs)
  | readStatistics p => exact next_keeps e (k.taking _ _ (fun f _ ht => k.readStatistics p f ht) hs)
  | defineSurface p => exact next_keeps e (k.taking _ _ (fun f _ ht => k.defineSurface p f ht) hs)
  | writeSurface p =>
    exact next_keeps e (k.taking _ _ (fun f _ ht => k.writeSurface (h.frame (.inl ⟨p, rfl⟩)) p f ht) hs)
  | freeSurface p => exact next_keeps e (k.taking _ _ (fun f _ ht => k.freeSurface p f ht) hs)
  | queryPool p => exact next_keeps e (k.taking _ _ (fun f _ ht => k.complete p f _ _ ht) hs)
  | setLayer p => exact next_keeps e (k.taking _ _ (fun f _ ht => k.setLayer h.layers p f ht) hs)
  | clearLayer p => exact next_keeps e (k.taking _ _ (fun f _ ht => k.clearLayer h.layers p f ht) hs)
  | latch p => exact next_keeps e (k.taking _ _ (fun f _ ht => k.latch p f ht) hs)
  | setPanel p => exact next_keeps e (k.taking _ _ (fun f _ ht => k.setPanel p f ht) hs)
  | openStream p => exact next_keeps e (k.taking _ _ (fun f _ ht => k.openStream p f ht) hs)
  | startStream p => exact next_keeps e (k.taking _ _ (fun f _ ht => k.startStream p f ht) hs)
  | frameReady p => exact next_keeps e (k.taking _ _ (fun f _ ht => k.frameReady p f ht) hs)
  | pauseStream p => exact next_keeps e (k.taking _ _ (fun f _ ht => k.shiftStream p f _ _ ht) hs)
  | resumeStream p => exact next_keeps e (k.taking _ _ (fun f _ ht => k.shiftStream p f _ _ ht) hs)
  | stopStream p => exact next_keeps e (k.taking _ _ (fun f _ ht => k.stopStream p f ht) hs)
  | closeStream p => exact next_keeps e (k.taking _ _ (fun f _ ht => k.closeStream p f ht) hs)
  | loadPoster p => exact next_keeps e (k.taking _ _ (fun f _ ht => k.loadPoster p f ht) hs)
  | releasePoster p => exact next_keeps e (k.taking _ _ (fun f _ ht => k.releasePoster p f ht) hs)
  | queryPoster p => exact next_keeps e (k.taking _ _ (fun f _ ht => k.complete p f _ _ ht) hs)
  | reloadDirectory p => exact next_keeps e (k.taking _ _ (fun f _ ht => k.reloadDirectory p f ht) hs)
  | loaderBegin =>
    simp only [Machine.exec, execLoaderBegin] at e
    split at e
    · exact next_keeps e hs
    · exact next_keeps e (k.loaderBegin hs)
  | loaderReadEnd =>
    simp only [Machine.exec, execLoaderReadEnd] at e
    split at e
    · exact next_keeps e hs
    · split at e
      · refine next_keeps e (k.settle (k.giveNext (k.loaderStep (h.frame (.inr rfl)) ?_ _ (k.modArbiter _ hs))))
        exact fun w => h.configure rfl w
      · exact next_keeps e hs
  | flashRead p => exact next_keeps e (k.taking _ _ (fun f _ ht => k.flashRead p f ht) hs)
  | flashProgram p => exact next_keeps e (k.taking _ _ (fun f _ ht => k.flashProgram p f ht) hs)
  | flashErase p => exact next_keeps e (k.taking _ _ (fun f _ ht => k.flashErase p f ht) hs)
  | flashReadEnd =>
    simp only [Machine.exec, execFlashReadEnd] at e
    split at e
    · exact next_keeps e hs
    · split at e
      · exact next_keeps e (k.settle (k.giveNext (k.completeHeld _ _ _ _ _ _ (k.modArbiter _ hs))))
      · exact next_keeps e hs
  | flashOperationDone =>
    simp only [Machine.exec, execFlashOperationDone] at e
    split at e
    · exact next_keeps e hs
    · split at e
      · exact next_keeps e (k.endFlashOp _ _ _ _ _ (h.program rfl _ _ _ hs))
      · exact next_keeps e (k.endFlashOp _ _ _ _ _ (h.erase rfl _ _ hs))
      · exact next_keeps e hs
  | operationTimerExpiry =>
    simp only [Machine.exec, execOperationTimerExpiry] at e
    split at e
    · exact next_keeps e hs
    · split at e
      · split at e
        · exact next_keeps e (k.modArbiter _ hs)
        · exact next_keeps e hs
      · exact next_keeps e hs
  | deviceAcceptsCommands =>
    simp only [Machine.exec, execDeviceAcceptsCommands] at e
    split at e
    · exact next_keeps e hs
    · split at e
      · split at e
        · exact next_keeps e (k.endFlashOp _ _ _ _ _ (h.spoil rfl _ _ _ hs))
        · exact next_keeps e hs
      · exact next_keeps e hs
  | readError p => exact next_keeps e (k.taking _ _ (fun f _ ht => k.complete p f _ _ ht) hs)
  | clearError p => exact next_keeps e (k.taking _ _ (fun f _ ht => k.clearError (h.clear ⟨p, rfl⟩) p f ht) hs)
  | fieldStart o =>
    simp only [Machine.exec, execFieldStart] at e
    split at e
    · exact next_keeps e hs
    · exact next_keeps e (k.fieldStart h.layers _ hs)
  | composeLine o part =>
    simp only [Machine.exec, execComposeLine] at e
    split at e
    · exact next_keeps e hs
    · exact next_keeps e (k.modOut _ _ (k.composeLine _ _ _ hs))
  | eccCorrected r b =>
    simp only [Machine.exec, execEccCorrected] at e
    split at e
    · cases e
    · split at e
      · exact next_keeps e hs
      · exact next_keeps e (k.countCorrected hs)
  | eccUncorrectable r b =>
    simp only [Machine.exec, execEccUncorrectable] at e
    split at e
    · cases e
    · next hv =>
      split at e
      · exact next_keeps e hs
      · exact next_keeps e (k.uncorrectable _ _ (h.note r b rfl (by simpa using hv)) (h.faulted ⟨r, b, rfl⟩) hs)
  | resetAssert =>
    have h1 := k.startUp s { s.startUp with resetPin := true } hs
    have h2 := k.outputs _ ⟨{ s.outputs.o0 with pen := false }, { s.outputs.o1 with pen := false }⟩ h1
    have h3 := k.arbiter _ { s.arbiter with grant := s.arbiter.grant.bind Grant.underReset } h2
    exact next_keeps e (k.ports _ ⟨s.ports.a.held, s.ports.b.held⟩ h3)
  | linkGap p => exact next_keeps e (k.modPort _ _ hs)

end Sys2Proof.Machine
end

