-- ==== Sys2Proof/Laws/Memory.lean ====
section
/-! SUPPORT. The laws of memory: read after write, every other byte left alone, and the canonical form kept by every
operation. -/

namespace Sys2Proof.Machine

variable {d : Byte} {m : Memory}

/-! ## Cells of a run -/

/-- Every cell of a run lies in it and is not the byte an unlisted address reads as. -/
theorem Memory.mem_cells {c : Host.Cell} : ∀ {a : Nat} {bs : List Byte}, c ∈ Memory.cells d a bs →
    a ≤ c.1 ∧ c.1 < a + bs.length ∧ c.2 ≠ d
  | _, [], h => by simp [Memory.cells] at h
  | a, b :: bs, h => by
    have ih := @Memory.mem_cells c (a + 1) bs
    simp only [Memory.cells] at h
    split at h
    · obtain ⟨h1, h2, h3⟩ := ih h; simp only [List.length_cons]; exact ⟨by omega, by omega, h3⟩
    · rename_i hb
      rcases List.mem_cons.mp h with rfl | h
      · simp only [List.length_cons]; exact ⟨le_refl _, by omega, hb⟩
      · have := ih h; simp only [List.length_cons]; exact ⟨by omega, by omega, this.2.2⟩

theorem Memory.cells_wf : ∀ (a : Nat) (bs : List Byte), Memory.wf d (Memory.cells d a bs)
  | _, [] => by simp [Memory.cells, Memory.wf]
  | a, b :: bs => by
    have ih := Memory.cells_wf (a + 1) bs
    simp only [Memory.cells]
    split
    · exact ih
    · refine ⟨List.pairwise_cons.mpr ⟨fun c hc => ?_, ih.1⟩, fun c hc => (?_ : c.2 ≠ d)⟩
      · have := Memory.mem_cells hc; simp only; omega
      · rcases List.mem_cons.mp hc with rfl | hc
        · assumption
        · exact ih.2 c hc

/-- Reads past the end of a run of cells see nothing of it. -/
theorem Memory.read_append_right (x : Nat) : ∀ {m₁ m₂ : Memory}, (∀ c ∈ m₁, c.1 ≠ x) →
    Memory.read d (m₁ ++ m₂) x = Memory.read d m₂ x
  | [], _, _ => rfl
  | c :: m₁, m₂, h => by
    have hc : c.1 ≠ x := h c (by simp)
    simp only [List.cons_append, Memory.read, hc, if_false]
    exact Memory.read_append_right x fun c hc => h c (by simp [hc])

/-- Reads that find a cell in the first part see it; else they see the second part. -/
theorem Memory.read_append_left (x : Nat) : ∀ {m₁ m₂ : Memory}, (∀ c ∈ m₂, c.1 ≠ x) →
    Memory.read d (m₁ ++ m₂) x = Memory.read d m₁ x
  | [], m₂, h => by
    have := Memory.read_append_right (d := d) (m₂ := []) x h
    simpa [Memory.read] using this
  | c :: m₁, m₂, h => by
    simp only [List.cons_append, Memory.read]
    split
    · rfl
    · exact Memory.read_append_left x h

theorem Memory.read_cells : ∀ (a : Nat) (bs : List Byte) (x : Nat),
    Memory.read d (Memory.cells d a bs) x = if a ≤ x ∧ x < a + bs.length then bs.getD (x - a) d else d
  | a, [], x => by simp [Memory.cells, Memory.read]
  | a, b :: bs, x => by
    have ih := Memory.read_cells (a + 1) bs x
    have step : ∀ h : a < x, (b :: bs).getD (x - a) d = bs.getD (x - (a + 1)) d := by
      intro h
      obtain ⟨k, rfl⟩ : ∃ k, x = a + 1 + k := ⟨x - (a + 1), by omega⟩
      have : a + 1 + k - a = k + 1 := by omega
      simp [this]
    have tail : (if a + 1 ≤ x ∧ x < a + 1 + bs.length then bs.getD (x - (a + 1)) d else d)
        = if a < x ∧ x < a + (b :: bs).length then (b :: bs).getD (x - a) d else d := by
      simp only [List.length_cons]
      by_cases h : a < x
      · rw [step h]; congr 1; apply propext; omega
      · rw [if_neg (by omega), if_neg (by omega)]
    simp only [Memory.cells]
    split
    · rename_i hb
      rw [ih, tail]
      rcases Nat.lt_trichotomy a x with h | rfl | h
      · simp [h, h.le]
      · simp [hb]
      · rw [if_neg (by omega), if_neg (by omega)]
    · simp only [Memory.read]
      split
      · rename_i h; subst h; simp
      · rename_i h
        rw [ih, tail]; congr 1; apply propext; omega

/-! ## Writing a run -/

theorem Memory.read_filter_of (p : Nat → Bool) (x : Nat) (h : p x = true) : ∀ m : Memory,
    Memory.read d (m.filter (fun c => p c.1)) x = Memory.read d m x
  | [] => rfl
  | c :: m => by
    have ih := Memory.read_filter_of p x h m
    by_cases hp : p c.1 = true
    · simp only [List.filter_cons, hp, if_true, Memory.read, ih]
    · have : c.1 ≠ x := fun e => hp (e ▸ h)
      simp only [List.filter_cons, hp, Memory.read, this, if_false, Bool.false_eq_true]
      exact ih

/-- Read after write: the run holds what was written, every other byte what it held. -/
theorem Memory.read_writeRun (m : Memory) (a : Nat) (bs : List Byte) (x : Nat) :
    Memory.read d (Memory.writeRun d m a bs) x
      = if a ≤ x ∧ x < a + bs.length then bs.getD (x - a) d else Memory.read d m x := by
  unfold Memory.writeRun
  by_cases hin : a ≤ x ∧ x < a + bs.length
  · rw [Memory.read_append_left x (by intro c hc; simp at hc; omega),
      Memory.read_append_right x (by intro c hc; simp at hc; omega), Memory.read_cells, if_pos hin, if_pos hin]
  · rw [if_neg hin]
    have hcells : ∀ c ∈ Memory.cells d a bs, c.1 ≠ x := by
      intro c hc e; have := Memory.mem_cells hc; omega
    by_cases hlt : x < a
    · rw [Memory.read_append_left x (by intro c hc; simp at hc; omega), Memory.read_append_left x hcells]
      exact Memory.read_filter_of (fun n => decide (n < a)) x (by simpa using hlt) m
    · rw [List.append_assoc, Memory.read_append_right x (by intro c hc; simp at hc; omega),
        Memory.read_append_right x hcells]
      exact Memory.read_filter_of (fun n => decide (a + bs.length ≤ n)) x (by simp; omega) m

theorem Memory.writeRun_wf (h : Memory.wf d m) (a : Nat) (bs : List Byte) : Memory.wf d (Memory.writeRun d m a bs) := by
  have hc := Memory.cells_wf (d := d) a bs
  unfold Memory.writeRun
  refine ⟨?_, ?_⟩
  · rw [List.append_assoc, List.pairwise_append, List.pairwise_append]
    refine ⟨h.1.filter _, ⟨hc.1, h.1.filter _, ?_⟩, ?_⟩
    · intro x hx y hy
      have := Memory.mem_cells hx
      simp at hy; omega
    · intro x hx y hy
      simp at hx hy
      rcases hy with hy | hy
      · have := Memory.mem_cells hy; omega
      · omega
  · intro c hc'
    simp only [List.mem_append, List.mem_filter] at hc'
    rcases hc' with (hc' | hc') | hc'
    · exact h.2 c hc'.1
    · exact (Memory.mem_cells hc').2.2
    · exact h.2 c hc'.1

theorem Memory.updateRun_wf (h : Memory.wf d m) (a n : Nat) (f : Nat → Byte → Byte) :
    Memory.wf d (Memory.updateRun d m a n f) :=
  Memory.writeRun_wf h a _

/-- An update changes each byte of its run by `f` and no other byte. -/
theorem Memory.read_updateRun (m : Memory) (a n : Nat) (f : Nat → Byte → Byte) (x : Nat) :
    Memory.read d (Memory.updateRun d m a n f) x
      = if a ≤ x ∧ x < a + n then f x (Memory.read d m x) else Memory.read d m x := by
  unfold Memory.updateRun
  rw [Memory.read_writeRun]
  simp only [List.length_map, List.length_range]
  split
  · rename_i h
    obtain ⟨k, rfl⟩ : ∃ k, x = a + k := ⟨x - a, by omega⟩
    have hk : k < n := by omega
    simp [hk]
  · rfl

/-! ## The flash (R134) -/

theorem eraseFlash_wf (h : Memory.wf d m) (off : Nat) : Memory.wf d (eraseFlash m off) :=
  ⟨h.1.filter _, fun c hc => h.2 c (List.mem_filter.mp hc).1⟩

theorem programFlash_wf (h : Memory.wf Config.flashBlank m) (off : Nat) (data : List Byte) :
    Memory.wf Config.flashBlank (programFlash m off data) :=
  Memory.updateRun_wf h _ _ _

/-- An erased block reads 0xFF, every other byte as before (R134). -/
theorem read_eraseFlash (m : Memory) (off x : Nat) :
    Memory.read Config.flashBlank (eraseFlash m off) x
      = if off ≤ x ∧ x < off + 65536 then 0xFF else Memory.read Config.flashBlank m x := by
  unfold eraseFlash
  by_cases h : off ≤ x ∧ x < off + 65536
  · rw [if_pos h]
    have none : ∀ c ∈ m.filter (fun c => decide (c.1 < off ∨ off + 65536 ≤ c.1)), c.1 ≠ x := by
      intro c hc; simp at hc; omega
    simpa [Memory.read, Config.flashBlank] using
      Memory.read_append_right (d := Config.flashBlank) (m₂ := []) x none
  · rw [if_neg h]
    exact Memory.read_filter_of (fun n => decide (n < off ∨ off + 65536 ≤ n)) x (by simp; omega) m

/-- A programmed byte is the AND of the old byte and the data byte, every other byte stays (R134). -/
theorem read_programFlash (m : Memory) (off : Nat) (data : List Byte) (x : Nat) :
    Memory.read Config.flashBlank (programFlash m off data) x
      = if off ≤ x ∧ x < off + data.length then
          Memory.read Config.flashBlank m x &&& data.getD (x - off) 0xFF
        else Memory.read Config.flashBlank m x :=
  Memory.read_updateRun m off data.length _ x

/-! ## The write path (R14) -/

theorem writePages_wf (bad : List Nat) (off : Nat) (bs : List Byte) : ∀ (k : Nat) (pages : List Nat) {m : Memory},
    Memory.wf Config.frameBlank m → Memory.wf Config.frameBlank (writePages bad off bs k pages m).1
  | _, [], _, h => h
  | k, page :: pages, m, h => by
    simp only [writePages]
    split
    · exact writePages_wf bad off bs _ pages h
    · split
      · exact writePages_wf bad off bs _ pages h
      · exact writePages_wf bad off bs _ pages (Memory.writeRun_wf h _ _)

/-- The write path leaves every byte outside the pages of its list alone (R14). -/
theorem read_writePages_outside (bad : List Nat) (off : Nat) (bs : List Byte) (x : Nat) :
    ∀ (k : Nat) (pages : List Nat) (m : Memory), (∀ p ∈ pages, x / 4096 ≠ p) →
      Memory.read Config.frameBlank (writePages bad off bs k pages m).1 x = Memory.read Config.frameBlank m x
  | _, [], _, _ => rfl
  | k, page :: pages, m, h => by
    have hp : x / 4096 ≠ page := h page (by simp)
    have ht : ∀ p ∈ pages, x / 4096 ≠ p := fun p hp => h p (by simp [hp])
    simp only [writePages]
    split
    · exact read_writePages_outside bad off bs x _ pages m ht
    · split
      · exact read_writePages_outside bad off bs x _ pages m ht
      · rw [read_writePages_outside bad off bs x _ pages _ ht, Memory.read_writeRun, if_neg]
        have hlen : (pageSlice k off bs).2.length ≤ 4096 - (pageSlice k off bs).1 := by
          simp only [pageSlice, List.length_take, List.length_drop]; omega
        have hoff : (pageSlice k off bs).1 ≤ 4096 ∨ (pageSlice k off bs).2 = [] := by
          simp only [pageSlice]
          by_cases hc : max off (k * 4096) - k * 4096 ≤ 4096
          · exact .inl hc
          · right
            have : min (off + bs.length) ((k + 1) * 4096) - max off (k * 4096) = 0 := by omega
            rw [this]; rfl
        intro hx
        rcases hoff with hoff | hoff
        · apply hp; omega
        · rw [hoff] at hx; simp at hx; omega

end Sys2Proof.Machine
end

