-- ==== Sys2Proof/Laws/Flash.lean ====
section
/-! SUPPORT. The open values of the flash and their bounds: what a timed-out operation leaves, and the bytes read in a
read mode in which the flash does not give its own. -/

namespace Sys2Proof.Machine

variable {s : State}

/-- What is left of a range, byte by byte; every other byte stays (R135, R147). -/
theorem State.read_spoilFlash (s : State) (r : FlashRange) (f : Byte → Nat → Byte → Byte) (x : Nat) :
    (s.spoilFlash r f).flash.read Config.flashBlank x
      = if r.offset ≤ x ∧ x < r.offset + r.length then
          f (Config.abandonedFlashByte s.freeCount x) x (s.flash.read Config.flashBlank x)
        else s.flash.read Config.flashBlank x :=
  Memory.read_updateRun s.flash r.offset r.length (fun a old => f (Config.abandonedFlashByte s.freeCount a) a old) x

/-- A program that timed out clears no bit it would not clear (R147). -/
theorem FlashOpKind.timedOut_program (off : Nat) (data : List Byte) (free : Byte) (a : Nat) (old : Byte) :
    let new := (FlashOpKind.program off data).timedOut free a old
    old &&& new = new ∧ old &&& data.getD (a - off) 0xFF &&& new = old &&& data.getD (a - off) 0xFF := by
  have key : ∀ d : Byte, old &&& (old &&& (d ||| free)) = old &&& (d ||| free)
      ∧ old &&& d &&& (old &&& (d ||| free)) = old &&& d := fun d => by
    constructor
    · ext i; simp
    · ext i; simp; cases old[i] <;> cases d[i] <;> simp
  exact key _

/-- An erase that timed out leaves 0xFF or the old byte (R147). -/
theorem FlashOpKind.timedOut_erase (off : Nat) (free : Byte) (a : Nat) (old : Byte) :
    (FlashOpKind.erase off).timedOut free a old = 0xFF ∨ (FlashOpKind.erase off).timedOut free a old = old := by
  unfold FlashOpKind.timedOut
  by_cases h : free.getLsbD 0 = true
  · exact .inl (if_pos h)
  · exact .inr (if_neg h)

/-- A read returns as many bytes as it asks for. -/
@[simp] theorem State.length_flashRead (s : State) (r : FlashRange) : (s.flashRead r).length = r.length := by
  unfold State.flashRead Memory.readRun
  split <;> simp

/-- The four bytes at the front of a read that no flash answers fail the signature test (R188). -/
theorem failSignature_ne (bs : List Byte) (h : bs.length = 4) : u32 (failSignature bs) 0 ≠ imageSignature := by
  unfold failSignature
  split
  · next e =>
    obtain ⟨a, b, c, d, rfl⟩ : ∃ a b c d, bs = [a, b, c, d] := by
      match bs, h with
      | [a, b, c, d], _ => exact ⟨a, b, c, d, rfl⟩
    intro e'
    have h0 : (a ^^^ 1#8).toNat = a.toNat := by
      simp [u32, u16, u8, -BitVec.toNat_xor] at e e'; omega
    have : a ^^^ 1#8 = a := BitVec.eq_of_toNat_eq h0
    have hb : (a ^^^ 1#8).getLsbD 0 = a.getLsbD 0 := by rw [this]
    simp at hb
  · next e => exact e

/-- What a read returns, by how the flash answers in the read mode in force (R134, R188). -/
theorem State.flashRead_cases (s : State) (r : FlashRange) :
    (s.lanes.answer s.arbiter.mode = .bytes ∧ s.flashRead r = s.flash.readRun Config.flashBlank r.offset r.length)
    ∨ (s.lanes.answer s.arbiter.mode = .garbled
        ∧ s.flashRead r = (List.range r.length).map (fun i => Config.strayFlashByte s.arbiter.mode.lanes (r.offset + i)))
    ∨ (s.lanes.answer s.arbiter.mode = .silent
        ∧ s.flashRead r = (List.range r.length).map (fun i => silentByte s.arbiter.mode.lanes (r.offset + i))) := by
  unfold State.flashRead
  cases s.lanes.answer s.arbiter.mode <;> simp

/-- An image read where no flash answers is never valid (R188). -/
theorem imageValid_silent {r : FlashRange} (h : s.lanes.answer s.arbiter.mode = .silent) (h0 : r.offset = 0)
    (hl : 4 ≤ r.length) : imageValid (s.flashRead r) = false := by
  have hlen : ∀ f : Nat → Byte, ((List.range 4).map f).length = 4 := fun f => by simp
  have hne := failSignature_ne _ (hlen (Config.strayFlashByte s.arbiter.mode.lanes))
  have e : ∀ k, k < 4 → (s.flashRead r).getD k 0
      = (failSignature ((List.range 4).map (Config.strayFlashByte s.arbiter.mode.lanes))).getD k 0 := by
    intro k hk
    have : k < r.length := by omega
    simp [State.flashRead, h, h0, List.getD_eq_getElem?_getD, silentByte, hk, this]
  have hu : u32 (s.flashRead r) 0 ≠ imageSignature := by
    intro hs
    apply hne
    rw [← hs]
    simp only [u32, u16, u8, e 0 (by omega), e 1 (by omega), e 2 (by omega), e 3 (by omega), Nat.zero_add,
      Nat.reduceAdd]
  simp [imageValid, hu]

end Sys2Proof.Machine
end

