-- ==== Sys2Proof/Laws/Layout.lean ====
section
/-! SUPPORT. The two spellings of a notice's bytes agree: those the part writes and the layouts of Tables 10-7 to 10-9. -/

namespace Sys2Proof.Machine

@[simp] theorem Fields.layout_nil : Fields.layout [] = [] := rfl

@[simp] theorem Fields.layout_cons (f : Nat × Nat) (fs : Fields) :
    Fields.layout (f :: fs) = littleEndian f.1 f.2 ++ Fields.layout fs := rfl

@[simp] theorem Fields.layout_append (fs gs : Fields) : Fields.layout (fs ++ gs) = fs.layout ++ gs.layout := by
  simp [Fields.layout]

@[simp] theorem littleEndian_one (n : Nat) : littleEndian 1 n = b8 n := by simp [littleEndian, b8]

@[simp] theorem littleEndian_two (n : Nat) : littleEndian 2 n = b16 n := by simp [littleEndian, b16, List.range_succ]

@[simp] theorem littleEndian_four (n : Nat) : littleEndian 4 n = b32 n := by simp [littleEndian, b32, List.range_succ]

/-- Fields of one size. -/
theorem Fields.layout_map {α : Type} (k : Nat) (f : α → Nat) (xs : List α) :
    Fields.layout (xs.map (fun x => (k, f x))) = xs.flatMap (fun x => littleEndian k (f x)) := by
  simp [Fields.layout, List.flatMap_map]

theorem Fields.layout_numbers (k : Nat) (xs : List Nat) :
    Fields.layout (xs.map (fun x => (k, x))) = xs.flatMap (fun x => littleEndian k x) := Fields.layout_map k (fun x => x) xs

@[simp] theorem b8_toNat (b : Byte) : b8 b.toNat = [b] := by simp [b8]

@[simp] theorem Fields.layout_bytes (bs : List Byte) : Fields.layout (bs.map (fun b => (1, b.toNat))) = bs := by
  simp [Fields.layout_map]

@[simp] theorem Fields.layout_flag (b : Bool) : b8 b.toNat = bFlag b := by cases b <;> rfl

@[simp] theorem handleFields_layout (h : Option Handle) : (handleFields h).layout = bHandle? h := by
  cases h with
  | none => rfl
  | some h => simp [handleFields, bHandle?, bHandle]

@[simp] theorem b8_getD (n : Option Nat) : b8 (n.getD 0xFF) = b8? n := by cases n <;> rfl

@[simp] theorem b16_getD (n : Option Nat) : b16 (n.getD 0xFFFF) = b16? n := by cases n <;> rfl

theorem ConfigNotes.inOrder_sum (n : ConfigNotes) :
    (n.inOrder.mapIdx (fun k b => b.toNat * 2 ^ k)).sum = n.bits := by
  have e (b : Bool) (k : Nat) : b.toNat * 2 ^ k = if b then 2 ^ k else 0 := by cases b <;> simp
  simp [ConfigNotes.inOrder, ConfigNotes.bits, e]
  omega

@[simp] theorem ConfigStatus.fields_layout (c : ConfigStatus) : c.fields.layout = c.bytes := by
  simp [ConfigStatus.fields, ConfigStatus.bytes, ConfigNotes.inOrder_sum]

@[simp] theorem AccountRecord.fields_layout (a : AccountRecord) : a.fields.layout = bAccount a := by
  simp [AccountRecord.fields, bAccount]

@[simp] theorem geometryFields_layout (g : Option (Nat × Nat)) : (geometryFields g).layout = bGeometry g := by
  cases g <;> simp [geometryFields, bGeometry, bFlag, b8]

@[simp] theorem StreamReport.fields_layout (r : StreamReport) : r.fields.layout = r.bytes := by
  simp [StreamReport.fields, StreamReport.bytes, Fields.layout_map]

/-- The result fields are laid out as the tables have them. -/
@[simp] theorem Result.fields_layout (r : Result) : r.fields.layout = r.bytes := by
  cases r with
  | written mark discarded => cases discarded <;> simp [Result.fields, Result.bytes]
  | poster h title image => cases image <;> simp [Result.fields, Result.bytes, bHandle?]
  | posterQuery r =>
    cases hh : r.handle <;> cases hr : r.resident <;> simp [Result.fields, Result.bytes, bHandle?, hh, hr]
  | _ => simp [Result.fields, Result.bytes, Fields.layout_map, Fields.layout_numbers, bHandle?]

/-- The bytes of a notice are those of its layout (Table 10-7). -/
theorem Notice.layout_eq (n : Notice) : n.layout = n.bytes := by
  have e : Fields.layout n.fields.2 = n.body := by
    cases n <;> simp [Notice.fields, Notice.body]
  have k : n.fields.1 = n.kind := by cases n <;> rfl
  simp [Notice.layout, Notice.bytes, e, k]

end Sys2Proof.Machine
end

