-- ==== Sys2Proof/Laws/Line.lean ====
section
/-! SUPPORT. What the composition of a line can do, said once: the burst read first for a row stands, what each part
changes of the state, what driving does, and that the pixels depend on nothing else of the state. -/

namespace Sys2Proof.Machine

variable {s t : State} {o : OutputId}

/-! ## Counters -/

@[simp] theorem satAdd_zero (n : Nat) : satAdd n 0 = n := by unfold satAdd; omega

/-- Counting in two parts is counting the sum (R185). -/
theorem satAdd_satAdd (n a b : Nat) : satAdd (satAdd n a) b = satAdd n (a + b) := by unfold satAdd; omega

/-- What counting a line changes (R64, R71). -/
theorem State.countLine_eq (s : State) (o : OutputId) (shed damage : Nat) :
    s.countLine o shed damage = { s with
      counters := { s.counters with
        output := s.counters.output.set o { s.counters.output.get o with
          shed := satAdd (s.counters.output.get o).shed shed
          damage := satAdd (s.counters.output.get o).damage damage } } } := rfl

/-! ## Bursts -/

/-- The burst read first for a record and a row stands (R72). -/
theorem readOf_append {fs gs : List Fetched} {id row : Nat} {b : Burst} :
    readOf (fs ++ gs) id row b = (readOf fs id row b).or (readOf gs id row b) := List.find?_append

theorem readOf_nil (id row : Nat) (b : Burst) : readOf [] id row b = none := rfl

/-- A sample that bursts read so far leave substituted stays so (R63). -/
theorem Cover.sampleLost_append {c : Cover} {fs : List Fetched} {x y : Nat} (gs : List Fetched)
    (h : c.sampleLost fs x y = true) : c.sampleLost (fs ++ gs) x y = true := by
  obtain ⟨off, ho, hd⟩ := List.any_eq_true.mp h
  refine List.any_eq_true.mpr ⟨off, ho, ?_⟩
  rw [readOf_append]
  cases e : readOf fs c.id y (c.src.burst off) with
  | none => simp [e] at hd
  | some f => simpa [e] using hd

/-- A sample that the bursts leave substituted is substituted in the line (R62, R63). -/
theorem Cover.sampleDamaged_of_lost {c : Cover} {fs : List Fetched} {x y : Nat} (h : c.sampleLost fs x y = true) :
    s.sampleDamaged fs c x y = true := by
  obtain ⟨off, ho, hd⟩ := List.any_eq_true.mp h
  refine List.any_eq_true.mpr ⟨off, ho, ?_⟩
  cases e : readOf fs c.id y (c.src.burst off) with
  | none => simp [e] at hd
  | some f => simpa [e] using hd

/-- Counting with a weaker test counts no fewer samples. -/
theorem Cover.countSamples_mono {c : Cover} {p q : Nat → Nat → Bool} (h : ∀ x y, p x y = true → q x y = true) :
    c.countSamples p ≤ c.countSamples q :=
  List.sum_le_sum fun y _ => List.countP_mono_left fun x _ hx => h x y hx

/-- Reading more bursts loses no fewer samples (R64). -/
theorem lostSamples_append (kept : List Cover) (fs gs : List Fetched) :
    lostSamples kept fs ≤ lostSamples kept (fs ++ gs) :=
  List.sum_le_sum fun _ _ => Cover.countSamples_mono fun _ _ => Cover.sampleLost_append gs

/-- The samples lost to bursts are among those substituted with the whole window read (R64). -/
theorem lostSamples_le_damage (s : State) (kept : List Cover) (fs : List Fetched) :
    lostSamples kept fs ≤ (kept.map (s.damageIn fs)).sum :=
  List.sum_le_sum fun _ _ => Cover.countSamples_mono fun _ _ => Cover.sampleDamaged_of_lost

theorem lostSamples_nil (kept : List Cover) : lostSamples kept [] = 0 := by
  have h : ∀ l : List Nat, l.any (fun _ => false) = false := fun l => by induction l <;> simp
  simp [lostSamples, Cover.countSamples, Cover.sampleLost, readOf_nil, h]

/-! ## Pixels -/

/-- The pixel of a column depends on frame memory, the bad page list and the damage colour only (R62–R67). -/
theorem State.linePixel_congr (hf : t.frame = s.frame) (he : t.errors = s.errors) (hu : t.startUp = s.startUp) :
    t.linePixel = s.linePixel := by
  have hd : t.sampleDamaged = s.sampleDamaged := by unfold State.sampleDamaged State.isBad; rw [he]
  have hb : t.sourceByte = s.sourceByte := by unfold State.sourceByte; rw [hf]
  have hs : t.sampleAt = s.sampleAt := by unfold State.sampleAt; rw [hd, hb, hu]
  have hr : t.rowSample = s.rowSample := by unfold State.rowSample; rw [hs]
  have hp : t.layerPixel = s.layerPixel := by unfold State.layerPixel; rw [hs, hr]
  have ha : t.applyCover = s.applyCover := by unfold State.applyCover; rw [hp]
  unfold State.linePixel; rw [ha]

/-! ## What a part of a line changes -/

/-- A state that differs in the work on the line of one output, its composed pixels, and its counters. -/
def State.lineChange (s t : State) (o : OutputId) : Prop :=
  ∃ (n : Nat) (w : Option LineWork) (xs : List Rgb) (k : OutputCounters),
    t = { s with
          outputs := s.outputs.set o { s.outputs.get o with nextLine := n, work := w, ahead := xs }
          counters := { s.counters with output := s.counters.output.set o k } }

theorem State.lineChange.refl (s : State) (o : OutputId) : s.lineChange s o :=
  ⟨(s.outputs.get o).nextLine, (s.outputs.get o).work, (s.outputs.get o).ahead, s.counters.output.get o, by
    cases o <;> rfl⟩

theorem State.lineChange.trans {u : State} (h : s.lineChange t o) (g : t.lineChange u o) : s.lineChange u o := by
  obtain ⟨n, w, xs, k, rfl⟩ := h
  obtain ⟨n', w', xs', k', rfl⟩ := g
  exact ⟨n', w', xs', k', by simp⟩

theorem State.fetchLine_change (s : State) (o : OutputId) (reads : List BurstRead) :
    s.lineChange (s.fetchLine o reads) o := by
  unfold State.fetchLine
  dsimp only
  rw [State.countLine_eq]
  exact ⟨(s.outputs.get o).nextLine, _, (s.outputs.get o).ahead, _, rfl⟩

theorem State.composeColumns_change (s : State) (o : OutputId) (xs : List Nat) :
    s.lineChange (s.composeColumns o xs) o := by
  unfold State.composeColumns
  dsimp only
  generalize (s.outputs.get o).kept.1.flatMap (fun c => c.needs xs) = reads
  refine (s.fetchLine_change o reads).trans ?_
  generalize State.fetchLine o reads s = u
  refine ⟨(u.outputs.get o).nextLine, (u.outputs.get o).work.map (fun w => { w with columns := w.columns + xs.length }),
    (u.outputs.get o).ahead ++ s.columnPixels o xs, u.counters.output.get o, ?_⟩
  cases o <;> rfl

theorem State.endLine_change (s : State) (o : OutputId) (xs : List Nat) : s.lineChange (s.endLine o xs) o := by
  unfold State.endLine
  dsimp only
  rw [State.countLine_eq]
  exact ⟨_, none, _, _, rfl⟩

/-- What a part of the composition of a line changes (R48): the work, the composed pixels and the two counters. -/
theorem State.composeLine_change (s : State) (o : OutputId) (reads : List BurstRead) (n : Nat) :
    s.lineChange (s.composeLine o reads n) o := by
  have hf := s.fetchLine_change o reads
  unfold State.composeLine
  dsimp only
  split
  · exact State.lineChange.refl s o
  · split
    · exact hf.trans (State.endLine_change _ o _)
    · exact hf.trans (State.composeColumns_change _ o _)

/-- What driving does: nothing, or the next pixels join the line on the panel (R67). -/
theorem OutputState.drive_cases (q : OutputState) (n : Nat) :
    let row := if q.line.length < q.timing.width then q.line else []
    let k := min n (q.timing.width - row.length)
    ((k = 0 ∨ q.ahead = []) ∧ q.drive n = q)
    ∨ (k ≠ 0 ∧ q.ahead ≠ [] ∧ q.drive n = { q with line := row ++ q.ahead.take k, ahead := q.ahead.drop k }) := by
  intro row k
  by_cases h : k = 0 ∨ q.ahead = []
  · exact .inl ⟨h, if_pos h⟩
  · exact .inr ⟨fun e => h (.inl e), fun e => h (.inr e), if_neg h⟩

end Sys2Proof.Machine
end

