-- ==== Sys2Proof/Laws/Ops.lean ====
section
/-! SUPPORT. What the shared operations of the ports can do, said once: updates of one port compose, a command that is
taken reaches its owner with the queue's rest, a completion moves from owed to held, an event notice is queued or
counted as lost. -/

namespace Sys2Proof.Machine

variable {s t : State} {p : Port} {c : Cmd} {f : Frame} {rest : List Frame}

/-! ## Updates of one component compose -/

@[simp] theorem State.modPort_modPort (s : State) (p : Port) (f g : PortState → PortState) :
    (s.modPort p f).modPort p g = s.modPort p (fun q => g (f q)) := by simp [State.modPort]

theorem State.modPort_congr {f g : PortState → PortState} (h : f (s.ports.get p) = g (s.ports.get p)) : s.modPort p f = s.modPort p g := by
  simp only [State.modPort, h]

@[simp] theorem State.modOut_modOut (s : State) (o : OutputId) (f g : OutputState → OutputState) :
    (s.modOut o f).modOut o g = s.modOut o (fun q => g (f q)) := by simp [State.modOut]

@[simp] theorem State.modStream_modStream (s : State) (i : StreamId) (f g : StreamRecord → StreamRecord) :
    (s.modStream i f).modStream i g = s.modStream i (fun q => g (f q)) := by simp [State.modStream]

theorem State.modPort_comm (s : State) (f g : PortState → PortState) :
    (s.modPort .a f).modPort .b g = (s.modPort .b g).modPort .a f := rfl

/-! ## Queues of notices -/

@[simp] theorem PortState.join_notices (q : PortState) (n : Notice) : (q.join n).notices = q.notices ++ [n] := rfl
@[simp] theorem PortState.join_status (q : PortState) (n : Notice) : (q.join n).status = q.status := rfl
@[simp] theorem PortState.join_resetLine (q : PortState) (n : Notice) : (q.join n).resetLine = q.resetLine := rfl
@[simp] theorem PortState.join_queue (q : PortState) (n : Notice) : (q.join n).queue = q.queue := rfl
@[simp] theorem PortState.join_inFlight (q : PortState) (n : Notice) : (q.join n).inFlight = q.inFlight := rfl
@[simp] theorem PortState.join_owed (q : PortState) (n : Notice) : (q.join n).owed = q.owed := rfl
@[simp] theorem PortState.join_lost (q : PortState) (n : Notice) : (q.join n).lost = q.lost := rfl
@[simp] theorem PortState.join_mask (q : PortState) (n : Notice) : (q.join n).mask = q.mask := rfl
@[simp] theorem PortState.join_baselines (q : PortState) (n : Notice) : (q.join n).baselines = q.baselines := rfl
@[simp] theorem PortState.join_maintainer (q : PortState) (n : Notice) : (q.join n).maintainer = q.maintainer := rfl
@[simp] theorem PortState.join_cancelled (q : PortState) (n : Notice) : (q.join n).cancelled = q.cancelled := rfl
@[simp] theorem PortState.join_answer (q : PortState) (n : Notice) : (q.join n).answer = q.answer := rfl
@[simp] theorem PortState.join_quietTime (q : PortState) (n : Notice) : (q.join n).quietTime = q.quietTime := rfl
@[simp] theorem PortState.join_holdTime (q : PortState) (n : Notice) : (q.join n).holdTime = q.holdTime := rfl

@[simp] theorem PortState.answered_notices (q : PortState) (n : Notice) :
    (q.answered rest n).notices = q.notices ++ [n] := rfl
@[simp] theorem PortState.answered_status (q : PortState) (n : Notice) : (q.answered rest n).status = q.status := rfl
@[simp] theorem PortState.answered_queue (q : PortState) (n : Notice) : (q.answered rest n).queue = rest := rfl
@[simp] theorem PortState.answered_owed (q : PortState) (n : Notice) : (q.answered rest n).owed = q.owed - 1 := rfl
@[simp] theorem PortState.answered_inFlight (q : PortState) (n : Notice) :
    (q.answered rest n).inFlight = q.inFlight := rfl

/-- What offering an event notice can do (R179). -/
theorem State.notify_cases (s : State) (p : Port) (n : Notice) :
    ((s.ports.get p).status ≠ .attached ∧ s.notify p n = s)
    ∨ ((s.ports.get p).status = .attached ∧ (s.ports.get p).notices.length + (s.ports.get p).owed < 32
        ∧ s.notify p n = s.modPort p (fun q => q.join n))
    ∨ ((s.ports.get p).status = .attached ∧ 32 ≤ (s.ports.get p).notices.length + (s.ports.get p).owed
        ∧ s.notify p n = (s.modPort p (fun q => { q with lost := satSucc255 q.lost })).modCounters
            (fun c => c.onPort p (fun k => { k with eventsLost := satSucc k.eventsLost }))) := by
  by_cases h : (s.ports.get p).status = .attached
  · by_cases k : (s.ports.get p).notices.length + (s.ports.get p).owed < 32
    · exact .inr (.inl ⟨h, k, by simp [State.notify, h, k, noticeRoom]⟩)
    · exact .inr (.inr ⟨h, Nat.le_of_not_lt k, by simp [State.notify, h, k, noticeRoom]⟩)
  · exact .inl ⟨h, by simp [State.notify, h]⟩

/-- A completion for a port that is not RESETTING moves from owed to held (R178). -/
theorem State.deliver_of_ne (n : Notice) (h : (s.ports.get p).status ≠ .resetting) :
    s.deliver p n = s.modPort p (fun q => { q.join n with owed := q.owed - 1 }) := by simp [State.deliver, h]

/-- A completion for a RESETTING port is discarded (R178). -/
theorem State.deliver_of_resetting (n : Notice) (h : (s.ports.get p).status = .resetting) : s.deliver p n = s := by
  simp [State.deliver, h]

/-! ## Teardown -/

/-- Whether the grant belongs to a port. -/
theorem Arbiter.grantedTo_eq_false (a : Arbiter) (p : Port) :
    a.grantedTo p = false ↔ ∀ op, a.grant ≠ some (.port p op) := by
  unfold Arbiter.grantedTo
  split
  · rename_i q x h
    simp [h]
  · rename_i h
    exact ⟨fun _ op e => h p op e, fun _ => rfl⟩

/-- The test of the end of a teardown is what R169 asks of the five blocks. -/
theorem State.teardownDone_iff : s.teardownDone p = true ↔ s.TeardownOver p := by
  have e : s.teardownDone p = true ↔ ((s.outputs.o0.internal.get p = false ∧ s.outputs.o1.internal.get p = false)
      ∧ s.streams.s0.owner ≠ some p ∧ s.streams.s1.owner ≠ some p)
      ∧ (s.arbiter.queues.get p = [] ∧ ∀ op, s.arbiter.grant ≠ some (.port p op))
      ∧ (s.surfaces.account (accountOf p)).charged = 0 := by
    rw [← Arbiter.grantedTo_eq_false]
    unfold State.teardownDone
    generalize s.surfaces.account (accountOf p) = r
    simp [and_assoc]
  rw [e]
  constructor
  · rintro ⟨⟨⟨a, b⟩, c, d⟩, f, g⟩
    exact ⟨fun o => by cases o <;> assumption, fun i => by cases i <;> assumption, f, g⟩
  · rintro ⟨a, b, f, g⟩
    exact ⟨⟨⟨a .o0, a .o1⟩, b .s0, b .s1⟩, f, g⟩

/-! ## Taking a command -/

/-- A frame at the head that may be taken is taken, and leaves the queue. -/
theorem AtHead.takeHead {c? : Option Cmd} (h : AtHead s p c? f rest) (ht : (s.ports.get p).status.takes = true)
    (hr : (s.ports.get p).status = .attached → (c?.map Cmd.isLong).getD false = true →
      (s.ports.get p).inFlight.length < 8) :
    s.takeHead p c? = some (f, s.modPort p (fun q => { q with queue := rest })) := by
  have hn : ¬ ((s.ports.get p).status = .attached ∧ (c?.map Cmd.isLong).getD false = true
      ∧ inFlightRoom ≤ (s.ports.get p).inFlight.length) := fun ⟨a, b, e⟩ => by
    have := hr a b; unfold inFlightRoom at e; omega
  simp [State.takeHead, h.awake, h.started, ht, h.queue, h.command, hn]

/-- A command an ATTACHED port takes reaches its owning block with the rest of the queue. -/
theorem Takes.taking (h : Takes s p c f rest) (owner : Frame → State → State) :
    s.taking p c owner = owner f (s.modPort p (fun q => { q with queue := rest })) := by
  have e := h.head.takeHead (by simp [h.attached, PortStatus.takes]) (fun _ l => h.room (by simpa using l))
  simp [State.taking, e, h.attached]

/-- A completion of the frame just taken. -/
theorem State.complete_taken (st : Status) (res : Result) (h : (s.ports.get p).status ≠ .resetting) :
    (s.modPort p (fun q => { q with queue := rest })).complete p f st res = s.answered p f rest st res := by
  rw [State.complete, State.deliver_of_ne _ (by simpa using h)]
  simp [State.answered, PortState.answered]

/-- A completion with PLACEHOLDER of the frame just taken. -/
theorem State.completePlaceholder_taken (r : PlaceholderReason) (res : Result)
    (h : (s.ports.get p).status ≠ .resetting) :
    (s.modPort p (fun q => { q with queue := rest })).completePlaceholder p f r res
      = s.answeredPlaceholder p f rest r res := by
  rw [State.completePlaceholder, State.deliver_of_ne _ (by simpa using h)]
  simp [State.answeredPlaceholder, PortState.answered]

/-- A completion of the frame just taken, after changes that leave the ports as they are. -/
theorem State.complete_of_ports (st : Status) (res : Result) (h : (s.ports.get p).status ≠ .resetting)
    (e : t.ports = (s.modPort p (fun q => { q with queue := rest })).ports) :
    t.complete p f st res = { t with ports := (s.answered p f rest st res).ports } := by
  rw [State.complete, State.deliver_of_ne _ (by rw [e]; simpa using h)]
  simp [State.answered, PortState.answered, State.modPort, e]

/-- The entry of a long command just taken (R177). -/
theorem State.enter_taken :
    (s.modPort p (fun q => { q with queue := rest })).enter p f = s.dispatched p f rest := by
  simp [State.enter, State.dispatched]

/-- A port that is DETACHED or DETACHING answers NOT_ATTACHED (R165). -/
theorem AtHead.taking_away (h : AtHead s p (some c) f rest)
    (hs : (s.ports.get p).status = .detached ∨ (s.ports.get p).status = .detaching) (owner : Frame → State → State) :
    s.taking p c owner = s.answered p f rest .notAttached .none := by
  have ha : (s.ports.get p).status ≠ .attached := by rcases hs with h | h <;> simp [h]
  have e := h.takeHead (by rcases hs with h | h <;> simp [h, PortStatus.takes]) (fun a => absurd a ha)
  rw [State.taking, e]
  simp only [ha, if_false]
  exact State.complete_taken _ _ (by rcases hs with h | h <;> simp [h])

end Sys2Proof.Machine
end

