-- ==== Sys2Proof/Laws/Link.lean ====
section
/-! SUPPORT. The link's account of its commands inside an event: `State.Ledger` says how many commands of each port have
left its queue without an entry or a completion yet, and which entries blocks still work on. The shared operations of the
ports move a command from one column to the next (R176 to R179); between events the ledger is `State.Accounted`. -/

namespace Sys2Proof.Machine

/-- A port's account while `d` commands taken from its queue have neither an entry nor a completion yet, and blocks work on
the entries `w`. -/
structure PortState.Ledger (q : PortState) (d : Nat) (w : List InFlight) : Prop where
  room : q.notices.length + q.owed ≤ 32
  lengths : q.queue.length ≤ 16 ∧ q.inFlight.length ≤ 8
  owed : q.status ≠ .resetting → q.owed = q.queue.length + q.inFlight.length + d
  resetting : q.status = .resetting → q.owed = 0 ∧ q.queue = []
  entries : ∀ e, w.count e ≤ q.inFlight.count e

/-- The ledgers of both ports. -/
def State.Ledger (s : State) (d : PerPort Nat) (w : PerPort (List InFlight)) : Prop :=
  ∀ p, (s.ports.get p).Ledger (d.get p) (w.get p)

variable {s t : State} {p : Port} {d : PerPort Nat} {w : PerPort (List InFlight)} {q r : PortState} {k : Nat}
  {v x : List InFlight}

/-- Between events the ledger is the account. -/
theorem State.accounted_iff : s.Accounted ↔ s.Ledger ⟨0, 0⟩ ⟨s.inWork .a, s.inWork .b⟩
    ∧ ∀ p op, s.arbiter.grant = some (.port p op) → (s.arbiter.queues.get p).head? = some op := by
  constructor
  · rintro ⟨a, b, c, e, f, g⟩
    exact ⟨fun p => by cases p <;> exact ⟨a _, b _, c _, e _, f _⟩, g⟩
  · rintro ⟨h, g⟩
    exact ⟨fun p => (h p).room, fun p => (h p).lengths, fun p n => by have := (h p).owed n; cases p <;> exact this,
      fun p => (h p).resetting, fun p => by have := (h p).entries; cases p <;> exact this, g⟩

/-! ## One port -/

/-- Fewer entries to work on. -/
theorem PortState.Ledger.mono (h : q.Ledger k v) (sub : ∀ e, x.count e ≤ v.count e) : q.Ledger k x :=
  { h with entries := fun e => (sub e).trans (h.entries e) }

/-- What the ledger does not count may change. -/
theorem PortState.Ledger.congr (h : q.Ledger k v) (a : r.notices = q.notices) (b : r.owed = q.owed)
    (c : r.queue = q.queue) (d : r.inFlight = q.inFlight) (e : r.status = q.status) : r.Ledger k v :=
  ⟨by rw [a, b]; exact h.room, by rw [c, d]; exact h.lengths, by rw [b, c, d, e]; exact h.owed,
    by rw [b, c, e]; exact h.resetting, by rw [d]; exact h.entries⟩

/-- A queued event raises held while held plus owed is below 32 (R179). -/
theorem PortState.Ledger.join (h : q.Ledger k v) (n : Notice) (lt : q.notices.length + q.owed < 32) :
    (q.join n).Ledger k v :=
  ⟨by simpa using (by omega : q.notices.length + 1 + q.owed ≤ 32), h.lengths, h.owed, h.resetting, h.entries⟩

/-- A completion moves from owed to held (R178). -/
theorem PortState.Ledger.delivered (h : q.Ledger (k + 1) v) (n : Notice) (ne : q.status ≠ .resetting) :
    ({ q.join n with owed := q.owed - 1 } : PortState).Ledger k v := by
  have o := h.owed ne
  have m := h.room
  refine ⟨?_, h.lengths, fun _ => ?_, fun e => absurd e ne, h.entries⟩
  · simp; omega
  · simp; omega

/-- An entry that is freed leaves a command to complete (R178). -/
theorem PortState.Ledger.freed {e : InFlight} (h : q.Ledger k (e :: v)) :
    ({ q with inFlight := q.inFlight.erase e } : PortState).Ledger (k + 1) v := by
  have i : e ∈ q.inFlight := List.count_pos_iff.mp (by have := h.entries e; simp at this; omega)
  have l := List.length_erase_of_mem i
  have pos := List.length_pos_of_mem i
  refine ⟨h.room, ⟨h.lengths.1, by simp only [l]; have := h.lengths.2; omega⟩, fun ne => ?_, h.resetting, fun x => ?_⟩
  · have := h.owed ne; simp only [l]; omega
  · have := h.entries x
    simp only [List.count_erase, List.count_cons] at this ⊢
    split at this <;> (split <;> simp_all <;> try omega)

/-- A long command gets an entry that a block works on (R177). -/
theorem PortState.Ledger.entered (h : q.Ledger (k + 1) v) (e : InFlight) (room : q.inFlight.length < 8) :
    ({ q with inFlight := q.inFlight ++ [e] } : PortState).Ledger k (v ++ [e]) := by
  refine ⟨h.room, ⟨h.lengths.1, by simp; omega⟩, fun ne => ?_, h.resetting, fun x => ?_⟩
  · have := h.owed ne; simp; omega
  · have := h.entries x; simp only [List.count_append]; omega

/-- A command leaves the head of the queue (R177). -/
theorem PortState.Ledger.taken {f : Frame} {rest : List Frame} (h : q.Ledger k v) (ne : q.status ≠ .resetting)
    (e : q.queue = f :: rest) : ({ q with queue := rest } : PortState).Ledger (k + 1) v := by
  have o := h.owed ne
  have l := h.lengths
  rw [e] at o l
  simp only [List.length_cons] at o l
  exact ⟨h.room, ⟨by show rest.length ≤ 16; omega, l.2⟩, fun _ => by show q.owed = rest.length + q.inFlight.length + (k + 1); omega,
    fun r => absurd r ne, h.entries⟩

/-- An accepted frame joins the queue and is owed a completion (R176). -/
theorem PortState.Ledger.accepted (h : q.Ledger k v) (f : Frame) (ne : q.status ≠ .resetting)
    (room : q.hasRoom = true) : (q.accept f).Ledger k v := by
  obtain ⟨a, b⟩ : q.queue.length < 16 ∧ q.notices.length + q.owed < 32 := by
    have r := Bool.and_eq_true_iff.mp room
    exact ⟨of_decide_eq_true r.1, of_decide_eq_true r.2⟩
  have o := h.owed ne
  refine ⟨?_, ⟨?_, h.lengths.2⟩, fun _ => ?_, fun r => absurd r ne, h.entries⟩
  · show q.notices.length + (q.owed + 1) ≤ 32; omega
  · show (q.queue ++ [f]).length ≤ 16; simp; omega
  · show q.owed + 1 = (q.queue ++ [f]).length + q.inFlight.length + k; simp; omega

/-! ## The state -/

theorem State.Ledger.of_ports (h : s.Ledger d w) (e : t.ports = s.ports) : t.Ledger d w := fun p => by
  rw [e]; exact h p

/-- A change of one port. -/
theorem State.Ledger.modPort (h : s.Ledger d w) {f : PortState → PortState} (g : (f (s.ports.get p)).Ledger k v) :
    (s.modPort p f).Ledger (d.set p k) (w.set p v) := fun r => by
  by_cases e : r = p
  · subst e; simpa using g
  · simpa [PerPort.get_set_ne _ _ _ _ e] using h r

/-- A change of one port that moves nothing in its ledger. -/
theorem State.Ledger.modPort_same (h : s.Ledger d w) {f : PortState → PortState}
    (g : (f (s.ports.get p)).Ledger (d.get p) (w.get p)) : (s.modPort p f).Ledger d w := by
  simpa using h.modPort g

/-- Offering an event notice keeps the ledger (R179). -/
theorem State.Ledger.notify (h : s.Ledger d w) (p : Port) (n : Notice) : (s.notify p n).Ledger d w := by
  rcases s.notify_cases p n with ⟨-, e⟩ | ⟨-, lt, e⟩ | ⟨-, -, e⟩ <;> rw [e]
  · exact h
  · exact h.modPort_same ((h p).join n lt)
  · exact (h.modPort_same (f := fun q => { q with lost := satSucc255 q.lost })
      ((h p).congr rfl rfl rfl rfl rfl)).of_ports rfl

theorem State.Ledger.notifyIf (h : s.Ledger d w) (x : Topic) (p : Port) (n : Notice) :
    (State.notifyIf x p n s).Ledger d w := by
  unfold State.notifyIf; split
  · exact h.notify p n
  · exact h

theorem State.Ledger.publish (h : s.Ledger d w) (x : Topic) (n : Notice) : (s.publish x n).Ledger d w :=
  (h.notifyIf x .a n).notifyIf x .b n

theorem State.Ledger.portChange (h : s.Ledger d w) (p : Port) : (s.portChange p).Ledger d w :=
  State.Ledger.notifyIf h _ _ _

/-- A completion is produced (R178): of a port in RESETTING it is discarded. -/
theorem State.Ledger.deliver (h : s.Ledger d w) (p : Port) (n : Notice) (e : d.get p = k + 1) :
    (s.deliver p n).Ledger (d.set p k) w := by
  by_cases r : (s.ports.get p).status = .resetting
  · rw [State.deliver_of_resetting n r]
    intro x
    by_cases y : x = p
    · subst y
      exact { h x with owed := fun ne => absurd r ne }
    · simpa [PerPort.get_set_ne _ _ _ _ y] using h x
  · rw [State.deliver_of_ne n r]
    have := h.modPort (p := p) (f := fun q => { q.join n with owed := q.owed - 1 }) (k := k) (v := w.get p)
      (PortState.Ledger.delivered (by rw [← e]; exact h p) n r)
    simpa using this

theorem State.Ledger.complete (h : s.Ledger d w) (p : Port) (f : Frame) (st : Status) (res : Result)
    (e : d.get p = k + 1) : (s.complete p f st res).Ledger (d.set p k) w := h.deliver p _ e

/-- A long command completes, and no block works on its entry any more (R178). -/
theorem State.Ledger.completeHeld (h : s.Ledger d w) (p : Port) (c : Cmd) (tag : Byte) (st : Status)
    (reason : Option PlaceholderReason) (res : Result) (e : w.get p = ⟨c.code, tag⟩ :: v) :
    (s.completeHeld p c tag st reason res).Ledger d (w.set p v) := by
  have a := h.modPort (p := p) (f := fun q => { q with inFlight := q.inFlight.erase ⟨c.code, tag⟩ })
    (PortState.Ledger.freed (by rw [← e]; exact h p))
  have b := a.deliver p (.completion tag c.code st reason res) (k := d.get p) (by simp)
  simpa [State.completeHeld] using b

/-- A long command that was taken gets its entry (R177). -/
theorem State.Ledger.enter (h : s.Ledger d w) (p : Port) (f : Frame) (e : d.get p = k + 1)
    (room : (s.ports.get p).inFlight.length < 8) :
    (s.enter p f).Ledger (d.set p k) (w.set p (w.get p ++ [⟨f.code, f.tag⟩])) :=
  h.modPort (f := fun q => { q with inFlight := q.inFlight ++ [⟨f.code, f.tag⟩] })
    (PortState.Ledger.entered (by rw [← e]; exact h p) _ room)

end Sys2Proof.Machine
end

