-- ==== Sys2Proof/Tests/Slice0.lean ====
section
/-! SUPPORT. Tests: ill-formed commands, values worked out by hand from the rules, one step of each kind on small states,
and a witness for the hypotheses of each statement. -/

namespace Sys2Proof.Tests

open Sys2Proof.Machine

/-! ## Ill-formed commands are refused by WellFormed -/

theorem test_wf_empty_frame : (Instr.commandFrame .a []).wellFormed = false := by decide
theorem test_wf_notice_read_byte : (Instr.commandFrame .a [0x5A, 0x20]).wellFormed = true := by decide
theorem test_wf_frame : (Instr.commandFrame .a [0xA5]).wellFormed = true := by decide
theorem test_wf_line_burst : (Instr.composeLine .o0 ⟨[⟨0, 0, ⟨16384, 0⟩, false⟩], 0, 0⟩).wellFormed = false := by decide
theorem test_wf_ecc_page : (Instr.eccCorrected .loader ⟨16384, 0⟩).wellFormed = false := by decide
theorem test_wf_ecc_offset : (Instr.eccUncorrectable .output0 ⟨0, 33⟩).wellFormed = false := by decide
theorem test_wf_ecc_offset_high : (Instr.eccUncorrectable .output1 ⟨16383, 4096⟩).wellFormed = false := by decide
theorem test_wf_ecc_last : (Instr.eccUncorrectable .output1 ⟨16383, 4064⟩).wellFormed = true := by decide

/-! ## Values by hand -/

/-- The standard check string of the CRC-16 of Section 10.8 (polynomial 0x1021, initial 0xFFFF, no reflection). -/
theorem test_crc16 : crc16 [0x31, 0x32, 0x33, 0x34, 0x35, 0x36, 0x37, 0x38, 0x39] = 0x29B1 := by decide +kernel
/-- The standard check string of the CRC-32 of R111. -/
theorem test_crc32 : crc32 [0x31, 0x32, 0x33, 0x34, 0x35, 0x36, 0x37, 0x38, 0x39] = 0xCBF43926 := by decide +kernel
/-- R57: 128 × 128 / 255 = 64.25. -/
theorem test_mul255 : mul255 128 128 = 64 := by decide
/-- R59: R5 = 16 gives 132. -/
theorem test_expand565_red : (expand565 0x8000).r = 132 := by decide
/-- R61: black and white of studio range. -/
theorem test_expandYC : expandYC 16 128 128 = ⟨255, 0, 0, 0⟩ ∧ expandYC 235 128 128 = ⟨255, 255, 255, 255⟩ := by decide
/-- R9: the fallback poster takes 172,800 bytes and 43 pages (Table 0-1). -/
theorem test_pageCount : byteSize .rgb565 240 360 = 172800 ∧ pageCount 172800 = 43 := by decide
/-- R33: a start beyond the source moves to its last sample, a length of 0 becomes 1. -/
theorem test_clampAxis : clampAxis 500 10 400 = (399, 1) ∧ clampAxis 0 0 400 = (0, 1) := by decide
/-- R87: 2^31 apart, neither stamp is at or before the other. -/
theorem test_stamps : atOrBefore 0 0x80000000 = false ∧ atOrBefore 0x80000000 0 = false
    ∧ isAfter 0 0xFFFFFFFF = true := by decide
/-- R153: the sequence after 65,535 is 1. -/
theorem test_nextSequence : nextSequence 65535 = 1 := by decide
/-- Table 11-2: the defaults run at 30 stamp units over 1,500: 1200 × 1980 clocks at 142,560 kHz are 1/60 s. -/
theorem test_defaultAdvance : defaultImage.timing.o0.advanceN / defaultImage.timing.o0.advanceD = 1500 := by decide
/-- R190: an excess of 1 over the pool comes off the POSTERS budget while it is above 1,024. -/
theorem test_reduceBudgets : reduceBudgets 8000 7000 1321 = (8000, 7000, 1320) := by decide

/-- R190: POSTERS down to 1,024 first, then PORT_B, then PORT_A; the absent port's budget goes to the present one. -/
theorem test_budget_order : reduceBudgets 9000 8000 2000 = (9000, 6296, 1024)
    ∧ reduceBudgets 16000 500 2000 = (15296, 0, 1024) ∧ settleBudgets ⟨true, false⟩ 8000 7000 1321 = (15000, 0, 1320)
    ∧ settleBudgets ⟨false, true⟩ 8000 7000 1321 = (0, 15000, 1320) := by decide

/-- R137: the cycle begins after the turn; a deferred erase is passed over. -/
theorem test_next_grant : Requester.after (.port .a) (.port .b) = 0 ∧ Requester.after .loader .loader = 2
    ∧ ({ Arbiter.reset with
          grant := none, turn := .loader, reread := true, request := some ⟨0, 95⟩
          queues := ⟨[⟨1, .erase 0⟩], [⟨2, .read 0 1⟩]⟩ } : Arbiter).giveNext.grant = some (.port .b ⟨2, .read 0 1⟩) := by decide

/-! ## Small states -/

/-- The smallest timing of Table 4-1. -/
def smallTiming : TimingRecord :=
  { flag := true, width := 320, height := 240, htotal := 336, vtotal := 244, pixelKHz := 300000
    background := ⟨1, 2, 3⟩, lineBudget := 4096, wakeFields := 1 }

/-- An output that drives the smallest timing. -/
def lit (st : PanelState) (w : PerPort (Option Wish)) : OutputState :=
  { OutputState.reset with timing := smallTiming, running := true, panel := st, wishes := w }

/-- A surface of one page. -/
def surf (owner : Account) (kind : SurfaceKind) (st : SurfaceState) (page : Nat) (refs : Nat) : Option Surface :=
  some { owner := owner, kind := kind, width := 4, height := 4, format := .rgb565, byteSize := 32, pages := [page]
         state := st, attached := none, damaged := false, refs := ⟨refs, 0⟩ }

/-- Entries: 1 and 2 port A's, 3 port B's, 4 a RETIRING one of port A, 5 a pinned poster, 6 a LOADING one, 7 a poster at
255 references. -/
def someEntries : List SurfaceEntry :=
  [SurfaceEntry.fallback, ⟨9, surf .portA .port .defined 64 0⟩, ⟨9, surf .portA .port .defined 65 0⟩,
    ⟨9, surf .portB .port .defined 66 0⟩, ⟨9, surf .portA .port .retiring 67 0⟩, ⟨9, surf .posters .poster .resident 68 1⟩,
    ⟨9, surf .posters .poster .loading 69 0⟩, ⟨9, surf .posters .poster .resident 70 255⟩]
    ++ List.replicate 152 { gen := 0, body := none }

/-- A directory record of a title. -/
def record (title : Nat) (bad : Bool) : DirRecord :=
  { title := title, offset := 65536, width := 4, height := 4, format := .rgb565, length := 32, crc := 0, bad := bad }

/-- The part RUNNING: output 0 lit and ACTIVE, output 1 disabled, a few surfaces, ports DETACHED. -/
def base : State :=
  { State.reset with
    startUp := { StartUp.reset with starting := false }
    outputs := ⟨lit .active ⟨some .active, none⟩, OutputState.reset⟩
    cache := { PosterCache.reset with
      work := .idle, directory := some [record 1 false, record 2 true, record 5 false, record 6 false, record 7 false]
      map := [⟨5, 5, 4, 4, .rgb565, 0⟩, ⟨6, 6, 4, 4, .rgb565, 0⟩, ⟨7, 7, 4, 4, .rgb565, 0⟩] }
    arbiter := { Arbiter.reset with grant := none, reread := false }
    surfaces := { entries := someEntries, freeList := [71, 72, 73, 74], quarantined := [], portA := ⟨10, 3, 3⟩
                  portB := ⟨10, 1, 1⟩, posters := ⟨10, 3, 3⟩ } }

/-- A frame with tag 7. -/
def frame (c : Cmd) (pl : List Byte) : Frame := ⟨c.code, 7, pl⟩

/-- Port A ATTACHED with one frame in its queue. -/
def portWith (f : Frame) : PortState := { PortState.reset with status := .attached, queue := [f], owed := 1 }

/-- A state with a frame at port A's head. -/
def sent (s : State) (c : Cmd) (pl : List Byte) : State := { s with ports := ⟨portWith (frame c pl), s.ports.b⟩ }

/-- The command of the frame of `sent` is taken. -/
theorem takes (s : State) (c : Cmd) (pl : List Byte) (h₁ : s.startUp.resetPin = false) (h₂ : s.startUp.starting = false)
    (h₃ : (frame c pl).cmd? = some c) : Takes (sent s c pl) .a c (frame c pl) [] :=
  ⟨⟨h₁, h₂, rfl, h₃⟩, rfl, fun _ => Nat.zero_lt_succ 7⟩

/-- The command of the frame of `sent base` is taken. -/
theorem takes_base (c : Cmd) (pl : List Byte) (h : (frame c pl).cmd? = some c) :
    Takes (sent base c pl) .a c (frame c pl) [] := takes base c pl rfl rfl h

/-- Changes the caches of a state. -/
def withCache (s : State) (f : PosterCache → PosterCache) : State := { s with cache := f s.cache }

/-- Changes the arbiter of a state. -/
def withArbiter (s : State) (f : Arbiter → Arbiter) : State := { s with arbiter := f s.arbiter }

/-- `base` with output 0 as given. -/
def withOut (q : OutputState) : State := { base with outputs := ⟨q, OutputState.reset⟩ }

/-- `base` with FAULT set. -/
def faulty : State := { base with errors := { base.errors with fault := true } }

/-- A slot of stream 0. -/
def slot (i : Nat) (st : SlotState) (x : Option Word32) : Slot := ⟨⟨i, 9⟩, st, x⟩

/-- Stream 0 in a state, owned by port A, clocked by output 0, with two slots. -/
def stream (st : StreamState) : StreamRecord :=
  { StreamRecord.reset with
    state := st, owner := some .a, clockOutput := some .o0, slots := [slot 1 .ready (some 5), slot 2 .empty none]
    ready := [0], clock := 0, startStamp := some 9, lastStamp := some 5 }

/-- `base` with stream 0 as given. -/
def withStream (r : StreamRecord) : State := { base with streams := ⟨r, StreamRecord.reset⟩ }

/-- `base` with no reference on the poster of entry 5. -/
def unpinned : State :=
  { base with surfaces := { base.surfaces with entries := base.surfaces.entries.set 5 ⟨9, surf .posters .poster .resident 68 0⟩ } }

/-! ## One step of each kind -/

theorem test_status_read : exec (.statusRead .a) base = .next
    { base with ports := ⟨{ PortState.reset with answer := some [1, 0, 0, 1] }, PortState.reset⟩ } := by rfl

theorem test_set_panel_state : ∃ t, exec (.setPanel .a) (sent base .setPanel [0, 3]) = .next t
    ∧ t.outputs.o0.wishes = ⟨some .asleep, none⟩ ∧ t.outputs.o0.panel = .active := ⟨_, rfl, rfl, rfl⟩

theorem test_frame_ready_state : ∃ t, exec (.frameReady .a)
    (sent (withStream (stream .running)) .frameReady [0, 1, 6, 0, 0, 0]) = .next t ∧ t.streams.s0.ready = [0, 1] :=
  ⟨_, rfl, by decide⟩

theorem test_free_surface_state : ∃ t, exec (.freeSurface .a) (sent base .freeSurface [1, 9]) = .next t
    ∧ t.surfaces.freeList = [71, 72, 73, 74, 64] ∧ t.surfaces.portA = ⟨10, 2, 2⟩ :=
  ⟨_, rfl, by decide, by decide⟩

theorem test_ecc_state : ∃ t, exec (.eccUncorrectable .output0 ⟨68, 32⟩) base = .next t
    ∧ t.errors.bad = [68] ∧ t.cache.stale = [5] ∧ t.errors.capture.sequence = 1 :=
  ⟨_, rfl, by decide, by decide, by decide⟩

theorem test_program_ands : programFlash [(5, 0x0F)] 5 [0x3C, 0xFF] = [(5, 0x0C)] := by decide

theorem test_erase_clears : eraseFlash [(5, 0x0F), (65536, 0x01)] 0 = [(65536, 0x01)] := by decide

/-! ## Witnesses: the hypotheses of each statement can be met, clause by clause -/

/-- Port A of `sent s c pl` takes its frame. -/
abbrev T (s : State) (c : Cmd) (pl : List Byte) : Prop := Takes (sent s c pl) .a c (frame c pl) []

/-- `base` with port A's frame at the head of a port in a status. -/
def headIn (st : PortStatus) (c : Cmd) (pl : List Byte) : State :=
  { base with ports := ⟨{ portWith (frame c pl) with status := st }, PortState.reset⟩ }

/-- The frame of `headIn` is at the head. -/
theorem at_head (st : PortStatus) (c : Cmd) (pl : List Byte) (h : (frame c pl).cmd? = some c) :
    AtHead (headIn st c pl) .a (some c) (frame c pl) [] := ⟨rfl, rfl, rfl, h⟩

theorem witness_StepRunsFrontCommand :
    ({ base with pending := [.resetAssert] } : State).pending = .resetAssert :: [] ∧ base.pending = [] := ⟨rfl, rfl⟩

theorem witness_EveryCommandCompletes : (Instr.eccCorrected .output0 ⟨16383, 4064⟩).wellFormed = true
    ∧ Burst.valid ⟨16384, 0⟩ = false ∧ Burst.valid ⟨0, 4096⟩ = false ∧ Burst.valid ⟨0, 1⟩ = false
    ∧ ∃ t, exec .resetAssert base = .next t := by
  refine ⟨by decide, by decide, by decide, by decide, _, rfl⟩

theorem witness_ColdResetTaken :
    (withArbiter base (fun a => { a with grant := some (.port .a ⟨1, .program 255 [0]⟩) })).arbiter.grant
        = some (.port .a ⟨1, .program 255 [0]⟩)
    ∧ (FlashOpKind.program 255 [0]).range = some ⟨255, 1⟩ ∧ (FlashOpKind.read 0 1).range = none
    ∧ base.arbiter.grant = none := ⟨rfl, rfl, rfl, rfl⟩

theorem witness_ResetAssertTaken : State.reset.arbiter.grant = some (.loader ⟨0, 95⟩) ∧ base.arbiter.grant = none
    ∧ (withArbiter base (fun a => { a with grant := some (.port .a ⟨1, .read 0 1⟩) })).arbiter.grant
        = some (.port .a ⟨1, .read 0 1⟩) := ⟨rfl, rfl, rfl⟩

theorem witness_HeldResetDoesNothing :
    ({ base with startUp := { base.startUp with resetPin := true } } : State).startUp.resetPin = true
    ∧ (Instr.fieldStart .o0).wellFormed = true ∧ (∀ a b, Instr.fieldStart .o0 ≠ .coldReset a b)
    ∧ Instr.fieldStart .o0 ≠ .resetAssert ∧ ∀ p, Instr.fieldStart .o0 ≠ .linkGap p :=
  ⟨rfl, rfl, (by simp), (by simp), by simp⟩

theorem witness_StepKeepsCanonicalMemories :
    MemoriesCanonical { base with frame := [(4096, 1)], flash := [(0, 0)], pending := [.resetAssert] }
    ∧ ∃ t, step { base with frame := [(4096, 1)], flash := [(0, 0)], pending := [.resetAssert] } = .next t :=
  ⟨by unfold MemoriesCanonical; decide, _, rfl⟩

/-- A whole pool: right after reset with a page reported and quarantined by hand. -/
def wholePool : State :=
  { State.reset with
    surfaces := { SurfaceManager.reset with freeList := List.range' 65 16319, quarantined := [64] }
    errors := { State.reset.errors with bad := [64] }, pending := [.resetAssert] }

theorem witness_StepKeepsPoolWhole : PoolWhole wholePool ∧ ∃ t, step wholePool = .next t := by
  refine ⟨?_, _, rfl⟩
  have hd : wholePool.surfaces.entries.drop 1 = List.replicate 159 { gen := 0, body := none } := rfl
  have hr : List.range' 64 16320 = 64 :: List.range' 65 16319 := rfl
  refine { entries := rfl, fallback := ⟨_, rfl, rfl, rfl⟩, others := ?_, pages := ?_, accounts := ?_, badPages := ?_ }
  · rw [hd]; intro e he x hx; rw [List.eq_of_mem_replicate he] at hx; cases hx
  · rw [hd, hr]
    have : (List.replicate 159 ({ gen := 0, body := none } : SurfaceEntry)).flatMap (·.pages) = [] := by
      simp [SurfaceEntry.pages]
    rw [this, List.append_nil]
    exact List.perm_append_comm
  · intro a _
    unfold SurfaceManager.accountSound
    rw [hd]
    cases a <;> simp [SurfaceEntry.ownedBy, wholePool, SurfaceManager.reset, SurfaceManager.account]
  · refine ⟨by decide, by decide, ?_⟩
    intro p hp
    have : p = 64 := by simpa [wholePool] using hp
    omega

/-- A state with a locked capture record that has lost results. -/
def captured : State :=
  { base with
    errors := { bad := [68], fault := false, capture := { Capture.reset with
      sequence := 65535, page := some 68, locked := true, lost := true, lostCount := 255 } }
    pending := [.eccUncorrectable .loader ⟨69, 0⟩] }

theorem witness_StepKeepsCaptureSound : CaptureSound captured ∧ ∃ t, step captured = .next t :=
  ⟨by unfold CaptureSound; decide, _, rfl⟩

theorem witness_CountersNeverFall : (∀ a b, Instr.resetAssert ≠ .coldReset a b)
    ∧ ∃ t, exec .resetAssert base = .next t := ⟨by simp, _, rfl⟩

theorem witness_MemoriesWrittenOnlyBy : (∀ a b, Instr.fieldStart .o0 ≠ .coldReset a b)
    ∧ (∀ p, Instr.fieldStart .o0 ≠ .writeSurface p) ∧ Instr.fieldStart .o0 ≠ .loaderReadEnd
    ∧ Instr.fieldStart .o0 ≠ .flashOperationDone ∧ Instr.fieldStart .o0 ≠ .deviceAcceptsCommands
    ∧ ∃ t, exec (.fieldStart .o0) base = .next t :=
  ⟨by simp, by simp, by simp, by simp, by simp, _, rfl⟩

theorem witness_BadListGrowsAndFaultStays : (∀ a b, Instr.fieldStart .o0 ≠ .coldReset a b)
    ∧ (∀ r b, Instr.fieldStart .o0 ≠ .eccUncorrectable r b) ∧ (∀ p, Instr.fieldStart .o0 ≠ .restart p)
    ∧ faulty.errors.fault = true ∧ ∃ t, exec (.fieldStart .o0) faulty = .next t :=
  ⟨by simp, by simp, by simp, rfl, _, rfl⟩

theorem witness_ChargesStayWithinBudgets : ChargedWithinBudget base ∧ (∃ t, exec .loaderReadEnd base = .next t)
    ∧ ChargedWithinBudget State.reset ∧ (∃ t, exec .loaderReadEnd State.reset = .next t)
    ∧ State.reset.cache.work = .startConfig .one ∧ ∀ a, (State.reset.surfaces.account a).charged = 0 :=
  ⟨by intro a; cases a <;> decide, ⟨_, rfl⟩, by intro a; cases a <;> decide, ⟨_, rfl⟩, rfl,
    by intro a; cases a <;> rfl⟩

/-- Port A ATTACHED with `n` completions owed. -/
def owing (n : Nat) : State :=
  { base with ports := ⟨{ PortState.reset with status := .attached, owed := n }, PortState.reset⟩ }

theorem witness_EventNoticeOffered : (base.ports.get .a).status ≠ .attached
    ∧ ((owing 31).ports.get .a).notices.length + ((owing 31).ports.get .a).owed < 32
    ∧ 32 ≤ ((owing 32).ports.get .a).notices.length + ((owing 32).ports.get .a).owed
    ∧ ((owing 32).ports.get .a).status = .attached := by decide

theorem witness_NotAttachedAnswered :
    AtHead (headIn .detaching .attach []) .a (some .attach) (frame .attach []) []
    ∧ AtHead (headIn .detached .queryPool []) .a (some .queryPool) (frame .queryPool []) []
    ∧ AtHead (headIn .detached .queryPool [0]) .a none (frame .queryPool [0]) [] :=
  ⟨at_head _ _ _ rfl, at_head _ _ _ rfl, ⟨rfl, rfl, rfl, rfl⟩⟩

theorem witness_NothingTaken : State.reset.startUp.starting = true
    ∧ (State.coldReset false true base).ports.a.status = .absent
    ∧ (headIn .resetting .attach []).ports.a.status = .resetting
    ∧ ((base.ports.get .a).queue.head?).bind Frame.cmd? ≠ some .attach
    ∧ ({ headIn .attached .detach [] with ports := ⟨{ portWith (frame .detach []) with
        inFlight := List.replicate 8 ⟨0x22, 1⟩ }, PortState.reset⟩ } : State).ports.a.inFlight.length = 8
    ∧ Cmd.detach.isLong = true := by
  refine ⟨rfl, rfl, rfl, ?_, rfl, rfl⟩
  decide

theorem witness_AttachTaken :
    AtHead (headIn .attached .attach []) .a (some .attach) (frame .attach []) []
    ∧ AtHead (headIn .detached .attach []) .a (some .attach) (frame .attach []) []
    ∧ base.outputEnabled .o0 = true ∧ base.outputEnabled .o1 = false ∧ (base.outputs.get .o0).panel ≠ .asleep
    ∧ panelTarget (lit .asleep ⟨none, some .asleep⟩).wishes ≠ .active
    ∧ ({ (owing 29).ports.a with mask := 8 } : PortState).hears 3 3 :=
  ⟨at_head _ _ _ rfl, at_head _ _ _ rfl, rfl, rfl, (by decide), (by decide), rfl, (by decide), by decide⟩

/-- Output 0 ASLEEP, and kept so by the wish of port B, with a LATCH of port A waiting. -/
def asleepLatch : OutputState := { lit .asleep ⟨some .asleep, some .asleep⟩ with running := false, latches := [⟨.a, 3⟩] }

/-- Port A with a LATCH on an ASLEEP output, an open stream, a waiting load, a poster reference and two flash reads, of which
the first is at work. -/
def busyPort : State :=
  { withCache (withArbiter (withOut asleepLatch) (fun a =>
      { a with grant := some (.port .a ⟨1, .read 0 1⟩), queues := ⟨[⟨1, .read 0 1⟩, ⟨2, .read 0 1⟩], []⟩ }))
      (fun c => { c with queue := [⟨1, [⟨.a, 5⟩, ⟨.b, 6⟩], false⟩] }) with
    streams := ⟨stream .running, StreamRecord.reset⟩ }

theorem witness_DetachTaken : T base .detach [] ∧ T busyPort .detach [] ∧ (sent busyPort .detach []).DeviceSettled
    ∧ (sent busyPort .detach []).waitersOf .a = [⟨.a, 5⟩] ∧ (sent busyPort .detach []).cancelledOps .a = [⟨2, .read 0 1⟩]
    ∧ ((sent { base with ports := ⟨PortState.reset, { (owing 0).ports.a with mask := 8 }⟩ } .detach []).ports.get
        Port.a.other).mask.getLsbD 3 = true
    ∧ ∃ x, base.surfaceAt 1 = some x ∧ x.owner = accountOf .a ∧ x.state = .defined ∧ x.attached = none :=
  ⟨takes _ _ _ rfl rfl rfl, takes _ _ _ rfl rfl rfl, .inr (by decide), by decide, by decide,
    by decide, _, rfl, rfl, rfl, rfl⟩

theorem witness_PortResetAsserted : base.startUp.resetPin = false
    ∧ ((State.coldReset false true base).ports.get .a).status = .absent
    ∧ ((headIn .resetting .attach []).ports.get .a).status = .resetting
    ∧ ((owing 0).ports.get .a).status = .attached ∧ (base.ports.get .a).status = .detached := ⟨rfl, rfl, rfl, rfl, rfl⟩

theorem witness_PortResetReleased : ((headIn .resetting .attach []).ports.get .b).status = .detached
    ∧ ({ headIn .resetting .attach [] with surfaces := SurfaceManager.reset } : State).TeardownOver .a
    ∧ ¬ (headIn .resetting .attach []).TeardownOver .a
    ∧ ((headIn .resetting .attach []).ports.get .a).inFlight = [] := by
  rw [← State.teardownDone_iff, ← State.teardownDone_iff]
  exact ⟨rfl, by decide, by decide, rfl⟩

theorem witness_RestartTaken :
    Takes { base with ports := ⟨{ portWith (frame .restart []) with queue := [frame .restart [], frame .attach []] },
      PortState.reset⟩ } .a .restart (frame .restart []) [frame .attach []]
    ∧ T base .restart [] ∧ ((sent base .restart []).ports.get .a).inFlight = []
    ∧ ((sent base .restart []).ports.get .b).status = .detached
    ∧ T { base with ports := ⟨PortState.reset, (owing 0).ports.a⟩ } .restart []
    ∧ ((sent { base with ports := ⟨PortState.reset, (owing 0).ports.a⟩ } .restart []).ports.get .b).status = .attached :=
  ⟨⟨⟨rfl, rfl, rfl, rfl⟩, rfl, fun _ => Nat.zero_lt_succ 7⟩, takes _ _ _ rfl rfl rfl, rfl, rfl, takes _ _ _ rfl rfl rfl, rfl⟩

theorem witness_CommandFrameAccepted : (List.replicate 4112 (0 : Byte)).length ≤ 4112
    ∧ base.startUp.resetPin = false ∧ base.startUp.starting = false ∧ (base.ports.get .a).status = .detached
    ∧ (base.ports.get .a).queue.length < 16 ∧ ((owing 31).ports.get .a).notices.length + 31 < 32 := by
  refine ⟨List.length_replicate.le, rfl, rfl, rfl, by decide, by decide⟩

/-- The bytes of a frame whose length field is `n`. -/
def lengthFrame (n : Nat) : List Byte := 0xA5 :: 0x01 :: 0x07 :: b16 n

theorem witness_CommandFrameRefused : ([0xA4] : List Byte).head? ≠ some 0xA5
    ∧ ([0xA4] : List Byte).head? ≠ some 0x5A ∧ ([0xA4] : List Byte).head? ≠ some 0x3C
    ∧ 4112 < u16 (lengthFrame 4113) 3 ∧ 5 ≤ (lengthFrame 4113).length
    ∧ u16 (lengthFrame 4112) 3 ≤ 4112 ∧ (lengthFrame 4112).length < 7 + u16 (lengthFrame 4112) 3
    ∧ 7 + u16 (frameBytes 1 7 []) 3 ≤ (frameBytes 1 7 []).length
    ∧ (crc16 (((frameBytes 1 7 []).drop 1).take (4 + u16 (frameBytes 1 7 []) 3))).toNat
        = u16 (frameBytes 1 7 []) (5 + u16 (frameBytes 1 7 []) 3)
    ∧ State.reset.startUp.starting = true
    ∧ 32 ≤ ((owing 32).ports.get .a).notices.length + ((owing 32).ports.get .a).owed := by decide +kernel

/-- A notice. -/
def aNotice : Notice := .fieldStart .o0 0

/-- Port A holding two notices. -/
def holding : State :=
  { base with ports := ⟨{ PortState.reset with status := .attached, notices := [aNotice, aNotice] }, PortState.reset⟩ }

theorem witness_NoticeReadTaken : holding.startUp.resetPin = false ∧ (holding.ports.get .a).status ≠ .absent
    ∧ min (min (1 : Byte).toNat 32) (holding.ports.get .a).notices.length < (holding.ports.get .a).notices.length
    ∧ min (min (255 : Byte).toNat 32) (holding.ports.get .a).notices.length = (holding.ports.get .a).notices.length := by
  decide

/-- Table 10-7: a FIELD START, the completion of a LATCH and a MEMORY ERROR without a surface, byte by byte. -/
theorem test_notice_layouts : Notice.layout (.fieldStart .o1 0x01020304) = [0x81, 5, 0, 1, 4, 3, 2, 1]
    ∧ Notice.layout (.completion 7 0x22 .ok none (.latch .o0 258)) = [0x80, 9, 0, 7, 0x22, 0, 0, 0, 2, 1, 0, 0]
    ∧ Notice.layout (.memoryError 16383 .loader 4064 none true 64 65535 255) =
        [0x85, 12, 0, 0xFF, 0x3F, 2, 0xE0, 0x0F, 0xFF, 0xFF, 1, 64, 0xFF, 0xFF, 255] := by decide

/-- The same bytes as the part writes them. -/
theorem test_notice_bytes : Notice.bytes (.fieldStart .o1 0x01020304) = [0x81, 5, 0, 1, 4, 3, 2, 1]
    ∧ Notice.bytes (.memoryError 16383 .loader 4064 none true 64 65535 255) =
        [0x85, 12, 0, 0xFF, 0x3F, 2, 0xE0, 0x0F, 0xFF, 0xFF, 1, 64, 0xFF, 0xFF, 255] := by decide

/-- R174: the first byte decides the kind: a NOTICE READ with a surplus byte reads a notice, a STATUS READ with one answers. -/
theorem test_first_byte_decides : (∃ t, exec (.commandFrame .a [0x5A, 1, 9]) holding = .next t ∧ t.ports.a.notices = [aNotice])
    ∧ (∃ t, exec (.commandFrame .a [0x3C, 9]) holding = .next t ∧ t.ports.a.answer = some [2, 2, 0, 1])
    ∧ ∃ t, exec (.commandFrame .a []) holding = .next t ∧ t = holding := ⟨⟨_, rfl, rfl⟩, ⟨_, rfl, by decide⟩, _, rfl, rfl⟩

theorem witness_StatusReadTaken : base.startUp.resetPin = false ∧ (base.ports.get .a).status ≠ .absent := by
  decide

/-- Port A with its timers at a value. -/
def timed (x : Timer) : State :=
  { base with ports := ⟨{ PortState.reset with quiet := x, hold := x }, PortState.reset⟩ }

theorem witness_LinkGapAndTimersTaken : ((State.coldReset false true base).ports.get .a).status = .absent
    ∧ ((timed (.running 1)).ports.get .a).quiet = .running 1 ∧ ((timed (.running 1)).ports.get .a).hold = .running 1
    ∧ ((timed .stopped).ports.get .a).quiet = .stopped ∧ ((timed .stopped).ports.get .a).hold = .stopped
    ∧ (base.ports.get .a).answer = none ∧ ({ PortState.reset with answer := some [1] } : PortState).answer = some [1]
    ∧ base.startUp.resetPin = false ∧ (base.ports.get .a).status ≠ .absent :=
  ⟨rfl, rfl, rfl, rfl, rfl, rfl, rfl, rfl, by decide⟩

/-- R174: the last byte of an answer, and the slot after it. -/
theorem test_read_slots : ({ PortState.reset with answer := some [1, 2] } : PortState).readSlot 1 = some 2
    ∧ ({ PortState.reset with answer := some [1, 2] } : PortState).readSlot 2 = some 0xFF := by decide

theorem witness_UnknownCommandRefused :
    AtHead (headIn .attached .queryPool [0]) .a none (frame .queryPool [0]) []
    ∧ ((headIn .attached .queryPool [0]).ports.get .a).status = .attached := ⟨⟨rfl, rfl, rfl, rfl⟩, rfl⟩

theorem witness_SubscribeTaken : T base .subscribe [0x20] ∧ T base .subscribe [0x1F]
    ∧ (0x20 : Byte).getLsbD 5 = true ∧ (0x1F : Byte).getLsbD 5 = false :=
  ⟨takes _ _ _ rfl rfl rfl, takes _ _ _ rfl rfl rfl, rfl, rfl⟩

theorem witness_ReadStatisticsTaken : T base .readStatistics [8, 0] ∧ T base .readStatistics [7, 2]
    ∧ T base .readStatistics [7, 1] ∧ T base .readStatistics [0, 0] :=
  ⟨takes _ _ _ rfl rfl rfl, takes _ _ _ rfl rfl rfl, takes _ _ _ rfl rfl rfl, takes _ _ _ rfl rfl rfl⟩

theorem witness_DefineSurfaceAccepted : T base .defineSurface (b16 4 ++ b16 4 ++ b8 Format.rgb565.code)
    ∧ base.surfaces.portA.entries < 48 ∧ base.surfaces.portA.charged + 1 ≤ base.surfaces.portA.budget
    ∧ base.surfaces.entries[8]? = some ⟨0, none⟩
    ∧ (∀ j, 1 ≤ j → j < 8 → ∃ e, base.surfaces.entries[j]? = some e ∧ e.body.isSome = true) := by
  refine ⟨takes _ _ _ rfl rfl rfl, by decide, by decide, rfl, ?_⟩
  intro j a b
  interval_cases j <;> exact ⟨_, rfl, rfl⟩

/-- `base` with port A's account as given. -/
def account (r : AccountRecord) : State := { base with surfaces := { base.surfaces with portA := r } }

theorem witness_DefineSurfaceRefused : T base .defineSurface (b16 4 ++ b16 4 ++ [4])
    ∧ T base .defineSurface (b16 0 ++ b16 4 ++ [0]) ∧ T base .defineSurface (b16 4096 ++ b16 4096 ++ [0])
    ∧ 4096 < pageCount (byteSize .pa8888 4096 4096)
    ∧ T (account ⟨10, 0, 48⟩) .defineSurface (b16 4 ++ b16 4 ++ [0])
    ∧ T (account ⟨10, 10, 47⟩) .defineSurface (b16 4 ++ b16 4 ++ [0])
    ∧ T (account ⟨100, 0, 0⟩) .defineSurface (b16 64 ++ b16 128 ++ [0])
    ∧ pageCount (byteSize .pa8888 64 128) = 8 ∧ (account ⟨100, 0, 0⟩).surfaces.freeList.length = 4
    ∧ T faulty .defineSurface (b16 4 ++ b16 4 ++ [0]) :=
  ⟨takes _ _ _ rfl rfl rfl, takes _ _ _ rfl rfl rfl, takes _ _ _ rfl rfl rfl, (by decide),
    takes _ _ _ rfl rfl rfl, takes _ _ _ rfl rfl rfl, takes _ _ _ rfl rfl rfl, (by decide), rfl,
    takes _ _ _ rfl rfl rfl⟩

/-- Payload of a WRITE SURFACE of the last byte of surface 1. -/
def lastByte (off count : Nat) (g : Byte) (i : Nat) : List Byte :=
  b8 i ++ [g] ++ b32 off ++ b16 count ++ List.replicate 8 0 ++ [0xAB]

theorem witness_WriteSurfaceStores : T base .writeSurface (lastByte 31 1 9 1)
    ∧ ∃ x, (sent base .writeSurface (lastByte 31 1 9 1)).resolve ⟨1, 9⟩ = some x ∧ x.owner = accountOf .a
      ∧ x.state = .defined ∧ x.attached = none ∧ 31 + 1 ≤ x.byteSize ∧ x.byteSize ≤ 4096 * x.pages.length
      ∧ x.pages.Nodup := by
  refine ⟨takes _ _ _ rfl rfl rfl, _, rfl, rfl, rfl, rfl, ?_⟩
  decide

/-- `base` with surface 1 in slot 0 of stream 0, which is READY. -/
def slotted : State :=
  { withStream (stream .running) with
    surfaces := { base.surfaces with
      entries := base.surfaces.entries.set 1 ⟨9, (surf .portA .port .defined 64 0).map (fun x =>
        { x with attached := some (.s0, 0) })⟩ } }

theorem witness_WriteAndFreeSurfaceRefused : T base .writeSurface (lastByte 0 2 9 1)
    ∧ T base .writeSurface (lastByte 0 1 8 1) ∧ base.resolve ⟨1, 8⟩ = none
    ∧ T base .writeSurface (lastByte 0 1 9 3) ∧ (∃ x, base.resolve ⟨3, 9⟩ = some x ∧ x.owner ≠ accountOf .a)
    ∧ T base .writeSurface (lastByte 0 1 9 4) ∧ (∃ x, base.resolve ⟨4, 9⟩ = some x ∧ x.state = .retiring)
    ∧ T slotted .writeSurface (lastByte 0 1 9 1)
    ∧ (∃ x y, slotted.resolve ⟨1, 9⟩ = some x ∧ x.attached = some (.s0, 0)
        ∧ (slotted.streams.get .s0).slots[0]? = some y ∧ y.state ≠ .empty)
    ∧ T base .writeSurface (lastByte 32 1 9 1) ∧ T faulty .writeSurface (lastByte 31 1 9 1)
    ∧ T base .freeSurface [4, 9] ∧ T slotted .freeSurface [1, 9]
    ∧ T { base with layers := base.layers.set 11 ⟨LayerCopy.reset, { LayerCopy.reset with
          output := some .o0, source := .surface ⟨1, 9⟩ }⟩ } .freeSurface [1, 9] ∧ layerIdOf .a 11 := by
  refine ⟨takes _ _ _ rfl rfl rfl, takes _ _ _ rfl rfl rfl, rfl, takes _ _ _ rfl rfl rfl, ⟨_, rfl, ?_⟩,
    takes _ _ _ rfl rfl rfl, ⟨_, rfl, rfl⟩, takes _ _ _ rfl rfl rfl, ⟨_, _, rfl, rfl, rfl, ?_⟩, takes _ _ _ rfl rfl rfl,
    takes _ _ _ rfl rfl rfl, takes _ _ _ rfl rfl rfl, takes _ _ _ rfl rfl rfl, takes _ _ _ rfl rfl rfl, Nat.le_refl 11⟩
  · decide
  · decide

theorem witness_FreeSurfaceTaken : T base .freeSurface [1, 9]
    ∧ T (withOut { lit .active ⟨none, none⟩ with holdSet := [1] }) .freeSurface [1, 9]
    ∧ (∃ x, base.resolve ⟨1, 9⟩ = some x ∧ x.owner = accountOf .a ∧ x.kind = .port ∧ x.state ≠ .retiring
        ∧ x.attached = none)
    ∧ ∀ (id : Nat) (r : LayerRecord), base.layers[id]? = some r → r.pending.output = none := by
  refine ⟨takes _ _ _ rfl rfl rfl, takes _ _ _ rfl rfl rfl, ⟨_, rfl, rfl, rfl, by decide, rfl⟩, ?_⟩
  intro id r h
  have : r ∈ List.replicate 24 (⟨LayerCopy.reset, LayerCopy.reset⟩ : LayerRecord) := List.mem_of_getElem? h
  rw [List.eq_of_mem_replicate this]; rfl

theorem witness_QueryPoolTaken : T base .queryPool [] := takes _ _ _ rfl rfl rfl

/-- A SET LAYER payload: layer, output, source code, source number and generation, then fields at their limits. -/
def layerBytes (id output code n : Nat) (g : Byte) (visible : Nat) : List Byte :=
  b8 id ++ b8 output ++ b8 0 ++ b8 code ++ b8 n ++ [g] ++ b16 4 ++ b16 0 ++ b16 0 ++ b16 5 ++ b16 61440 ++ b16 8191
    ++ b16 8192 ++ b16 1 ++ b8 1 ++ b8 255 ++ [1, 2, 3] ++ b8 1 ++ b8 visible

theorem witness_SetLayerTaken : T base .setLayer (layerBytes 11 0 1 1 9 1) ∧ layerIdOf .a 11
    ∧ layerFieldsInRange (layerBytes 11 0 1 1 9 1)
    ∧ LayerSource (layerBytes 11 0 1 1 9 1) (.surface ⟨1, 9⟩) ∧ base.maySource .a (.surface ⟨1, 9⟩)
    ∧ LayerSource (layerBytes 0 255 0 0 0 0) .none
    ∧ T (withStream (stream .opened)) .setLayer (layerBytes 11 0 2 0 0 1)
    ∧ LayerSource (layerBytes 11 0 2 0 0 1) (.stream .s0) ∧ (withStream (stream .opened)).maySource .a (.stream .s0)
    ∧ base.outputEnabled .o0 = true
    ∧ layerCount (base.layers.set 11 ⟨LayerCopy.reset, { LayerCopy.reset with output := some .o0 }⟩) .o0 ≤ 12 := by
  refine ⟨takes _ _ _ rfl rfl rfl, Nat.le_refl 11, by unfold layerFieldsInRange; decide, .surface rfl,
    ⟨_, rfl, fun _ => rfl, fun h => by cases h⟩, .none rfl, takes _ _ _ rfl rfl rfl, .stream .s0 rfl rfl, ?_, rfl,
    by decide⟩
  show StreamState.opened ≠ .idleClosed
  decide

theorem witness_SetLayerRefused : T base .setLayer (layerBytes 12 0 0 0 0 1) ∧ ¬ layerIdOf .a 12
    ∧ T base .setLayer (layerBytes 0 0 0 0 0 2) ∧ ¬ layerFieldsInRange (layerBytes 0 0 0 0 0 2)
    ∧ T base .setLayer (layerBytes 0 1 0 0 0 1) ∧ base.outputEnabled .o1 = false
    ∧ T base .setLayer (layerBytes 0 0 1 160 0 1) ∧ base.resolve ⟨160, 0⟩ = none
    ∧ T base .setLayer (layerBytes 0 0 1 3 9 1) ∧ T base .setLayer (layerBytes 0 0 2 2 0 1)
    ∧ T base .setLayer (layerBytes 0 0 2 1 0 1) ∧ (base.streams.get .s1).state = .idleClosed
    ∧ T { base with layers := List.replicate 24 ⟨{ LayerCopy.reset with output := some .o0 }, LayerCopy.reset⟩ }
        .setLayer (layerBytes 0 0 0 0 0 1) := by
  refine ⟨takes _ _ _ rfl rfl rfl, ?_, takes _ _ _ rfl rfl rfl, by unfold layerFieldsInRange; decide,
    takes _ _ _ rfl rfl rfl, rfl, takes _ _ _ rfl rfl rfl, rfl, takes _ _ _ rfl rfl rfl, takes _ _ _ rfl rfl rfl,
    takes _ _ _ rfl rfl rfl, rfl, takes _ _ _ rfl rfl rfl⟩
  show ¬ (12 : Nat) ≤ 11
  decide

theorem witness_ClearLayerTaken : T base .clearLayer [12] ∧ ¬ layerIdOf .a (12 : Byte).toNat ∧ T base .clearLayer [11]
    ∧ layerIdOf .a (11 : Byte).toNat ∧ base.layers[(11 : Byte).toNat]? = some ⟨LayerCopy.reset, LayerCopy.reset⟩ := by
  refine ⟨takes _ _ _ rfl rfl rfl, ?_, takes _ _ _ rfl rfl rfl, Nat.le_refl 11, rfl⟩
  show ¬ (12 : Nat) ≤ 11
  decide

/-- `unpinned` with the poster of entry 5 named by the pending copy of record 11 alone. -/
def named : State :=
  { unpinned with
    layers := unpinned.layers.set 11
      ⟨LayerCopy.reset, { LayerCopy.reset with output := some .o0, source := .surface ⟨5, 9⟩ }⟩ }

/-- The copy of record 11 is the last that names the poster: CLEAR LAYER unpins it (R36, R114). -/
theorem witness_ClearLayerTaken_unnames : T named .clearLayer [11] ∧ (named.layers[11]?).isSome = true
    ∧ (∃ x, named.resolve ⟨5, 9⟩ = some x ∧ x.kind = .poster ∧ x.state = .resident ∧ x.refs.a = 0 ∧ x.refs.b = 0)
    ∧ (∃ m ∈ named.cache.map, m.surface = 5) ∧ ¬ named.drawn 5 ∧ 5 ∉ named.cache.idle
    ∧ namesHandle named.layers ⟨5, 9⟩ ∧ ¬ namesHandle (List.replicate 24 ⟨LayerCopy.reset, LayerCopy.reset⟩) ⟨5, 9⟩ := by
  refine ⟨takes _ _ _ rfl rfl rfl, rfl, ⟨_, rfl, rfl, rfl, rfl, rfl⟩, ⟨⟨5, 5, 4, 4, .rgb565, 0⟩, by decide, rfl⟩,
    by unfold State.drawn; decide, by decide, ⟨_, by unfold named; exact List.mem_set (by decide) _, _, .inr rfl, by decide, rfl⟩, ?_⟩
  rintro ⟨r, hr, c, rfl | rfl, ho, -⟩ <;> rw [List.eq_of_mem_replicate hr] at ho <;> exact ho rfl

/-- It joins the idle list; off the map and on the stale list, it is given back. -/
theorem test_clear_layer_unnames :
    (∃ t, exec (.clearLayer .a) (sent named .clearLayer [11]) = .next t ∧ t.cache.idle = [5])
    ∧ ∃ t, exec (.clearLayer .a) (sent (withCache named (fun c => { c with map := [], stale := [5] })) .clearLayer [11])
        = .next t ∧ t.cache.stale = [] ∧ t.surfaces.entries[5]? = some ⟨10, none⟩ :=
  ⟨⟨_, rfl, by decide +kernel⟩, _, rfl, by decide +kernel⟩

theorem witness_LatchTaken : T base .latch [2] ∧ T base .latch [1] ∧ base.outputEnabled .o1 = false ∧ T base .latch [0]
    ∧ (0 : Byte).toNat = outputNum .o0 ∧ base.outputEnabled .o0 = true :=
  ⟨takes _ _ _ rfl rfl rfl, takes _ _ _ rfl rfl rfl, rfl, takes _ _ _ rfl rfl rfl, rfl, rfl⟩

theorem witness_SetPanelTaken : T base .setPanel [0, 2] ∧ T base .setPanel [2, 0] ∧ T base .setPanel [1, 3]
    ∧ T base .setPanel [0, 1] ∧ T (withOut (lit .asleep ⟨some .asleep, some .asleep⟩)) .setPanel [0, 0]
    ∧ panelTarget ⟨some .asleep, some .asleep⟩ = .asleep
    ∧ T (withOut (lit .asleep ⟨some .asleep, none⟩)) .setPanel [0, 1]
    ∧ ({ (owing 31).ports.a with mask := 4 } : PortState).hears 2 1 :=
  ⟨takes _ _ _ rfl rfl rfl, takes _ _ _ rfl rfl rfl, takes _ _ _ rfl rfl rfl, takes _ _ _ rfl rfl rfl,
    takes _ _ _ rfl rfl rfl, rfl, takes _ _ _ rfl rfl rfl, rfl, (by decide), by decide⟩

theorem witness_FieldStartTaken : base.startUp.resetPin = false ∧ base.outputEnabled .o0 = true
    ∧ (base.outputs.get .o0).running = true ∧ base.surfaces.entries.length = 160
    ∧ panelTarget (lit .waking ⟨some .active, none⟩).wishes = .active
    ∧ (lit .waking ⟨some .active, none⟩).timing.wakeFields = 1
    ∧ ({ (owing 30).ports.a with mask := 1 } : PortState).hears (outputNum .o0) 2
    ∧ (∃ x, base.surfaceAt 4 = some x ∧ x.state = .retiring ∧ x.kind ≠ .fallback ∧ x.attached = none)
    ∧ (∃ m ∈ base.cache.map, m.surface = 5 ∧ m.surface < 160) ∧ base.pinned 5 = true
    ∧ (unpinned.pinned 5 = false ∧ ∃ x, unpinned.surfaceAt 5 = some x ∧ x.state = .resident)
    ∧ (headIn .detaching .detach []).ports.a.status = .detaching
    ∧ (headIn .resetting .detach []).ports.a.status = .resetting :=
  ⟨rfl, rfl, rfl, rfl, rfl, rfl, ⟨rfl, by decide, by decide⟩, ⟨_, rfl, rfl, (by decide), rfl⟩,
    ⟨⟨5, 5, 4, 4, .rgb565, 0⟩, (by decide), rfl, (by decide)⟩, (by decide), ⟨by decide, _, rfl, rfl⟩,
    rfl, rfl⟩

theorem witness_FieldStartTaken_tests : base.surfaces.entries.length = 160 ∧ ∀ i, (base.streams.get i).state ≠ .closing :=
  ⟨rfl, by intro i; cases i <;> decide⟩

/-- Output 0 with a LATCH of port A due and the internal latch of port B. -/
def latching : State :=
  withOut { lit .active ⟨none, none⟩ with latches := [⟨.a, 3⟩], internal := ⟨false, true⟩ }

/-- `latching` with the entry of its LATCH, its completion owed and the room for notices used up. -/
def accounted : State :=
  { latching with
    ports := ⟨{ PortState.reset with
        status := .attached, inFlight := [⟨0x22, 3⟩], owed := 1, notices := List.replicate 31 (.fieldStart .o0 0) },
      PortState.reset⟩ }

theorem witness_EventNoticeOffered_account : accounted.Accounted ∧ ∃ t, exec (.fieldStart .o0) accounted = .next t := by
  refine ⟨⟨?_, ?_, ?_, ?_, ?_, ?_⟩, ⟨_, rfl⟩⟩
  · intro p; cases p <;> decide
  · intro p; cases p <;> decide
  · intro p; cases p <;> decide
  · intro p; cases p <;> decide
  · intro p e; cases p <;> exact Nat.le_refl _
  · intro p op h; exact absurd h (by cases p <;> exact fun h => nomatch h)

theorem witness_FieldStartTakesLatches : latching.outputEnabled .o0 = true ∧ (latching.outputs.get .o0).running = true
    ∧ (latching.outputs.get .o0).internal.get .b = true ∧ (⟨.a, 3⟩ : LatchEntry) ∈ (latching.outputs.get .o0).latches
    ∧ (latching.ports.get .a).status ≠ .resetting ∧ ∀ i, (latching.streams.get i).state ≠ .closing := by
  refine ⟨rfl, rfl, rfl, by decide, by decide, ?_⟩
  intro i; cases i <;> decide

theorem witness_StreamSelection : (withStream (stream .primed)).outputEnabled .o0 = true
    ∧ ((withStream (stream .primed)).outputs.get .o0).running = true
    ∧ ((withStream (stream .primed)).streams.get .s0).state = .primed
    ∧ ((withStream (stream .running)).streams.get .s0).state = .running
    ∧ ((withStream (stream .paused)).streams.get .s0).state = .paused
    ∧ ((withStream (stream .opened)).streams.get .s0).state = .opened
    ∧ ((stream .primed).ready ++ (stream .primed).current.toList).Nodup
    ∧ ((withStream { stream .closing with slots := [slot 1 .releasing none] }).streams.get .s0).state = .closing
    ∧ (9 - 5 : Word32).toNat < 2147483648 ∧ ¬ (0x80000005 - 5 : Word32).toNat < 2147483648 := by decide

theorem witness_FieldAdvanceSum : (lit .active ⟨none, none⟩).timing.enabled = true := rfl

theorem witness_PixelArithmetic : (255 : Nat) ≤ 255 ∧ ∃ pix, base.layerPixel []
    { id := 0, copy := { LayerCopy.reset with crop := ⟨0, 0, 1, 1⟩ }
      src := { surface := 1, width := 4, height := 4, format := .rgb565, pages := [64], sx := 65536, sy := 65536
               clampX := false, clampY := false }
      i0 := 0, i1 := 0, q := 0, g := 0, first := 0, last := 0 } 0 = some pix :=
  ⟨Nat.le_refl _, _, rfl⟩

/-- A field layer of one row of four columns. -/
def oneRow (z : Nat) : FieldLayer :=
  { id := 3, copy := { LayerCopy.reset with output := some .o0, z := z, crop := ⟨0, 0, 4, 1⟩, dw := 4, visible := true }
    source := some { surface := 1, width := 4, height := 4, format := .rgb565, pages := [64], sx := 65536, sy := 65536
                     clampX := false, clampY := false } }

theorem witness_LineBudgetRule : ((covers [oneRow 0] 320 0).map (·.cost)) = [8]
    ∧ (keptOn [oneRow 0] 320 0 8).2 = 0 ∧ (keptOn [oneRow 0] 320 0 7).2 = 1 := by decide

/-- R51, R52: the record covers line 0 with its four columns, and no line below its one row. -/
theorem witness_LineBudgetRule_covers :
    (∀ c ∈ covers [oneRow 0] 320 0, (oneRow 0).Covers 320 0 c) ∧ covers [oneRow 0] 320 1 = [] := by
  refine ⟨?_, by decide⟩
  intro c h
  obtain rfl := List.mem_singleton.mp h
  exact ⟨by decide, by decide, by decide, fun j e => by obtain rfl : j = 0 := by simpa [oneRow, LayerCopy.reset] using e
                                                        decide, by decide⟩

/-- Output 0 at a line of `oneRow` with 2 of its columns composed, one burst of it read as 0xFF, 1 pixel driven. -/
def midLine : OutputState :=
  { lit .active ⟨none, none⟩ with
    layers := [oneRow 0], work := some ⟨[⟨3, 0, ⟨64, 0⟩, some (List.replicate 32 0xFF)⟩], 2⟩, ahead := [⟨7, 7, 7⟩]
    line := [⟨8, 8, 8⟩] }

theorem witness_ComposeLineTaken : base.outputEnabled .o0 = true ∧ (base.outputs.get .o0).running = true
    ∧ ({ lit .active ⟨none, none⟩ with nextLine := 239 } : OutputState).nextLine < smallTiming.height
    ∧ smallTiming.height ≤ ({ lit .active ⟨none, none⟩ with nextLine := 240 } : OutputState).nextLine
    ∧ (base.outputs.get .o0).layers = [] ∧ ((withOut midLine).outputs.get .o0).work ≠ none
    ∧ (∀ f ∈ (midLine.work.getD ⟨[], 0⟩).fetched, f.data ≠ none) ∧ (withOut midLine).errors.bad = []
    ∧ smallTiming.width ≤ (midLine.work.getD ⟨[], 0⟩).columns + 318
    ∧ ¬ smallTiming.width ≤ (midLine.work.getD ⟨[], 0⟩).columns + 317 := by
  refine ⟨rfl, rfl, by decide, by decide, rfl, by decide, by decide, rfl, by decide, by decide⟩

/-- R72, R67: the burst read before counts, not what frame memory holds now; composed pixels are driven in order. -/
theorem test_line_keeps_burst : ∃ t, exec (.composeLine .o0 ⟨[], 1, 1⟩) (withOut midLine) = .next t
    ∧ t.outputs.o0.ahead = [⟨255, 255, 255⟩] ∧ t.outputs.o0.line = [⟨8, 8, 8⟩, ⟨7, 7, 7⟩] :=
  ⟨_, rfl, by decide +kernel, by decide +kernel⟩

/-- R63, R64: a failed burst substitutes the damage colour, and its samples count when it is read. -/
theorem test_line_failed_burst :
    ∃ t, exec (.composeLine .o0 ⟨[⟨3, 0, ⟨64, 0⟩, true⟩], 1, 0⟩)
        (withOut { midLine with work := none, ahead := [] }) = .next t
      ∧ t.outputs.o0.ahead = [⟨0, 0, 0⟩] ∧ t.counters.output.o0.damage = 4 :=
  ⟨_, rfl, by decide +kernel, by decide +kernel⟩

/-- R49: at the entry into FAULT what is composed and what is left of the line under way are background. -/
theorem test_fault_in_line : midLine.enterFault.ahead = [⟨1, 2, 3⟩] ∧ midLine.enterFault.line = [⟨8, 8, 8⟩]
    ∧ ((withOut midLine.enterFault).composeLine .o0 [] 1).outputs.o0.ahead = [⟨1, 2, 3⟩, ⟨1, 2, 3⟩] := by
  decide

/-- An OPEN STREAM payload. -/
def openBytes (i o n : Nat) (hs : List Nat) : List Byte := b8 i ++ b8 o ++ b8 n ++ hs.flatMap (fun k => b8 k ++ [9])

theorem witness_OpenStreamTaken : T base .openStream (openBytes 0 0 1 [1]) ∧ T base .openStream (openBytes 0 0 7 [1])
    ∧ T base .openStream (openBytes 0 0 2 [1]) ∧ T base .openStream (openBytes 2 0 2 [1, 2])
    ∧ T (withStream (stream .opened)) .openStream (openBytes 0 0 2 [1, 2]) ∧ T base .openStream (openBytes 1 1 2 [1, 2])
    ∧ T base .openStream (openBytes 1 0 2 [1, 160]) ∧ base.resolve ⟨160, 9⟩ = none
    ∧ T base .openStream (openBytes 1 0 2 [1, 3]) ∧ T base .openStream (openBytes 1 0 2 [1, 4])
    ∧ T base .openStream (openBytes 1 0 2 [1, 1]) ∧ T base .openStream (openBytes 1 0 2 [1, 2])
    ∧ ∃ x y, base.resolve ⟨1, 9⟩ = some x ∧ base.resolve ⟨2, 9⟩ = some y ∧ x.format ≠ .a8 ∧ y.width = x.width
        ∧ y.height = x.height ∧ y.format = x.format ∧ x.kind = .port ∧ x.owner = accountOf .a ∧ x.state = .defined
        ∧ x.attached = none :=
  ⟨takes _ _ _ rfl rfl rfl, takes _ _ _ rfl rfl rfl, takes _ _ _ rfl rfl rfl, takes _ _ _ rfl rfl rfl,
    takes _ _ _ rfl rfl rfl, takes _ _ _ rfl rfl rfl, takes _ _ _ rfl rfl rfl, rfl, takes _ _ _ rfl rfl rfl,
    takes _ _ _ rfl rfl rfl, takes _ _ _ rfl rfl rfl, takes _ _ _ rfl rfl rfl, _, _, rfl, rfl, (by decide), rfl, rfl,
    rfl, rfl, rfl, rfl, rfl⟩

theorem witness_StreamShiftsTaken : T base .pauseStream [2] ∧ T base .closeStream [0]
    ∧ (base.streams.get .s0).state = .idleClosed
    ∧ T (withStream { stream .running with owner := some .b }) .stopStream [0]
    ∧ T (withStream (stream .opened)) .startStream (b8 0 ++ b32 0xFFFFFFFF)
    ∧ T (withStream (stream .primed)) .startStream (b8 0 ++ b32 0)
    ∧ T (withStream (stream .running)) .pauseStream [0] ∧ T (withStream (stream .paused)) .resumeStream [0]
    ∧ (stream .running).owner = some .a :=
  ⟨takes _ _ _ rfl rfl rfl, takes _ _ _ rfl rfl rfl, rfl, takes _ _ _ rfl rfl rfl, takes _ _ _ rfl rfl rfl,
    takes _ _ _ rfl rfl rfl, takes _ _ _ rfl rfl rfl, takes _ _ _ rfl rfl rfl, rfl⟩

theorem witness_FrameReadyTaken : T (withStream (stream .closing)) .frameReady (b8 0 ++ [1] ++ b32 6)
    ∧ T (withStream (stream .running)) .frameReady (b8 0 ++ [2] ++ b32 6) ∧ (stream .running).slots.length = 2
    ∧ T (withStream (stream .running)) .frameReady (b8 0 ++ [0] ++ b32 6)
    ∧ T (withStream (stream .running)) .frameReady (b8 0 ++ [1] ++ b32 5)
    ∧ T (withStream (stream .running)) .frameReady (b8 0 ++ [1] ++ b32 0x80000004)
    ∧ ¬ (5 - 5 : Word32).toNat < (5 - 5 : Word32).toNat ∧ (0x80000004 - 5 : Word32).toNat < 2147483648
    ∧ (5 - 5 : Word32).toNat < (0x80000004 - 5 : Word32).toNat
    ∧ T (withStream { stream .running with ready := [], lastStamp := none }) .frameReady (b8 0 ++ [1] ++ b32 5) := by
  refine ⟨takes _ _ _ rfl rfl rfl, takes _ _ _ rfl rfl rfl, rfl, takes _ _ _ rfl rfl rfl, takes _ _ _ rfl rfl rfl,
    takes _ _ _ rfl rfl rfl, by decide, by decide, by decide, takes _ _ _ rfl rfl rfl⟩

theorem witness_StopAndCloseStreamTaken : T (withStream (stream .opened)) .stopStream (b8 (streamNum .s0))
    ∧ T (withStream (stream .running)) .stopStream (b8 (streamNum .s0))
    ∧ T (withStream (stream .closing)) .closeStream (b8 (streamNum .s0))
    ∧ T (withStream (stream .running)) .closeStream (b8 (streamNum .s0)) ∧ (stream .running).owner = some .a
    ∧ ({ withStream (stream .running) with outputs := ⟨{ lit .active ⟨none, none⟩ with holdSet := [1] },
        OutputState.reset⟩ } : State).inHoldSets 1 = true :=
  ⟨takes _ _ _ rfl rfl rfl, takes _ _ _ rfl rfl rfl, takes _ _ _ rfl rfl rfl, takes _ _ _ rfl rfl rfl, rfl, rfl⟩

/-- A load queue of `n` entries of titles from 100 on. -/
def loads (n : Nat) : List LoadEntry := (List.range n).map (fun k => ⟨100 + k, [⟨.b, 1⟩], false⟩)

theorem witness_LoadPosterTaken : T faulty .loadPoster (b16 5)
    ∧ T base .loadPoster (b16 6) ∧ T base .loadPoster (b16 7) ∧ T base .loadPoster (b16 5)
    ∧ T (withCache base (fun c => { c with queue := [⟨1, [⟨.b, 2⟩], true⟩, ⟨1, [⟨.b, 3⟩], false⟩] })) .loadPoster (b16 1)
    ∧ T (withCache base (fun c => { c with directory := none })) .loadPoster (b16 1)
    ∧ T base .loadPoster (b16 65535) ∧ T base .loadPoster (b16 2)
    ∧ T (withCache base (fun c => { c with queue := loads 8 })) .loadPoster (b16 1)
    ∧ T (withCache base (fun c => { c with queue := loads 7 })) .loadPoster (b16 1)
    ∧ T (withCache base (fun c => { c with reload := some ⟨.a, 1⟩ })) .loadPoster (b16 65535)
    ∧ (∃ x, base.surfaceAt 6 = some x ∧ x.state = .loading) ∧ (∃ x, base.surfaceAt 7 = some x ∧ x.refs.get .a = 255)
    ∧ ∃ x, base.surfaceAt 5 = some x ∧ x.refs.get .a = 1 :=
  ⟨takes _ _ _ rfl rfl rfl, takes _ _ _ rfl rfl rfl, takes _ _ _ rfl rfl rfl, takes _ _ _ rfl rfl rfl,
    takes _ _ _ rfl rfl rfl, takes _ _ _ rfl rfl rfl, takes _ _ _ rfl rfl rfl, takes _ _ _ rfl rfl rfl,
    takes _ _ _ rfl rfl rfl, takes _ _ _ rfl rfl rfl, takes _ _ _ rfl rfl rfl, ⟨_, rfl, rfl⟩, ⟨_, rfl, rfl⟩, _, rfl, rfl⟩

theorem witness_ReleaseAndQueryPosterTaken : T base .releasePoster [160, 0] ∧ T base .releasePoster [0, 0]
    ∧ T base .releasePoster [1, 9] ∧ T base .releasePoster [7, 9] ∧ T base .releasePoster [5, 9]
    ∧ T (withOut { lit .active ⟨none, none⟩ with holdSet := [5] }) .releasePoster [5, 9]
    ∧ T (withCache base (fun c => { c with map := [], stale := [5] })) .releasePoster [5, 9]
    ∧ (∃ x, base.resolve ⟨5, 9⟩ = some x ∧ x.kind = .poster ∧ x.refs = ⟨1, 0⟩ ∧ x.state = .resident
        ∧ x.attached = none) ∧ (∃ m ∈ base.cache.map, m.surface = 5) ∧ 5 ∉ base.cache.idle
    ∧ T base .queryPoster (b16 5) ∧ T base .queryPoster (b16 6) ∧ T base .queryPoster (b16 0) := by
  refine ⟨takes _ _ _ rfl rfl rfl, takes _ _ _ rfl rfl rfl, takes _ _ _ rfl rfl rfl, takes _ _ _ rfl rfl rfl,
    takes _ _ _ rfl rfl rfl, takes _ _ _ rfl rfl rfl, takes _ _ _ rfl rfl rfl, ⟨_, rfl, rfl, rfl, rfl, rfl⟩, ?_, ?_,
    takes _ _ _ rfl rfl rfl, takes _ _ _ rfl rfl rfl, takes _ _ _ rfl rfl rfl⟩
  · exact ⟨⟨5, 5, 4, 4, .rgb565, 0⟩, by decide, rfl⟩
  · decide

/-- R124, R116, R18: the last release of a stale poster frees it and returns its page. -/
theorem test_release_stale : ∃ t, exec (.releasePoster .a) (sent (withCache base (fun c =>
      { c with map := [], stale := [5] })) .releasePoster [5, 9]) = .next t
    ∧ (t.surfaces.entries[5]?).map (·.gen) = some 10 ∧ t.surfaces.freeList = [71, 72, 73, 74, 68]
    ∧ t.surfaces.posters = ⟨base.surfaces.posters.budget, 2, 2⟩ ∧ t.cache.stale = [] := ⟨_, rfl, by decide +kernel⟩

/-- `base` with one load of a title queued. -/
def queueOf (title : Nat) : State := withCache base (fun c => { c with queue := [⟨title, [⟨.b, 2⟩], false⟩] })

theorem witness_LoaderBeginAndReloadTaken : (queueOf 1).startUp.resetPin = false ∧ (queueOf 1).cache.reload = none
    ∧ (queueOf 1).cache.work = .idle ∧ base.cache.queue = [] ∧ State.reset.cache.work = .startConfig .one
    ∧ (withCache (queueOf 1) (fun c => { c with directory := none })).cache.directory = none
    ∧ (queueOf 3).cache.queue = [⟨3, [⟨.b, 2⟩], false⟩] ∧ (record 2 true).bad = true
    ∧ (queueOf 1).surfaces.posters.entries < 63 ∧ (queueOf 1).surfaces.entries[8]? = some ⟨0, none⟩
    ∧ pageCount (byteSize .rgb565 4 4) = 1
    ∧ ({ queueOf 1 with surfaces := { base.surfaces with posters := ⟨0, 0, 0⟩ } } : State).surfaces.posters.budget < 1
    ∧ (withCache { queueOf 1 with surfaces := { base.surfaces with posters := ⟨3, 3, 63⟩ } }
        (fun c => { c with idle := [5] })).cache.idle.find? (fun j => !base.outputs.o0.holdSet.contains j) = some 5
    ∧ T base .reloadDirectory [] ∧ base.ports.a.maintainer = false := by
  refine ⟨rfl, rfl, rfl, rfl, rfl, rfl, rfl, rfl, by decide, rfl, by decide, by decide,
    by decide, takes _ _ _ rfl rfl rfl, rfl⟩

/-- R121: with 63 poster entries the idle poster is evicted; its entry, its generation stepped, is allocated again. -/
theorem test_eviction : ∃ t, exec .loaderBegin (withCache
      { queueOf 1 with surfaces := { unpinned.surfaces with posters := ⟨3, 3, 63⟩ } } (fun c => { c with idle := [5] })) = .next t
    ∧ t.counters.posters.evictions = 1 ∧ t.cache.idle = [] ∧ t.surfaces.posters = ⟨3, 3, 63⟩
    ∧ (t.surfaces.entries[5]?).map (·.gen) = some 10 ∧ t.surfaces.freeList = [72, 73, 74, 68] :=
  ⟨_, rfl, by decide +kernel⟩

/-- The accepting side of RELOAD DIRECTORY: a maintainer port, with and without a reload in progress. -/
def maintained (r : Option Waiter) : State :=
  { withCache base (fun c => { c with reload := r }) with
    ports := ⟨{ portWith (frame .reloadDirectory []) with maintainer := true }, PortState.reset⟩ }

theorem witness_ReloadDirectory : Takes (maintained none) .a .reloadDirectory (frame .reloadDirectory []) []
    ∧ Takes (maintained (some ⟨.b, 1⟩)) .a .reloadDirectory (frame .reloadDirectory []) []
    ∧ ((maintained none).ports.get .a).maintainer = true ∧ (maintained none).cache.work = .idle :=
  ⟨⟨⟨rfl, rfl, rfl, rfl⟩, rfl, fun _ => Nat.zero_lt_succ 7⟩, ⟨⟨rfl, rfl, rfl, rfl⟩, rfl, fun _ => Nat.zero_lt_succ 7⟩,
    rfl, rfl⟩

/-- The loader at the end of a transaction of a fill of surface 6. -/
def filling (length : Nat) (crc : Word32) : State :=
  withCache (withArbiter base (fun a => { a with grant := some (.loader ⟨65536, min 4096 length⟩) }))
    (fun c => { c with
      queue := [⟨6, [⟨.b, 2⟩], false⟩]
      work := .filling { title := 6, surface := 6, offset := 65536, length := length, imageCrc := crc, k := 0
                         crc := crc32Init } })

theorem witness_LoaderReadEndTaken : base.arbiter.grant = none
    ∧ (filling 32 0).arbiter.grant = some (.loader ⟨65536, 32⟩) ∧ (filling 32 0).lanes.answer .one = .bytes
    ∧ (0 + 1) * 4096 < 4097 ∧ 4096 ≤ (0 + 1) * 4096
    ∧ crc32Final (crc32Run crc32Init (List.replicate 32 0xFF)) = 0xFF6CAB0B
    ∧ crc32Final (crc32Run crc32Init (List.replicate 32 0xFF)) ≠ 0
    ∧ (∃ x, (filling 32 0).surfaceAt 6 = some x ∧ x.kind = .poster ∧ x.state = .loading)
    ∧ State.reset.cache.work = .startConfig .one ∧ State.reset.arbiter.grant = some (.loader ⟨0, 95⟩)
    ∧ State.reset.arbiter.queues = ⟨[], []⟩ ∧ imageValid (List.replicate 95 0xFF) = false := by
  refine ⟨rfl, rfl, rfl, by decide, by decide, by decide +kernel, by decide +kernel, ⟨_, rfl, rfl, rfl⟩, rfl, rfl, rfl,
    by decide⟩

/-- R123: a good poster that left the map during its fill and that nobody waits for is given back. -/
theorem test_fill_end_given_back : ∃ t, exec .loaderReadEnd (withCache (filling 32 0xFF6CAB0B)
      (fun c => { c with map := [], queue := [⟨6, [], true⟩] })) = .next t
    ∧ t.surfaces.entries[6]? = some ⟨10, none⟩ ∧ t.surfaces.freeList = [71, 72, 73, 74, 69] ∧ t.cache.stale = [] :=
  ⟨_, rfl, by decide +kernel⟩

/-- The loader at the end of start-up's directory load, or of a reload's. -/
def loading (w : LoaderWork) (starting : Bool) (r : FlashRange) : State :=
  { withCache (withArbiter base (fun a => { a with grant := some (.loader r) }))
      (fun c => { c with work := w, reload := some ⟨.b, 2⟩ }) with
    startUp := { StartUp.reset with starting := starting } }

theorem witness_LoaderReadEnd_directory :
    (loading (.directory ⟨0, 0, 0, []⟩) true ⟨0, 0⟩).cache.work = .directory ⟨0, 0, 0, []⟩ ∧ crc32 [] = 0
    ∧ ((loading .reloadConfig false ⟨0, 95⟩).ports.get .b).status ≠ .resetting
    ∧ (42 + 1) * 4096 ≥ 172800 ∧ (41 + 1) * 4096 < 172800
    ∧ (loading (.fallback 0 0 42 0) true ⟨0, 768⟩).cache.work = .fallback 0 0 42 0
    ∧ ({ base with lanes := ⟨.garbled, .bytes, .silent⟩ } : State).lanes.answer .one = .garbled
    ∧ (withCache (filling 32 0) (fun c => { c with reload := some ⟨.b, 2⟩ })).cache.reload ≠ none := by
  refine ⟨rfl, by decide, by decide, by decide, by decide, rfl, rfl, by decide⟩

/-- R129: a reload of a bad image: the poster that nothing pins is given back, the pinned one is stale, and the two waiters
and the command are answered. -/
theorem test_reload_fails : ∃ t, exec .loaderReadEnd (withCache
      { loading .reloadConfig false ⟨0, 95⟩ with surfaces := unpinned.surfaces } (fun c => { c with
        queue := [⟨1, [⟨.b, 3⟩, ⟨.a, 4⟩], false⟩] })) = .next t
    ∧ t.cache.directory = none ∧ t.cache.queue = [] ∧ t.cache.map.map (·.surface) = [6] ∧ t.cache.stale = [7]
    ∧ (t.surfaces.entries[5]?).map (·.gen) = some 10 ∧ t.counters.posters.evictions = 1
    ∧ t.ports.b.notices = [.completion 3 0x40 .placeholder (some .noDirectory) (.poster ⟨0, 0⟩ 1 none),
        .completion 2 0x43 .directoryBad none .none]
    ∧ t.ports.a.notices = [.completion 4 0x40 .placeholder (some .noDirectory) (.poster ⟨0, 0⟩ 1 none)] :=
  ⟨_, rfl, by decide +kernel⟩

/-- R129: a reload to an empty directory removes the pinned poster and one that is not pinned; the LOADING one stays. -/
theorem test_reload_ends : ∃ t, exec .loaderReadEnd (loading (.directory ⟨0, 0, 0, []⟩) false ⟨0, 0⟩) = .next t
    ∧ t.cache.directory = some [] ∧ t.cache.map = [⟨6, 6, 4, 4, .rgb565, 0⟩] ∧ t.cache.stale = [5, 7]
    ∧ t.ports.b.notices = [.completion 2 0x43 .ok none (.reload 0 2 2)] :=
  ⟨_, rfl, by decide +kernel, by decide +kernel, by decide +kernel, by decide +kernel⟩

/-- R191, R192: a start-up directory that ends leads to the fallback load. -/
theorem test_directory_ends : ∃ t, exec .loaderReadEnd
      { loading (.directory ⟨0, 0, 0, []⟩) true ⟨0, 0⟩ with
        startUp := { StartUp.reset with fallbackSource := some (4096, 9) } } = .next t
    ∧ t.cache.work = .fallback 4096 9 0 0xFFFFFFFF ∧ t.arbiter.grant = some (.loader ⟨4096, 4096⟩) :=
  ⟨_, rfl, by decide, by decide⟩

/-- Section 11.6: a flash wired for two lanes may give the right signature in 1-lane mode. -/
theorem test_garbled_signature (h : u32 ((List.range 4).map (Config.strayFlashByte 1)) 0 = 0x3F71A6C2) :
    u32 (({ base with lanes := ⟨.garbled, .bytes, .silent⟩ } : State).flashRead ⟨0, 4⟩) 0 = 0x3F71A6C2 := by
  simpa [State.flashRead, LaneWiring.answer, base, withArbiter, State.reset, Arbiter.reset, ReadMode.lanes] using h

/-- R188: four bytes that spell the signature are not what a flash that gives no answer returns. -/
theorem test_stray_signature : u32 (failSignature (b32 0x3F71A6C2)) 0 = 0x3F71A6C3 := by decide

/-- A configuration image with a body of 81 bytes (Table 10-11): the fixed fields, the CRC-32, the body. -/
def imageOf (body : List Byte) : List Byte :=
  b32 0x3F71A6C2 ++ b16 1 ++ b32 95 ++ b32 (crc32 body).toNat ++ body

theorem witness_LoaderReadEnd_valid (body : List Byte) (h : body.length = 81) : imageValid (imageOf body) = true := by
  have e : ((imageOf body).take imageBytes).drop 14 = body := by
    rw [List.take_of_length_le (by simp [imageOf, imageBytes, b32, b16, h])]
    rfl
  unfold imageValid
  rw [e]
  generalize hc : crc32 body = crc
  have e₁ : u32 (imageOf body) 10 = crc.toNat := by
    simp [imageOf, u32, u16, u8, b32, b16, hc]; omega
  have e₂ : u32 (imageOf body) 0 = 0x3F71A6C2 ∧ u16 (imageOf body) 4 = 1 ∧ u32 (imageOf body) 6 = 95 := by
    refine ⟨?_, ?_, ?_⟩ <;> simp [imageOf, u32, u16, u8, b32, b16]
  simp [e₁, e₂, imageSignature]

/-- A maintainer port A with one frame. -/
def maintainer (c : Cmd) (pl : List Byte) : State :=
  { base with ports := ⟨{ portWith (frame c pl) with maintainer := true }, PortState.reset⟩ }

/-- The frame of `maintainer` is taken. -/
theorem takes_maintainer (c : Cmd) (pl : List Byte) (h : (frame c pl).cmd? = some c) :
    Takes (maintainer c pl) .a c (frame c pl) [] := ⟨⟨rfl, rfl, rfl, h⟩, rfl, fun _ => Nat.zero_lt_succ 7⟩

theorem witness_FlashCommandsTaken : base.arbiter.deviceSize = 16777216 ∧ T base .flashRead (b32 0 ++ b16 0)
    ∧ T base .flashRead (b32 0 ++ b16 257) ∧ T base .flashRead (b32 16776961 ++ b16 256)
    ∧ T base .flashRead (b32 16776960 ++ b16 256) ∧ T base .flashProgram (b32 0 ++ [1])
    ∧ Takes (maintainer .flashProgram (b32 255 ++ [1, 2])) .a .flashProgram (frame .flashProgram (b32 255 ++ [1, 2])) []
    ∧ Takes (maintainer .flashProgram (b32 255 ++ [1])) .a .flashProgram (frame .flashProgram (b32 255 ++ [1])) []
    ∧ T base .flashErase (b32 0)
    ∧ Takes (maintainer .flashErase (b32 1)) .a .flashErase (frame .flashErase (b32 1)) []
    ∧ Takes (maintainer .flashErase (b32 16711680)) .a .flashErase (frame .flashErase (b32 16711680)) []
    ∧ base.arbiter.grant = none ∧ base.arbiter.request = none ∧ base.arbiter.queues = ⟨[], []⟩ :=
  ⟨rfl, takes _ _ _ rfl rfl rfl, takes _ _ _ rfl rfl rfl, takes _ _ _ rfl rfl rfl, takes _ _ _ rfl rfl rfl,
    takes _ _ _ rfl rfl rfl, takes_maintainer _ _ rfl, takes_maintainer _ _ rfl, takes _ _ _ rfl rfl rfl,
    takes_maintainer _ _ rfl, takes_maintainer _ _ rfl, rfl, rfl, rfl⟩

/-- `base` with an operation of port A at work. -/
def working (k : FlashOpKind) (timer : Timer) (recovering : Bool) : State :=
  withArbiter base (fun a =>
    { a with queues := ⟨[⟨1, k⟩], []⟩, grant := some (.port .a ⟨1, k⟩), timer := timer, recovering := recovering })

theorem witness_FlashOperationsEnd :
    (working (.read 0 256) .stopped false).arbiter.grant = some (.port .a ⟨1, .read 0 256⟩)
    ∧ (working (.program 255 [1]) (.running 5000) false).arbiter.timer = .running 5000
    ∧ (working (.erase 0) (.running 2000000) false).arbiter.grant = some (.port .a ⟨1, .erase 0⟩)
    ∧ (FlashOpKind.erase 0).range = some ⟨0, 65536⟩
    ∧ (working (.erase 0) .stopped true).arbiter.recovering = true ∧ base.arbiter.timer = .stopped
    ∧ base.arbiter.recovering = false ∧ base.arbiter.grant = none ∧ base.cache.work ≠ .waiting :=
  ⟨rfl, rfl, rfl, rfl, rfl, rfl, rfl, rfl, by decide⟩

/-- R147: between the old byte 0x3C and its AND with 0x0F; 0xFF or as it was. -/
theorem test_timed_out : (FlashOpKind.program 4 [0x0F]).timedOut 0x10 4 0x3C = 0x1C
    ∧ (FlashOpKind.erase 0).timedOut 0 5 0x3C = 0x3C ∧ (FlashOpKind.erase 0).timedOut 1 5 0x3C = 0xFF := by
  decide

/-- The bad page list full. -/
def fullList : State := { base with errors := { base.errors with bad := List.range' 100 64 } }

theorem witness_EccResultsTaken : base.startUp.resetPin = false ∧ 4064 % 32 = 0
    ∧ fullList.errors.bad.length = 64 ∧ fullList.errors.bad.contains 64 = false ∧ fullList.errors.fault = false
    ∧ fullList.startUp.starting = false ∧ captured.errors.capture.locked = true ∧ base.errors.capture.locked = false
    ∧ base.pageOwner 68 = some ⟨5, 9⟩ ∧ base.pageOwner 16383 = none
    ∧ ((owing 31).ports.get .a).notices.length + ((owing 31).ports.get .a).owed < 32
    ∧ ((owing 31).ports.get .a).lost < 255 := by decide

/-- R116, R127: the damaged poster of entry 5 joins the stale list while pinned; unpinned and in a hold set it is RETIRING. -/
theorem test_damaged_poster :
    (∃ t, exec (.eccUncorrectable .output0 ⟨68, 32⟩) base = .next t ∧ t.cache.stale = [5])
    ∧ ∃ t, exec (.eccUncorrectable .output0 ⟨68, 32⟩)
        { unpinned with outputs := ⟨{ lit .active ⟨some .active, none⟩ with holdSet := [5] }, OutputState.reset⟩ } = .next t
      ∧ t.cache.stale = [] ∧ (t.surfaceAt 5).map (fun x => (x.state, x.damaged)) = some (.retiring, true) :=
  ⟨⟨_, rfl, by decide⟩, _, rfl, by decide⟩

theorem witness_ErrorCommandsTaken : T base .readError [] ∧ T captured .clearError (b16 65535)
    ∧ T captured .clearError (b16 65534) ∧ T base .clearError (b16 0) ∧ CaptureSound (sent base .clearError (b16 0))
    ∧ captured.errors.capture.locked = true ∧ captured.errors.capture.sequence = 65535 :=
  ⟨takes _ _ _ rfl rfl rfl, takes _ _ _ rfl rfl rfl, takes _ _ _ rfl rfl rfl, takes _ _ _ rfl rfl rfl,
    (by unfold CaptureSound; decide), rfl, rfl⟩

/-! ## Whole field starts and teardowns, which take the kernel longest -/

theorem test_field_start_sleeps : ∃ t, exec (.fieldStart .o0) (withOut (lit .active ⟨some .asleep, none⟩)) = .next t
    ∧ t.outputs.o0.panel = .asleep ∧ t.outputs.o0.running = false ∧ t.outputs.o0.fieldCount = 1 :=
  ⟨_, rfl, by decide +kernel⟩

/-- R47, R148, R169: the LATCH completes at once, the waiting load and the second read are cancelled and counted. -/
theorem test_detach_state : ∃ t, exec (.detach .a) (sent busyPort .detach []) = .next t
    ∧ t.outputs.o0.panel = .asleep ∧ t.outputs.o0.latches = [] ∧ t.ports.a.cancelled = 2
    ∧ t.arbiter.queues.a = [⟨1, .read 0 1⟩] ∧ t.cache.queue = [⟨1, [⟨.b, 6⟩], false⟩]
    ∧ t.surfaces.freeList = [71, 72, 73, 74, 67, 64, 65] :=
  ⟨_, rfl, by decide +kernel⟩

/-- R17, R115: a RETIRING surface that no hold set names any more becomes FREE, a draining poster joins the idle list. -/
theorem test_field_start_releases : ∃ t, exec (.fieldStart .o0)
    { unpinned with outputs := ⟨{ lit .active ⟨some .active, none⟩ with holdSet := [4, 5] }, OutputState.reset⟩ } = .next t
    ∧ t.surfaces.entries[4]? = some ⟨10, none⟩ ∧ t.cache.idle = [5] :=
  ⟨_, rfl, by decide +kernel⟩

/-- R41, R50, R52: 4 columns drawn 8 wide give a step of 32,768, 4 rows drawn 64 high one raised to 8,192. -/
theorem test_field_start_freezes : ∃ t, exec (.fieldStart .o0)
    { base with layers := base.layers.set 3 ⟨{ LayerCopy.reset with
        output := some .o0, source := .surface ⟨1, 9⟩, crop := ⟨0, 0, 4, 4⟩, dw := 8, dh := 64, visible := true },
      LayerCopy.reset⟩ } = .next t
    ∧ t.outputs.o0.layers.map (fun l => l.source.map (fun x => (x.pages, x.sx, x.sy, x.clampX, x.clampY)))
      = [some ([64], 32768, 8192, false, true)] :=
  ⟨_, rfl, by decide +kernel⟩

end Sys2Proof.Tests
end

section
/-! SUPPORT. The invariants of the two memories: which commands write frame memory and the flash, and the canonical form
that every write keeps. -/

namespace Sys2Proof.Machine

variable {s t : State}

/-! ## One step -/

/-- A step keeps what every command keeps, if the queue of waiting commands does not matter to it. -/
theorem step_keeps {P : State → Prop} (queue : ∀ s x, P s → P { s with pending := x })
    (kept : ∀ c s, KeptBy P c s) (hs : P s) (e : step s = .next t) : P t := by
  unfold step at e
  split at e
  · exact next_keeps e hs
  · exact (kept _ _).exec (queue _ _ hs) e

/-! ## What a freed surface leaves unchanged -/

theorem State.becomeFree_frame (i : Nat) (s : State) : (s.becomeFree i).frame = s.frame := by
  unfold State.becomeFree
  split
  · split <;> rfl
  · rfl

theorem State.becomeFree_flash (i : Nat) (s : State) : (s.becomeFree i).flash = s.flash := by
  unfold State.becomeFree
  split
  · split <;> rfl
  · rfl

/-! ## Properties of the two memories -/

/-- A property that reads nothing of a state but frame memory and the flash. -/
abbrev OfMemories (P : State → Prop) : Prop := ∀ s t : State, t.frame = s.frame → t.flash = s.flash → P s → P t

/-- The common changes leave both memories as they are. -/
theorem OfMemories.stable {P : State → Prop} (h : OfMemories P) : Stable P where
  startUp _ _ := h _ _ rfl rfl
  ports _ _ := h _ _ rfl rfl
  outputs _ _ := h _ _ rfl rfl
  streams _ _ := h _ _ rfl rfl
  cache _ _ := h _ _ rfl rfl
  arbiter _ _ := h _ _ rfl rfl
  freeCount _ _ := h _ _ rfl rfl
  counters _ _ _ := h _ _ rfl rfl
  surface _ _ _ _ := h _ _ rfl rfl
  free s i := h _ _ (s.becomeFree_frame i) (s.becomeFree_flash i)
  allocate _ _ _ _ _ _ _ _ _ _ _ _ := h _ _ rfl rfl

/-- A property of the two memories is kept by a command if the writes it makes keep it. -/
theorem OfMemories.keptBy {P : State → Prop} (h : OfMemories P) {c : Instr}
    (frame : (∃ p, c = .writeSurface p) ∨ c = .loaderReadEnd → ∀ s pages off bs, P s → P (s.writeSurface pages off bs).1)
    (program : c = .flashOperationDone → ∀ s off data, P s → P { s with flash := programFlash s.flash off data })
    (erase : c = .flashOperationDone → ∀ s off, P s → P { s with flash := eraseFlash s.flash off })
    (spoil : c = .deviceAcceptsCommands → ∀ s r f, P s → P (s.spoilFlash r f))
    (cold : ∀ a b, c = .coldReset a b → ∀ s, P s → P (s.coldReset a b)) : KeptBy P c s where
  toStable := h.stable
  layers _ _ _ := h _ _ rfl rfl
  frame := frame
  configure _ _ _ _ _ := h _ _ rfl rfl
  program := program
  erase := erase
  spoil := spoil
  blocks _ _ := h _ _ rfl rfl
  note _ _ _ _ _ := h _ _ rfl rfl
  faulted _ _ := h _ _ rfl rfl
  clear _ _ := h _ _ rfl rfl
  cold := cold

/-! ## The canonical form (logs 5 and 6) -/

theorem ofMemories_canonical : OfMemories MemoriesCanonical := fun s t hf hl ⟨wf, wl⟩ =>
  ⟨by rw [hf]; exact wf, by rw [hl]; exact wl⟩

@[simp] theorem Memory.wf_nil (d : Byte) : Memory.wf d [] := ⟨.nil, by simp⟩

theorem State.spoilFlash_wf (h : Memory.wf Config.flashBlank s.flash) (r : FlashRange) (f : Byte → Nat → Byte → Byte) :
    Memory.wf Config.flashBlank (s.spoilFlash r f).flash := by
  unfold State.spoilFlash
  dsimp only
  exact Memory.updateRun_wf h _ _ _

theorem State.abandonFlash_wf (h : Memory.wf Config.flashBlank s.flash) :
    Memory.wf Config.flashBlank s.abandonFlash.flash := by
  unfold State.abandonFlash
  split
  · split
    · exact State.spoilFlash_wf h _ _
    · exact h
  · exact h

theorem keptBy_canonical (c : Instr) (s : State) : KeptBy MemoriesCanonical c s :=
  ofMemories_canonical.keptBy
    (frame := fun _ _ _ _ _ ⟨wf, wl⟩ => ⟨writePages_wf _ _ _ _ _ wf, wl⟩)
    (program := fun _ _ _ _ ⟨wf, wl⟩ => ⟨wf, programFlash_wf wl _ _⟩)
    (erase := fun _ _ _ ⟨wf, wl⟩ => ⟨wf, eraseFlash_wf wl _⟩)
    (spoil := fun _ _ _ _ ⟨wf, wl⟩ => ⟨wf, State.spoilFlash_wf wl _ _⟩)
    (cold := fun _ _ _ _ ⟨_, wl⟩ => ⟨Memory.wf_nil _, State.abandonFlash_wf wl⟩)

/-- Settles O7: the canonical form is kept by every write, and nothing else touches a memory. -/
theorem stepKeepsCanonicalMemories : Obligations.StepKeepsCanonicalMemories := fun _ _ hs e =>
  step_keeps (fun _ _ => ofMemories_canonical _ _ rfl rfl) keptBy_canonical hs e

/-! ## Who writes a memory -/

theorem keptBy_frame {c : Instr} (s₀ : State) (cold : ∀ a b, c ≠ .coldReset a b) (write : ∀ p, c ≠ .writeSurface p)
    (load : c ≠ .loaderReadEnd) : KeptBy (fun u => u.frame = s₀.frame) c s :=
  OfMemories.keptBy (fun _ _ hf _ hs => hf.trans hs)
    (frame := fun h => by
      rcases h with ⟨p, h⟩ | h
      · exact absurd h (write p)
      · exact absurd h load)
    (program := fun _ _ _ _ hs => hs)
    (erase := fun _ _ _ hs => hs)
    (spoil := fun _ _ _ _ hs => hs)
    (cold := fun a b h => absurd h (cold a b))

theorem keptBy_flash {c : Instr} (s₀ : State) (cold : ∀ a b, c ≠ .coldReset a b) (done : c ≠ .flashOperationDone)
    (accepts : c ≠ .deviceAcceptsCommands) : KeptBy (fun u => u.flash = s₀.flash) c s :=
  OfMemories.keptBy (fun _ _ _ hl hs => hl.trans hs)
    (frame := fun _ _ _ _ _ hs => hs)
    (program := fun h => absurd h done)
    (erase := fun h => absurd h done)
    (spoil := fun h => absurd h accepts)
    (cold := fun a b h => absurd h (cold a b))

/-- Settles O12: of the changes a command makes, only the writes named in the statement reach a memory. -/
theorem memoriesWrittenOnlyBy : Obligations.MemoriesWrittenOnlyBy := fun _ s _ e cold =>
  ⟨fun write load => (keptBy_frame s cold write load).exec rfl e,
    fun done accepts => (keptBy_flash s cold done accepts).exec rfl e⟩

end Sys2Proof.Machine
end

section
/-! SUPPORT. The rules of the surface manager: what reading an account returns after a change, which entry an allocation
takes, and the pool invariant, which every change of one entry keeps. -/

namespace Sys2Proof.Machine

variable {m m' : SurfaceManager} {s t : State}

/-! ## Accounts -/

theorem SurfaceManager.account_setAccount_same {a : Account} (h : a ≠ .part) (r : AccountRecord) :
    (m.setAccount a r).account a = r := by
  cases a with
  | part => exact absurd rfl h
  | _ => rfl

theorem SurfaceManager.account_setAccount_ne {a b : Account} (h : b ≠ a) (r : AccountRecord) :
    (m.setAccount a r).account b = m.account b := by
  cases a <;> cases b <;> first | rfl | exact absurd rfl h

@[simp] theorem SurfaceManager.setAccount_entries (a : Account) (r : AccountRecord) :
    (m.setAccount a r).entries = m.entries := by cases a <;> rfl
@[simp] theorem SurfaceManager.setAccount_freeList (a : Account) (r : AccountRecord) :
    (m.setAccount a r).freeList = m.freeList := by cases a <;> rfl
@[simp] theorem SurfaceManager.setAccount_quarantined (a : Account) (r : AccountRecord) :
    (m.setAccount a r).quarantined = m.quarantined := by cases a <;> rfl

/-- The accounts do not depend on the table and the lists of pages. -/
@[simp] theorem SurfaceManager.account_tables (m : SurfaceManager) (es : List SurfaceEntry) (fs qs : List Nat)
    (a : Account) : SurfaceManager.account { m with entries := es, freeList := fs, quarantined := qs } a = m.account a := by
  cases a <;> rfl

theorem accountOf_ne_part (p : Port) : accountOf p ≠ .part := by cases p <;> decide

/-! ## One entry of the table -/

/-- The pages an entry is charged to an account (R4). -/
def SurfaceEntry.chargeTo (e : SurfaceEntry) (a : Account) : Nat := if e.ownedBy a then e.pages.length else 0

@[simp] theorem SurfaceEntry.pages_free (g : Byte) : SurfaceEntry.pages ⟨g, none⟩ = [] := rfl
@[simp] theorem SurfaceEntry.pages_used (g : Byte) (x : Surface) : SurfaceEntry.pages ⟨g, some x⟩ = x.pages := rfl
@[simp] theorem SurfaceEntry.ownedBy_free (g : Byte) (a : Account) : SurfaceEntry.ownedBy ⟨g, none⟩ a = false := rfl
@[simp] theorem SurfaceEntry.ownedBy_used (g : Byte) (x : Surface) (a : Account) :
    SurfaceEntry.ownedBy ⟨g, some x⟩ a = (x.owner == a) := rfl
@[simp] theorem SurfaceEntry.chargeTo_free (g : Byte) (a : Account) : SurfaceEntry.chargeTo ⟨g, none⟩ a = 0 := rfl
@[simp] theorem SurfaceEntry.chargeTo_used (g : Byte) (x : Surface) (a : Account) :
    SurfaceEntry.chargeTo ⟨g, some x⟩ a = if x.owner = a then x.pages.length else 0 := by
  simp [SurfaceEntry.chargeTo]

/-- The pages charged to an account are those of the entries, one by one (R4). -/
theorem sum_ownedBy (es : List SurfaceEntry) (a : Account) :
    ((es.filter (·.ownedBy a)).map (fun e => e.pages.length)).sum = (es.map (·.chargeTo a)).sum := by
  induction es with
  | nil => rfl
  | cons e es ih => by_cases h : e.ownedBy a = true <;> simp [SurfaceEntry.chargeTo, h, ih]

/-- An entry splits its table, and replacing it leaves both sides. -/
theorem entries_split {es : List SurfaceEntry} {i : Nat} {e : SurfaceEntry} (hi : 1 ≤ i) (he : es[i]? = some e) :
    ∃ e₀ l r, es = e₀ :: (l ++ e :: r) ∧ ∀ e', es.set i e' = e₀ :: (l ++ e' :: r) := by
  obtain ⟨k, rfl⟩ : ∃ k, i = k + 1 := ⟨i - 1, by omega⟩
  cases es with
  | nil => simp at he
  | cons e₀ es =>
    obtain ⟨hk, rfl⟩ := List.getElem?_eq_some_iff.mp (by simpa using he)
    refine ⟨e₀, es.take k, es.drop (k + 1), ?_, fun e' => ?_⟩
    · rw [List.getElem_cons_drop, List.take_append_drop]
    · rw [List.set_cons_succ, List.set_eq_take_append_cons_drop, if_pos hk]

/-! ## Allocation (R5, R12) -/

/-- The entry an allocation takes is the lowest-numbered FREE one after entry 0 (R5). -/
theorem SurfaceManager.lowestFree_eq_some {i : Nat} : m.lowestFree = some i ↔
    1 ≤ i ∧ (∃ g, m.entries[i]? = some ⟨g, none⟩)
      ∧ ∀ j, 1 ≤ j → j < i → ∃ e, m.entries[j]? = some e ∧ e.body.isSome = true := by
  have free (e : SurfaceEntry) : e.body.isNone = true ↔ ∃ g, e = ⟨g, none⟩ := by
    cases e with | mk g b => cases b <;> simp
  have used (e : SurfaceEntry) : ¬ e.body.isNone = true ↔ e.body.isSome = true := by cases e.body <;> simp
  unfold SurfaceManager.lowestFree
  cases m.entries with
  | nil => simp
  | cons e₀ es =>
    cases i with
    | zero => simp
    | succ k =>
      simp only [List.drop_succ_cons, List.drop_zero, Option.map_eq_some_iff, Nat.add_right_cancel_iff, exists_eq_right,
        List.findIdx?_eq_some_iff_getElem, List.getElem?_cons_succ, used]
      constructor
      · rintro ⟨hk, hg, before⟩
        obtain ⟨g, hg⟩ := (free _).mp hg
        refine ⟨by omega, ⟨g, by rw [List.getElem?_eq_getElem hk, hg]⟩, fun j hj hjk => ?_⟩
        obtain ⟨j, rfl⟩ : ∃ j', j = j' + 1 := ⟨j - 1, by omega⟩
        exact ⟨es[j], by simp, before j (by omega)⟩
      · rintro ⟨-, ⟨g, hg⟩, before⟩
        obtain ⟨hk, hg⟩ := List.getElem?_eq_some_iff.mp hg
        refine ⟨hk, (free _).mpr ⟨g, hg⟩, fun j hj => ?_⟩
        obtain ⟨e, he, hb⟩ := before (j + 1) (by omega) (by omega)
        obtain ⟨_, rfl⟩ := List.getElem?_eq_some_iff.mp (List.getElem?_cons_succ ▸ he)
        exact hb

/-- An allocation passes its checks where the account has an entry and pages left and the free list has the pages
(R12, R19). -/
theorem SurfaceManager.allocationRefusal_eq_none {a : Account} {n : Nat} : m.allocationRefusal a n = none ↔
    (m.account a).entries < entryShare a ∧ (m.account a).charged + n ≤ (m.account a).budget ∧ n ≤ m.freeList.length := by
  unfold SurfaceManager.allocationRefusal
  dsimp only
  split
  · simp; omega
  · split
    · simp; omega
    · split
      · simp; omega
      · simp; omega

end Sys2Proof.Machine
end

section
/-! SUPPORT. The pool invariant (R1, R3, R4, R5, R152): every change of one entry keeps it, and so does every command. -/

namespace Sys2Proof.Machine

variable {m m' : SurfaceManager} {s t : State}

/-! ## The pool of a surface manager -/

/-- The part of `PoolWhole` that speaks of the surface manager: all but the bad page list. -/
structure SurfaceManager.Whole (m : SurfaceManager) : Prop where
  entries : m.entries.length = 160
  fallback : ∃ x, (m.entries[0]?).bind (·.body) = some x ∧ x.kind = .fallback ∧ x.pages = List.range 43
  others : ∀ e ∈ m.entries.drop 1, ∀ x, e.body = some x → x.kind ≠ .fallback ∧ x.owner ≠ .part
  pages : (m.freeList ++ m.quarantined ++ (m.entries.drop 1).flatMap (·.pages)).Perm poolRange
  accounts : ∀ a, a ≠ .part → m.accountSound a

/-- The bad page list names pages of frame memory, none twice, at most 64 (R152). -/
def BadPagesSound (bad : List Nat) : Prop := bad.Nodup ∧ bad.length ≤ 64 ∧ ∀ p ∈ bad, p < 16384

theorem poolWhole_iff : PoolWhole s ↔ s.surfaces.Whole ∧ BadPagesSound s.errors.bad :=
  ⟨fun ⟨a, b, c, d, e, f⟩ => ⟨⟨a, b, c, d, e⟩, f⟩, fun ⟨⟨a, b, c, d, e⟩, f⟩ => ⟨a, b, c, d, e, f⟩⟩

/-- The figures of an account, summed over the entries one by one (R4). -/
theorem SurfaceManager.accountSound_iff (a : Account) : m.accountSound a ↔
    (m.account a).charged = ((m.entries.drop 1).map (·.chargeTo a)).sum
      ∧ (m.account a).entries = (m.entries.drop 1).countP (·.ownedBy a) := by
  rw [SurfaceManager.accountSound, sum_ownedBy, List.countP_eq_length_filter]

namespace SurfaceManager.Whole

/-- No entry after entry 0 holds the FALLBACK surface or one of PART. -/
theorem other {i : Nat} {g : Byte} {x : Surface} (h : m.Whole) (hi : 1 ≤ i) (he : m.entries[i]? = some ⟨g, some x⟩) :
    x.kind ≠ .fallback ∧ x.owner ≠ .part := by
  obtain ⟨e₀, l, r, hm, -⟩ := entries_split hi he
  exact h.others ⟨g, some x⟩ (by simp [hm]) x rfl

/-- An entry with a surface that is not the FALLBACK one is not entry 0. -/
theorem index_pos {i : Nat} {g : Byte} {x : Surface} (h : m.Whole) (he : m.entries[i]? = some ⟨g, some x⟩)
    (hk : x.kind ≠ .fallback) : 1 ≤ i := by
  obtain ⟨y, hy, hf, -⟩ := h.fallback
  refine Nat.one_le_iff_ne_zero.mpr fun h0 => hk ?_
  subst h0
  simp only [he, Option.bind_some, Option.some.injEq] at hy
  rw [hy, hf]

/-- An account holds what each of its entries is charged (R4). -/
theorem charged_ge {i : Nat} {e : SurfaceEntry} {a : Account} (h : m.Whole) (hi : 1 ≤ i) (he : m.entries[i]? = some e)
    (ha : a ≠ .part) : e.chargeTo a ≤ (m.account a).charged ∧ (e.ownedBy a).toNat ≤ (m.account a).entries := by
  obtain ⟨e₀, l, r, hm, -⟩ := entries_split hi he
  obtain ⟨hc, hn⟩ := (accountSound_iff a).mp (h.accounts a ha)
  simp only [hm, List.drop_succ_cons, List.drop_zero, List.map_append, List.map_cons, List.sum_append, List.sum_cons,
    List.countP_append, List.countP_cons] at hc hn
  constructor
  · omega
  · cases h : e.ownedBy a <;> simp [h] at hn ⊢; omega

/-- Replacing one entry after entry 0 keeps the pool whole, where its pages go to or come from the lists and the accounts
follow. -/
theorem replace {i : Nat} {e e' : SurfaceEntry} (h : m.Whole) (hi : 1 ≤ i) (he : m.entries[i]? = some e)
    (table : m'.entries = m.entries.set i e') (ok : ∀ x, e'.body = some x → x.kind ≠ .fallback ∧ x.owner ≠ .part)
    (pages : (m'.freeList ++ m'.quarantined ++ e'.pages).Perm (m.freeList ++ m.quarantined ++ e.pages))
    (accounts : ∀ a, a ≠ .part → (m'.account a).charged + e.chargeTo a = (m.account a).charged + e'.chargeTo a
      ∧ (m'.account a).entries + (e.ownedBy a).toNat = (m.account a).entries + (e'.ownedBy a).toNat) : m'.Whole := by
  obtain ⟨e₀, l, r, hm, hset⟩ := entries_split hi he
  obtain ⟨len, fallback, others, perm, sound⟩ := h
  rw [hset] at table
  simp only [hm, List.drop_succ_cons, List.drop_zero] at len fallback others perm
  refine ⟨by simpa [table] using len, by simpa [table] using fallback, ?_, ?_, fun a ha => ?_⟩
  · intro d hd x hx
    simp only [table, List.drop_succ_cons, List.drop_zero, List.mem_append, List.mem_cons] at hd
    rcases hd with hd | rfl | hd
    · exact others d (by simp [hd]) x hx
    · exact ok x hx
    · exact others d (by simp [hd]) x hx
  · refine List.Perm.trans (List.perm_iff_count.mpr fun p => ?_) perm
    have := pages.count_eq p
    simp only [table, List.drop_succ_cons, List.drop_zero, List.flatMap_append, List.flatMap_cons,
      List.count_append] at this ⊢
    omega
  · obtain ⟨hc, hn⟩ := (accountSound_iff a).mp (sound a ha)
    obtain ⟨charged, entries⟩ := accounts a ha
    rw [accountSound_iff]
    simp only [hm, table, List.drop_succ_cons, List.drop_zero, List.map_append, List.map_cons, List.sum_append,
      List.sum_cons, List.countP_append, List.countP_cons] at hc hn ⊢
    have one (b : Bool) : (if b = true then 1 else 0) = b.toNat := by cases b <;> rfl
    simp only [one] at hn ⊢
    omega

/-- Changing no page, no entry after entry 0 and no figure of an account keeps the pool whole. -/
theorem congr (h : m.Whole) (len : m'.entries.length = m.entries.length) (tail : m'.entries.drop 1 = m.entries.drop 1)
    (fallback : ∃ x, (m'.entries[0]?).bind (·.body) = some x ∧ x.kind = .fallback ∧ x.pages = List.range 43)
    (free : m'.freeList = m.freeList) (quarantined : m'.quarantined = m.quarantined)
    (accounts : ∀ a, (m'.account a).charged = (m.account a).charged ∧ (m'.account a).entries = (m.account a).entries) :
    m'.Whole where
  entries := len.trans h.entries
  fallback := fallback
  others := by rw [tail]; exact h.others
  pages := by rw [tail, free, quarantined]; exact h.pages
  accounts a ha := by
    obtain ⟨charged, entries⟩ := accounts a
    rw [accountSound, charged, entries, tail]
    exact h.accounts a ha

/-- An update that keeps a surface's pages, owner and kind keeps the pool whole. -/
theorem modSurface (h : m.Whole) (i : Nat) {f : Surface → Surface} (k : KeepsPages f) : (m.modSurface i f).Whole := by
  unfold SurfaceManager.modSurface
  split
  · next e he =>
    by_cases hi : 1 ≤ i
    · obtain ⟨g, b⟩ := e
      cases b with
      | none => exact h.replace hi he rfl (by simp) (.refl _) fun a _ => ⟨rfl, rfl⟩
      | some x =>
        exact h.replace hi he rfl (by simpa [k.owner, k.kind] using h.other hi he) (by simp [k.pages]) fun a _ => by
          simp [k.owner, k.pages, account]
    · obtain rfl : i = 0 := by omega
      obtain ⟨x, hx, kind, pages⟩ := h.fallback
      have hb : e.body = some x := by simpa [he] using hx
      have h0 : 0 < m.entries.length := by rw [h.entries]; decide
      refine h.congr (by simp) (by simp [List.drop_set]) ⟨f x, ?_, by rw [k.kind, kind], by rw [k.pages, pages]⟩ rfl rfl
        fun a => ⟨rfl, rfl⟩
      simp [hb, h0]
  · exact h

/-- A surface given back leaves the pool whole: its pages join the lists and its account is uncharged (R18). -/
theorem release {i : Nat} {g : Byte} {x : Surface} (h : m.Whole) (he : m.entries[i]? = some ⟨g, some x⟩)
    (hk : x.kind ≠ .fallback) (bad : List Nat) : (m.release i g x bad).Whole := by
  have hi := h.index_pos he hk
  have ho := (h.other hi he).2
  refine h.replace (e' := ⟨g + 1, none⟩) hi he (by simp [SurfaceManager.release]) (by simp) ?_ fun a ha => ?_
  · refine List.perm_iff_count.mpr fun p => ?_
    have := (List.filter_append_perm (fun p => bad.contains p) x.pages).count_eq p
    simp only [SurfaceManager.release, SurfaceEntry.pages_free, SurfaceEntry.pages_used, List.count_append,
      List.count_nil] at this ⊢
    omega
  · obtain ⟨charged, entries⟩ := h.charged_ge hi he ha
    simp only [SurfaceManager.release, account_tables, SurfaceEntry.chargeTo_used, SurfaceEntry.chargeTo_free,
      SurfaceEntry.ownedBy_used, SurfaceEntry.ownedBy_free] at charged entries ⊢
    by_cases hax : x.owner = a
    · subst hax
      rw [account_setAccount_same ho]
      simp at charged entries ⊢
      omega
    · rw [account_setAccount_ne (Ne.symm hax)]
      simp [hax]

/-- An allocation leaves the pool whole: its pages come from the head of the free list and its account is charged
(R3, R12, R19). -/
theorem allocate {i : Nat} {a : Account} {kind : SurfaceKind} {f : Format} {w n : Nat} (h : m.Whole)
    (hi : m.lowestFree = some i) (ok : m.allocationRefusal a (pageCount (byteSize f w n)) = none) (ha : a ≠ .part)
    (hk : kind ≠ .fallback) (st : SurfaceState) : (m.allocate i a kind st f w n).Whole := by
  obtain ⟨pos, ⟨g, he⟩, -⟩ := lowestFree_eq_some.mp hi
  obtain ⟨-, -, enough⟩ := allocationRefusal_eq_none.mp ok
  refine h.replace pos he rfl (by simp [ha, hk]) ?_ fun b _ => ?_
  · refine List.perm_iff_count.mpr fun p => ?_
    have := congrArg (List.count p) (List.take_append_drop (pageCount (byteSize f w n)) m.freeList)
    simp only [SurfaceManager.allocate, setAccount_quarantined, SurfaceEntry.pages_free, SurfaceEntry.pages_used,
      List.count_append, List.count_nil] at this ⊢
    omega
  · simp only [SurfaceManager.allocate, account_tables, SurfaceEntry.chargeTo_used, SurfaceEntry.chargeTo_free,
      SurfaceEntry.ownedBy_used, SurfaceEntry.ownedBy_free, List.length_take]
    by_cases hab : a = b
    · subst hab
      rw [account_setAccount_same ha]
      simp
      omega
    · rw [account_setAccount_ne (Ne.symm hab)]
      simp [hab]

end SurfaceManager.Whole

/-! ## The pool after RESTART and after a cold reset -/

/-- A table whose entries after entry 0 are all FREE, with its pages on the two lists and nothing charged, is whole. -/
theorem SurfaceManager.whole_of_free (len : m.entries.length = 160)
    (fallback : ∃ x, (m.entries[0]?).bind (·.body) = some x ∧ x.kind = .fallback ∧ x.pages = List.range 43)
    (free : ∀ e ∈ m.entries.drop 1, e.body = none) (pages : (m.freeList ++ m.quarantined).Perm poolRange)
    (accounts : ∀ a, (m.account a).charged = 0 ∧ (m.account a).entries = 0) : m.Whole where
  entries := len
  fallback := fallback
  others e he x hx := by simp [free e he] at hx
  pages := by
    have none : (m.entries.drop 1).flatMap (·.pages) = [] :=
      List.flatMap_eq_nil_iff.mpr fun e he => by simp [SurfaceEntry.pages, free e he]
    rw [none, List.append_nil]
    exact pages
  accounts a _ := by
    have none : (m.entries.drop 1).filter (·.ownedBy a) = [] :=
      List.filter_eq_nil_iff.mpr fun e he => by simp [SurfaceEntry.ownedBy, free e he]
    rw [accountSound, none]
    exact accounts a

/-- RESTART frees every entry but entry 0 (R25). -/
theorem restartEntries_free (es : List SurfaceEntry) : ∀ e ∈ (restartEntries es).drop 1, e.body = none := by
  cases es with
  | nil => simp [restartEntries]
  | cons e₀ es =>
    intro e he
    simp only [restartEntries, List.mapIdx_cons, List.drop_succ_cons, List.drop_zero, List.mem_mapIdx] at he
    obtain ⟨k, hk, rfl⟩ := he
    cases h : es[k].body <;> simp [h]

/-- The good and the bad pages of the pool are all its pages (R25). -/
theorem poolRange_split {bad : List Nat} (h : BadPagesSound bad) :
    (poolRange.filter (fun p => !bad.contains p) ++ bad.filter (fun p => decide (Config.poolFirst ≤ p))).Perm
      poolRange := by
  obtain ⟨nodup, -, bound⟩ := h
  have same : (bad.filter (fun p => decide (Config.poolFirst ≤ p))).Perm (poolRange.filter (fun p => bad.contains p)) := by
    refine (List.perm_ext_iff_of_nodup (nodup.filter _) ((List.nodup_range' ..).filter _)).mpr fun p => ?_
    simp only [List.mem_filter, List.mem_range'_1, decide_eq_true_eq, List.contains_iff_mem]
    unfold Config.poolFirst Config.poolPages
    constructor
    · rintro ⟨hp, pos⟩; have := bound p hp; exact ⟨by omega, hp⟩
    · rintro ⟨hp, hb⟩; exact ⟨hb, by omega⟩
  exact (same.append_left _).trans (List.perm_append_comm.trans (List.filter_append_perm _ _))

theorem SurfaceManager.Whole.restart (h : m.Whole) {bad : List Nat} (hb : BadPagesSound bad) : (m.restart bad).Whole := by
  obtain ⟨x, hx, kind, pages⟩ := h.fallback
  refine whole_of_free ?_ ⟨x, ?_, kind, pages⟩ (restartEntries_free _) (poolRange_split hb) fun a => by
    cases a <;> exact ⟨rfl, rfl⟩
  · simpa [SurfaceManager.restart, restartEntries] using h.entries
  · simpa [SurfaceManager.restart, restartEntries, List.getElem?_mapIdx] using hx

theorem SurfaceManager.reset_whole : SurfaceManager.reset.Whole :=
  whole_of_free (by simp [SurfaceManager.reset])
    ⟨_, rfl, rfl, rfl⟩
    (fun e he => by
      simp only [SurfaceManager.reset, List.drop_succ_cons, List.drop_zero, List.mem_replicate] at he
      rw [he.2])
    (by simp [SurfaceManager.reset, poolRange])
    fun a => by cases a <;> exact ⟨rfl, rfl⟩

/-! ## The bad page list (R152) -/

theorem BadPagesSound.nil : BadPagesSound [] := ⟨.nil, by simp, by simp⟩

/-- A result on a page of frame memory keeps the bad page list sound. -/
theorem BadPagesSound.badAfter {e : MemoryErrors} {page : Nat} (h : BadPagesSound e.bad) (hp : page < 16384) :
    BadPagesSound (e.badAfter page) := by
  unfold MemoryErrors.badAfter
  split
  · next added =>
    obtain ⟨nodup, len, bound⟩ := h
    obtain ⟨fresh, room⟩ : page ∉ e.bad ∧ e.bad.length < badRoom := by simpa [MemoryErrors.appends] using added
    unfold badRoom at room
    refine ⟨nodup.append (by simp) (by simpa using fresh), by simp; omega, fun p h => ?_⟩
    rcases List.mem_append.mp h with h | h
    · exact bound p h
    · rwa [List.mem_singleton.mp h]
  · exact h

/-! ## Every command -/

theorem PoolWhole.of_eq (hm : t.surfaces = s.surfaces) (hb : t.errors.bad = s.errors.bad) (h : PoolWhole s) : PoolWhole t :=
  poolWhole_iff.mpr (by rw [hm, hb]; exact poolWhole_iff.mp h)

/-- A change of the surface manager alone keeps the pool whole if it keeps the surface manager so. -/
theorem PoolWhole.of_whole (h : PoolWhole s) (hb : t.errors.bad = s.errors.bad) (hm : s.surfaces.Whole → t.surfaces.Whole) :
    PoolWhole t := by
  obtain ⟨whole, bad⟩ := poolWhole_iff.mp h
  exact poolWhole_iff.mpr ⟨hm whole, by rw [hb]; exact bad⟩

theorem PoolWhole.becomeFree (h : PoolWhole s) (i : Nat) : PoolWhole (s.becomeFree i) := by
  unfold State.becomeFree
  split
  · next g x he =>
    split
    · exact h
    · next hk => exact h.of_whole rfl fun w => w.release he hk _
  · exact h

theorem stable_poolWhole : Stable PoolWhole where
  startUp _ _ := PoolWhole.of_eq rfl rfl
  ports _ _ := PoolWhole.of_eq rfl rfl
  outputs _ _ := PoolWhole.of_eq rfl rfl
  streams _ _ := PoolWhole.of_eq rfl rfl
  cache _ _ := PoolWhole.of_eq rfl rfl
  arbiter _ _ := PoolWhole.of_eq rfl rfl
  freeCount _ _ := PoolWhole.of_eq rfl rfl
  counters _ _ _ := PoolWhole.of_eq rfl rfl
  surface _ i _ k h := h.of_whole rfl fun w => w.modSurface i k
  free _ i h := h.becomeFree i
  allocate _ _ _ _ st _ _ _ hi ok ha hk h := h.of_whole rfl fun w => w.allocate hi ok ha hk st

theorem keptBy_poolWhole (c : Instr) (s : State) : KeptBy PoolWhole c s where
  toStable := stable_poolWhole
  layers _ _ _ := PoolWhole.of_eq rfl rfl
  frame _ _ _ _ _ := PoolWhole.of_eq rfl rfl
  configure _ _ _ _ _ h := h.of_whole rfl fun w =>
    w.congr rfl rfl w.fallback rfl rfl fun a => by cases a <;> exact ⟨rfl, rfl⟩
  program _ _ _ _ := PoolWhole.of_eq rfl rfl
  erase _ _ _ := PoolWhole.of_eq rfl rfl
  spoil _ _ _ _ := PoolWhole.of_eq rfl rfl
  blocks _ _ h := by
    obtain ⟨whole, bad⟩ := poolWhole_iff.mp h
    exact poolWhole_iff.mpr ⟨whole.restart bad, bad⟩
  note _ b _ valid _ h := by
    obtain ⟨whole, bad⟩ := poolWhole_iff.mp h
    simp only [Burst.valid, Bool.and_eq_true, decide_eq_true_eq] at valid
    obtain ⟨⟨page, -⟩, -⟩ := valid
    exact poolWhole_iff.mpr ⟨whole, bad.badAfter page⟩
  faulted _ _ := PoolWhole.of_eq rfl rfl
  clear _ _ := PoolWhole.of_eq rfl rfl
  cold _ _ _ _ _ := poolWhole_iff.mpr ⟨SurfaceManager.reset_whole, .nil⟩

/-- Settles O8: every common change keeps the pool whole, and so do the configuration, RESTART, a memory error and a cold
reset. -/
theorem stepKeepsPoolWhole : Obligations.StepKeepsPoolWhole := fun _ _ hs e =>
  step_keeps (fun _ _ => PoolWhole.of_eq rfl rfl) keptBy_poolWhole hs e

/-! ## After reset -/

/-- Settles O9: at reset both memories are empty, every page of the pool is free and no error is captured. -/
theorem resetMeetsInvariants : Obligations.ResetMeetsInvariants :=
  ⟨⟨Memory.wf_nil _, Memory.wf_nil _⟩, poolWhole_iff.mpr ⟨SurfaceManager.reset_whole, .nil⟩, by
    simp [CaptureSound, State.reset, Capture.reset]⟩

end Sys2Proof.Machine
end

section
/-! SUPPORT. The budgets of the accounts (R4), and the values a cold reset leaves. -/

namespace Sys2Proof.Machine

variable {m m' : SurfaceManager} {s t : State}

/-! ## Charges and budgets (R4) -/

/-- The charges of each account stay within its budget (R4). -/
def SurfaceManager.Affordable (m : SurfaceManager) : Prop := ∀ a, (m.account a).charged ≤ (m.account a).budget

theorem chargedWithinBudget_iff : ChargedWithinBudget s ↔ s.surfaces.Affordable := Iff.rfl

theorem SurfaceManager.Affordable.modSurface (h : m.Affordable) (i : Nat) (f : Surface → Surface) :
    (m.modSurface i f).Affordable := by
  unfold SurfaceManager.modSurface
  split <;> exact h

/-- A surface given back lowers the charge of its account and of no other (R18). -/
theorem SurfaceManager.Affordable.release (h : m.Affordable) (i : Nat) (g : Byte) (x : Surface) (bad : List Nat) :
    (m.release i g x bad).Affordable := by
  intro a
  simp only [SurfaceManager.release, account_tables]
  by_cases ha : a = x.owner
  · subst ha
    by_cases hp : x.owner = .part
    · rw [hp]; exact h .part
    · rw [account_setAccount_same hp]
      exact (Nat.sub_le _ _).trans (h x.owner)
  · rw [account_setAccount_ne ha]
    exact h a

/-- An allocation charges no more than its budget allows (R12, R19). -/
theorem SurfaceManager.Affordable.allocate {i : Nat} {a : Account} {f : Format} {w n : Nat} (h : m.Affordable)
    (ok : m.allocationRefusal a (pageCount (byteSize f w n)) = none) (ha : a ≠ .part) (kind : SurfaceKind)
    (st : SurfaceState) : (m.allocate i a kind st f w n).Affordable := by
  obtain ⟨-, afford, -⟩ := allocationRefusal_eq_none.mp ok
  intro b
  simp only [SurfaceManager.allocate, account_tables]
  by_cases hab : b = a
  · subst hab
    rw [account_setAccount_same ha]
    exact afford
  · rw [account_setAccount_ne hab]
    exact h b

/-- Where nothing is charged, any budgets will do (R25, R26, R190). -/
theorem chargedWithinBudget_configure (h : ∀ a, (s.surfaces.account a).charged = 0) (c : Image) (d : Bool) :
    ChargedWithinBudget (s.configure c d) := fun a => by
  have same : ((s.configure c d).surfaces.account a).charged = (s.surfaces.account a).charged := by cases a <;> rfl
  rw [same, h a]
  exact Nat.zero_le _

theorem ChargedWithinBudget.becomeFree (h : ChargedWithinBudget s) (i : Nat) : ChargedWithinBudget (s.becomeFree i) := by
  unfold State.becomeFree
  split
  · split
    · exact h
    · exact chargedWithinBudget_iff.mpr ((chargedWithinBudget_iff.mp h).release _ _ _ _)
  · exact h

theorem stable_chargedWithinBudget : Stable ChargedWithinBudget where
  startUp _ _ h := h
  ports _ _ h := h
  outputs _ _ h := h
  streams _ _ h := h
  cache _ _ h := h
  arbiter _ _ h := h
  freeCount _ _ h := h
  counters _ _ _ h := h
  surface _ i f _ h := chargedWithinBudget_iff.mpr ((chargedWithinBudget_iff.mp h).modSurface i f)
  free _ i h := h.becomeFree i
  allocate _ _ _ kind st _ _ _ _ ok ha _ h :=
    chargedWithinBudget_iff.mpr ((chargedWithinBudget_iff.mp h).allocate ok ha kind st)

/-- A command keeps the charges within the budgets, unless it brings new budgets. -/
theorem keptBy_chargedWithinBudget {c : Instr} (h : c = .loaderReadEnd → ¬ ∃ m, s.cache.work = .startConfig m) :
    KeptBy ChargedWithinBudget c s where
  toStable := stable_chargedWithinBudget
  layers _ _ _ h := h
  frame _ _ _ _ _ h := h
  configure load work := absurd work (h load)
  program _ _ _ _ h := h
  erase _ _ _ h := h
  spoil _ _ _ _ h := h
  blocks _ _ _ a := by cases a <;> exact Nat.zero_le _
  note _ _ _ _ _ h := h
  faulted _ _ h := h
  clear _ _ h := h
  cold _ _ _ _ _ a := by cases a <;> exact Nat.zero_le _

/-- The end of a configuration read of start-up, where nothing is charged yet: it reads on in the next mode, or it takes the
image or the built-in defaults (R188, R190). -/
theorem chargedWithinBudget_startConfigStep (h : ChargedWithinBudget s) (zero : ∀ a, (s.surfaces.account a).charged = 0)
    (m : ReadMode) (data : List Byte) : ChargedWithinBudget (s.startConfigStep m data) := by
  have k := stable_chargedWithinBudget
  have frame : ∀ s pages off bs, ChargedWithinBudget s → ChargedWithinBudget (s.writeSurface pages off bs).1 :=
    fun _ _ _ _ h => h
  unfold State.startConfigStep
  split
  · exact k.beginDirectory frame _ (chargedWithinBudget_configure zero _ _)
  · cases m with
    | one => exact k.askRead _ _ (k.modArbiter _ h)
    | two => exact k.askRead _ _ (k.modArbiter _ h)
    | four =>
      exact k.beginDirectory frame _ (chargedWithinBudget_configure (s := s.modArbiter _) zero _ _)

theorem State.loaderStep_startConfig {m : ReadMode} (work : s.cache.work = .startConfig m) (data : List Byte) :
    s.loaderStep data = s.startConfigStep m data := by
  unfold State.loaderStep
  rw [work]

/-- Settles O14: every command but the end of the configuration read keeps the charges within the budgets by the common
changes; that read does where nothing is charged yet. -/
theorem chargesStayWithinBudgets : Obligations.ChargesStayWithinBudgets := by
  intro c s t hs e zero
  by_cases load : c = .loaderReadEnd ∧ ∃ m, s.cache.work = .startConfig m
  · obtain ⟨rfl, m, work⟩ := load
    have k := stable_chargedWithinBudget
    simp only [exec, execLoaderReadEnd] at e
    split at e
    · exact next_keeps e hs
    · split at e
      · rw [State.loaderStep_startConfig (s := s.modArbiter _) work] at e
        exact next_keeps e (k.settle (k.giveNext
          (chargedWithinBudget_startConfigStep (k.modArbiter _ hs) (zero rfl ⟨m, work⟩) _ _)))
      · exact next_keeps e hs
  · exact (keptBy_chargedWithinBudget fun hc work => load ⟨hc, work⟩).exec hs e

/-! ## The state after a cold reset -/

theorem Counters.zero_group (g : Nat) : ∀ n ∈ Counters.zero.group g, n = 0 := by
  match g with
  | 0 | 1 | 2 | 3 | 4 | 5 | 6 | 7 => decide
  | _ + 8 => simp [Counters.group]

/-- Settles O3: the fields of the reset state, block by block. -/
theorem resetStateValues : Obligations.ResetStateValues := by
  refine ⟨⟨rfl, rfl, rfl, rfl, fun a => by cases a <;> exact ⟨rfl, rfl⟩⟩, ⟨rfl, fun r hr => ?_⟩, fun i => by cases i <;> rfl,
    ⟨rfl, rfl, rfl, rfl, rfl⟩, ⟨rfl, rfl, rfl⟩, rfl, fun p => ?_, Counters.zero_group, fun o => ?_, rfl⟩
  · rw [List.eq_of_mem_replicate hr]
    exact ⟨rfl, rfl⟩
  · cases p <;> exact ⟨rfl, rfl, rfl, rfl, rfl, rfl, rfl, rfl, rfl⟩
  · cases o <;> exact ⟨rfl, rfl, rfl, rfl, rfl, rfl⟩

end Sys2Proof.Machine
end

section
/-! SUPPORT. The commands of the surface manager: the fields of their payloads, what each check of R11 to R16 refuses, and
the states of the accepted ones. -/

namespace Sys2Proof.Machine

variable {s : State} {p : Port} {c : Cmd} {f : Frame} {rest : List Frame}

/-! ## Answers of a command taken -/

theorem Takes.ne_resetting (h : Takes s p c f rest) : (s.ports.get p).status ≠ .resetting := by simp [h.attached]

/-- The state in which a port has taken the head of its command queue, `rest` being left (R177). -/
def State.dequeued (s : State) (p : Port) (rest : List Frame) : State := s.modPort p (fun q => { q with queue := rest })

@[simp] theorem State.dequeued_surfaces : (s.dequeued p rest).surfaces = s.surfaces := rfl
@[simp] theorem State.dequeued_frame : (s.dequeued p rest).frame = s.frame := rfl
@[simp] theorem State.dequeued_errors : (s.dequeued p rest).errors = s.errors := rfl

/-- A command whose owning block completes it after changes that leave the ports as they are. -/
theorem Takes.completes {st : Status} {res : Result} {owner : Frame → State → State} {t : State} (h : Takes s p c f rest)
    (own : owner f (s.dequeued p rest) = t.complete p f st res) (ports : t.ports = (s.dequeued p rest).ports) :
    s.taking p c owner = { t with ports := (s.answered p f rest st res).ports } := by
  rw [h.taking owner]
  exact own.trans (State.complete_of_ports st res h.ne_resetting ports)

/-- A command whose owning block only completes it changes nothing but the port. -/
theorem Takes.answers {st : Status} {res : Result} {owner : Frame → State → State} (h : Takes s p c f rest)
    (own : owner f (s.dequeued p rest) = (s.dequeued p rest).complete p f st res) :
    s.taking p c owner = s.answered p f rest st res := by
  rw [h.taking owner]
  exact own.trans (State.complete_taken st res h.ne_resetting)

/-! ## Fields of a payload (Table 10-10) -/

theorem toNat_byte (n : Nat) : (BitVec.ofNat 8 n).toNat = n % 256 := BitVec.toNat_ofNat n 8

/-- The fields of DEFINE SURFACE. -/
theorem defineSurface_fields {w h : Nat} {code : Byte} (hw : w < 65536) (hh : h < 65536) :
    let payload := b16 w ++ b16 h ++ [code]
    u16 payload 0 = w ∧ u16 payload 2 = h ∧ u8 payload 4 = code.toNat := by
  simp only [u16, u8, b16, List.cons_append, List.nil_append, List.getD_cons_zero, List.getD_cons_succ, toNat_byte]
  exact ⟨by omega, by omega, trivial⟩

/-- The handle of a payload that begins with one. -/
theorem handleAt_cons {idx : Nat} (hi : idx < 256) (g : Byte) (bs : List Byte) :
    handleAt (b8 idx ++ [g] ++ bs) 0 = ⟨idx, g⟩ := by
  simp only [handleAt, u8, b8, List.cons_append, List.nil_append, List.getD_cons_zero, List.getD_cons_succ, toNat_byte]
  rw [Nat.mod_eq_of_lt hi]

/-- The fields of WRITE SURFACE. -/
theorem writeSurface_fields {idx off count : Nat} {mark : List Byte} (hi : idx < 256) (ho : off < 4294967296)
    (hc : count < 65536) (hm : mark.length = 8) (g : Byte) (data : List Byte) :
    let payload := b8 idx ++ [g] ++ b32 off ++ b16 count ++ mark ++ data
    handleAt payload 0 = ⟨idx, g⟩ ∧ u32 payload 2 = off ∧ u16 payload 6 = count ∧ (payload.drop 8).take 8 = mark
      ∧ payload.drop 16 = data := by
  have drop8 : (b8 idx ++ [g] ++ b32 off ++ b16 count ++ mark ++ data).drop 8 = mark ++ data := rfl
  refine ⟨?_, ?_, ?_, by rw [drop8, ← hm, List.take_left], ?_⟩
  · simpa using handleAt_cons hi g (b32 off ++ (b16 count ++ (mark ++ data)))
  · simp only [u32, u16, u8, b8, b16, b32, List.cons_append, List.nil_append, List.getD_cons_zero, List.getD_cons_succ,
      toNat_byte]
    omega
  · simp only [u16, u8, b8, b16, b32, List.cons_append, List.nil_append, List.getD_cons_zero, List.getD_cons_succ,
      toNat_byte]
    omega
  · rw [show 16 = 8 + mark.length by omega, ← List.drop_drop, drop8, List.drop_left]

/-! ## DEFINE SURFACE (R11, R12) -/

@[simp] theorem Format.ofCode_code (fmt : Format) : Format.ofCode fmt.code = some fmt := by cases fmt <;> rfl

/-- One side of a surface as R11 clamps it: at most 4,096, and even for YC420. -/
def clampedSide (fmt : Format) (n : Nat) : Nat :=
  if fmt = .yc420 ∧ min n 4096 % 2 = 1 then min n 4096 + 1 else min n 4096

theorem defineGeometry_code (w h : Nat) (fmt : Format) : defineGeometry w h fmt.code =
    if w = 0 ∨ h = 0 then none
    else if 4096 < pageCount (byteSize fmt (clampedSide fmt w) (clampedSide fmt h)) then none
    else some (fmt, clampedSide fmt w, clampedSide fmt h) := by
  simp only [defineGeometry, Format.ofCode_code]
  rfl

/-- An unknown format or a side of 0 is BAD_GEOMETRY (R11). -/
theorem defineGeometry_eq_none {w h code : Nat} (bad : 3 < code ∨ w = 0 ∨ h = 0) : defineGeometry w h code = none := by
  unfold defineGeometry Format.ofCode
  rcases bad with hc | hs
  · obtain ⟨k, rfl⟩ : ∃ k, code = k + 4 := ⟨code - 4, by omega⟩
    rfl
  · split
    · rfl
    · rw [if_pos hs]

theorem account_accountOf (m : SurfaceManager) (p : Port) :
    m.account (accountOf p) = match p with | .a => m.portA | .b => m.portB := by cases p <;> rfl

theorem SurfaceManager.allocationRefusal_noSurface {m : SurfaceManager} {a : Account} {n : Nat}
    (full : entryShare a ≤ (m.account a).entries) : m.allocationRefusal a n = some .noSurface := if_pos full

theorem SurfaceManager.allocationRefusal_noBudget {m : SurfaceManager} {a : Account} {n : Nat}
    (share : (m.account a).entries < entryShare a) (above : (m.account a).budget < (m.account a).charged + n) :
    m.allocationRefusal a n = some .noBudget :=
  (if_neg (Nat.not_le.mpr share)).trans (if_pos above)

theorem SurfaceManager.allocationRefusal_noPages {m : SurfaceManager} {a : Account} {n : Nat}
    (share : (m.account a).entries < entryShare a) (afford : (m.account a).charged + n ≤ (m.account a).budget)
    (short : m.freeList.length < n) : m.allocationRefusal a n = some .noPages :=
  (if_neg (Nat.not_le.mpr share)).trans ((if_neg (Nat.not_lt.mpr afford)).trans (if_pos short))

@[simp] theorem entryShare_accountOf (p : Port) : entryShare (accountOf p) = 48 := by cases p <;> rfl

section
variable {u : State} {fmt : Format} {w h i : Nat} {g : Byte} {st : Status}

theorem defineSurface_badGeometry (geo : defineGeometry (u16 f.payload 0) (u16 f.payload 2) (u8 f.payload 4) = none) :
    defineSurface p f u = u.complete p f .badGeometry .none := by
  simp only [defineSurface, geo]

variable (geo : defineGeometry (u16 f.payload 0) (u16 f.payload 2) (u8 f.payload 4) = some (fmt, w, h))
include geo

theorem defineSurface_refused
    (refused : u.surfaces.allocationRefusal (accountOf p) (pageCount (byteSize fmt w h)) = some st) :
    defineSurface p f u = u.complete p f st .none := by
  simp only [defineSurface, geo, refused]

variable (room : u.surfaces.allocationRefusal (accountOf p) (pageCount (byteSize fmt w h)) = none)
include room

theorem defineSurface_fault (fault : u.errors.fault = true) :
    defineSurface p f u = u.complete p f .fault .none := by
  simp only [defineSurface, geo, room, fault, if_true]

theorem defineSurface_accepted (fault : u.errors.fault = false) (free : u.surfaces.lowestFree = some i)
    (entry : u.surfaces.entries[i]? = some ⟨g, none⟩) :
    defineSurface p f u =
      State.complete p f (if w = u16 f.payload 0 ∧ h = u16 f.payload 2 then .ok else .clamped)
        (.surface ⟨i, g⟩ w h (byteSize fmt w h) (pageCount (byteSize fmt w h)))
        { u with surfaces := u.surfaces.allocate i (accountOf p) .port .defined fmt w h } := by
  obtain ⟨hi, hg⟩ := List.getElem?_eq_some_iff.mp entry
  simp [defineSurface, geo, room, fault, free, State.handleOf, SurfaceManager.allocate, hi, hg]

end

/-- Settles O31: the geometry, the account and the free list pass their checks, and the entry is the lowest FREE one. -/
theorem defineSurfaceAccepted : Obligations.DefineSurfaceAccepted := by
  intro s p f rest w h fmt i g takes hw hh payload w0 h0 even w' h' size n r r' fits share budget pages fault pos entry
    before
  obtain ⟨fw, fh, fc⟩ := defineSurface_fields (code := BitVec.ofNat 8 fmt.code) hw hh
  have hc : (BitVec.ofNat 8 fmt.code).toNat = fmt.code := by cases fmt <;> rfl
  rw [hc] at fc
  have hp : f.payload = b16 w ++ b16 h ++ [BitVec.ofNat 8 fmt.code] := payload
  rw [← hp] at fw fh fc
  have geo : defineGeometry (u16 f.payload 0) (u16 f.payload 2) (u8 f.payload 4) = some (fmt, w', h') := by
    rw [fw, fh, fc, defineGeometry_code, if_neg (by simp [w0, h0])]
    exact if_neg (Nat.not_lt.mpr fits)
  have room : s.surfaces.allocationRefusal (accountOf p) (pageCount (byteSize fmt w' h')) = none := by
    rw [SurfaceManager.allocationRefusal_eq_none, account_accountOf, entryShare_accountOf]
    exact ⟨share, budget, pages⟩
  have free := SurfaceManager.lowestFree_eq_some.mpr ⟨pos, ⟨g, entry⟩, before⟩
  have taken := takes.completes (defineSurface_accepted (u := s.dequeued p rest) geo room fault free entry) rfl
  rw [exec, execDefineSurface, taken, fw, fh]
  have gen : ((s.surfaces.entries[i]?).map (·.gen)).getD 0 = g := by rw [entry]; rfl
  simp only [State.dequeued_surfaces, SurfaceManager.allocate, gen]
  cases p <;> rfl

/-- Settles O32: the checks of R11 fail before those of the account, of the free list and of FAULT (R12). -/
theorem defineSurfaceRefused : Obligations.DefineSurfaceRefused := by
  intro s p f rest w h code takes hw hh payload refused r
  obtain ⟨fw, fh, fc⟩ := defineSurface_fields (code := code) hw hh
  rw [← payload] at fw fh fc
  have answers {st : Status} (own : defineSurface p f (s.dequeued p rest) = (s.dequeued p rest).complete p f st .none) :
      refused st := congrArg Host.Outcome.next (takes.answers own)
  refine ⟨fun bad => answers (defineSurface_badGeometry ?_), ?_⟩
  · rw [fw, fh, fc]
    exact defineGeometry_eq_none bad
  intro fmt hcode w0 h0 even n
  have geometry : defineGeometry (u16 f.payload 0) (u16 f.payload 2) (u8 f.payload 4)
      = if 4096 < n then none else some (fmt, even (min w 4096), even (min h 4096)) := by
    rw [fw, fh, fc, ← hcode, defineGeometry_code, if_neg (by simp [w0, h0])]
    rfl
  have geo (fits : n ≤ 4096) : defineGeometry (u16 f.payload 0) (u16 f.payload 2) (u8 f.payload 4)
      = some (fmt, even (min w 4096), even (min h 4096)) := by rw [geometry, if_neg (Nat.not_lt.mpr fits)]
  have hr : (s.dequeued p rest).surfaces.account (accountOf p) = r := account_accountOf _ _
  have hs := entryShare_accountOf p
  refine ⟨fun big => ?_, fun fits full => ?_, fun fits share above => ?_, fun fits share afford short => ?_,
    fun fits share afford pages fault => ?_⟩
  · exact answers (defineSurface_badGeometry (by rw [geometry, if_pos big]))
  · exact answers (defineSurface_refused (geo fits) (SurfaceManager.allocationRefusal_noSurface (by rwa [hr, hs])))
  · exact answers (defineSurface_refused (geo fits)
      (SurfaceManager.allocationRefusal_noBudget (by rwa [hr, hs]) (by rwa [hr])))
  · exact answers (defineSurface_refused (geo fits)
      (SurfaceManager.allocationRefusal_noPages (by rwa [hr, hs]) (by rwa [hr]) short))
  · refine answers (defineSurface_fault (geo fits) (SurfaceManager.allocationRefusal_eq_none.mpr ?_) fault)
    rw [hr, hs]
    exact ⟨share, afford, pages⟩

/-! ## QUERY POOL (R23) -/

/-- The ALLOCATED pages are those of the page lists of entries 1–159 (R1). -/
theorem SurfaceManager.allocatedPages_eq (m : SurfaceManager) :
    m.allocatedPages = ((m.entries.drop 1).flatMap (·.pages)).length := by
  rw [SurfaceManager.allocatedPages, List.length_flatMap]
  refine congrArg List.sum (List.map_congr_left fun e _ => ?_)
  cases h : e.body <;> simp [SurfaceEntry.pages, h]

/-- A whole pool has 16,320 pages on its two lists and in its page lists (R1, R3). -/
theorem SurfaceManager.Whole.pages_total {m : SurfaceManager} (h : m.Whole) :
    m.freeList.length + m.quarantined.length + ((m.entries.drop 1).flatMap (·.pages)).length = 16320 := by
  have total := h.pages.length_eq
  rwa [List.length_append, List.length_append, poolRange, List.length_range'] at total

/-- Settles O36: the report counts the ALLOCATED pages in the page lists, and a whole pool has no page elsewhere. -/
theorem queryPoolTaken : Obligations.QueryPoolTaken := by
  intro s p f rest takes allocated
  constructor
  · rw [exec, execQueryPool, takes.answers (owner := queryPool p) rfl]
    simp only [State.poolReport, State.dequeued_surfaces, State.dequeued_errors, SurfaceManager.allocatedPages_eq]
    rfl
  · intro whole
    obtain ⟨pool, -, short, -⟩ := poolWhole_iff.mp whole
    have := pool.pages_total
    exact ⟨by omega, short⟩

end Sys2Proof.Machine
end

section
/-! SUPPORT. WRITE SURFACE refused and FREE SURFACE (R13, R15, R16): which surface a handle resolves to, when a slot is busy,
when a pending copy names a surface, and what is left of a surface given back. -/

namespace Sys2Proof.Machine

variable {s : State} {p : Port} {f : Frame} {rest : List Frame} {h : Handle} {x : Surface}

/-! ## Lookups (R6, R7, R13, R35) -/

/-- A handle resolves to the surface of its entry where the generations agree (R6). -/
theorem State.resolve_eq_some : s.resolve h = some x ↔ s.surfaces.entries[h.index]? = some ⟨h.gen, some x⟩ := by
  unfold State.resolve
  cases s.surfaces.entries[h.index]? with
  | none => simp
  | some e =>
    obtain ⟨g, b⟩ := e
    by_cases hg : g = h.gen <;> simp [hg]

theorem State.surfaceAt_of_resolve (hr : s.resolve h = some x) : s.surfaceAt h.index = some x := by
  simp [State.surfaceAt, State.resolve_eq_some.mp hr]

/-- Two handles of one entry that both resolve are one handle (R6). -/
theorem State.resolve_unique {h' : Handle} (hr : s.resolve h = some x) (hr' : (s.resolve h').isSome = true)
    (hi : h'.index = h.index) : h' = h := by
  obtain ⟨y, hy⟩ := Option.isSome_iff_exists.mp hr'
  have e := State.resolve_eq_some.mp hr
  have e' := State.resolve_eq_some.mp hy
  rw [hi, e] at e'
  obtain ⟨i, g⟩ := h
  obtain ⟨i', g'⟩ := h'
  simp_all

theorem State.slotBusy_iff : s.slotBusy x = true ↔
    ∃ i k y, x.attached = some (i, k) ∧ (s.streams.get i).slots[k]? = some y ∧ y.state ≠ .empty := by
  unfold State.slotBusy
  cases x.attached with
  | none => simp
  | some a =>
    obtain ⟨i, k⟩ := a
    cases hy : (s.streams.get i).slots[k]? <;> simp_all

theorem ownsLayer_iff (p : Port) (id : Nat) : layerIdOf p id ↔ firstLayer p ≤ id ∧ id < firstLayer p + 12 := by
  cases p <;> simp only [layerIdOf, firstLayer] <;> omega

/-- The records of a port are the twelve of its layer ids (R27). -/
theorem mem_layersOf {ls : List LayerRecord} {r : LayerRecord} :
    r ∈ (ls.drop (firstLayer p)).take 12 ↔ ∃ id, layerIdOf p id ∧ ls[id]? = some r := by
  rw [List.mem_iff_getElem?]
  constructor
  · rintro ⟨k, hk⟩
    rw [List.getElem?_take] at hk
    split at hk
    · next lt =>
      rw [List.getElem?_drop] at hk
      exact ⟨firstLayer p + k, (ownsLayer_iff p _).mpr ⟨by omega, by omega⟩, hk⟩
    · cases hk
  · rintro ⟨id, hid, hr⟩
    obtain ⟨lo, hi⟩ := (ownsLayer_iff p id).mp hid
    refine ⟨id - firstLayer p, ?_⟩
    rw [List.getElem?_take, if_pos (by omega), List.getElem?_drop, Nat.add_sub_cancel' lo]
    exact hr

/-- A copy names the surface of a handle that resolves where it names an output and has that handle as its source (R29). -/
theorem State.copyNames_iff (hr : s.resolve h = some x) (c : LayerCopy) :
    s.copyNames c h.index = true ↔ c.output ≠ none ∧ c.source = .surface h := by
  unfold State.copyNames
  split
  · next o h' ho hs =>
    simp only [Bool.and_eq_true, beq_iff_eq, ho, hs]
    constructor
    · rintro ⟨hi, hr'⟩
      exact ⟨by simp, by rw [State.resolve_unique hr hr' hi]⟩
    · rintro ⟨-, e⟩
      cases e
      exact ⟨rfl, by simp [hr]⟩
  · next other =>
    refine ⟨fun e => absurd e (by simp), fun ⟨ho, hs⟩ => ?_⟩
    obtain ⟨o, ho⟩ := Option.ne_none_iff_exists'.mp ho
    exact absurd hs (other o h ho)

/-- A surface is named by the pending copies of a port where one of its records has it as the pending source (R35). -/
theorem State.pendingNames_iff (hr : s.resolve h = some x) : s.pendingNames p h.index = true ↔
    ∃ id r, layerIdOf p id ∧ s.layers[id]? = some r ∧ r.pending.output ≠ none ∧ r.pending.source = .surface h := by
  simp only [State.pendingNames, List.any_eq_true, mem_layersOf, State.copyNames_iff hr]
  constructor
  · rintro ⟨r, ⟨id, own, at'⟩, names⟩
    exact ⟨id, r, own, at', names⟩
  · rintro ⟨id, r, own, at', names⟩
    exact ⟨r, ⟨id, own, at'⟩, names⟩

/-! ## The checks of R13 and R15 -/

theorem State.writeRefusal_length {off count len : Nat} (ne : count ≠ len) :
    s.writeRefusal p h off count len = some .badCommand := if_pos ne

theorem State.writeRefusal_unresolved {off len : Nat} (hr : s.resolve h = none) :
    s.writeRefusal p h off len len = some .badHandle := by
  simp only [State.writeRefusal, hr, ne_eq, not_true_eq_false, if_false]

theorem State.writeRefusal_resolved {off len : Nat} (hr : s.resolve h = some x) : s.writeRefusal p h off len len =
    if x.owner ≠ accountOf p then some .notOwner
    else if x.state ≠ .defined then some .wrongState
    else if s.slotBusy x then some .slotBusy
    else if x.byteSize < off + len then some .badGeometry
    else if s.errors.fault then some .fault
    else none := by
  simp only [State.writeRefusal, hr, ne_eq, not_true_eq_false, if_false]

theorem State.freeRefusal_unresolved (hr : s.resolve h = none) : s.freeRefusal p h = some .badHandle := by
  simp only [State.freeRefusal, hr]

theorem State.freeRefusal_resolved (hr : s.resolve h = some x) : s.freeRefusal p h =
    if x.owner ≠ accountOf p then some .notOwner
    else if x.state = .retiring then some .wrongState
    else if x.attached.isSome then some .attached
    else if s.pendingNames p h.index then some .inUse
    else none := by
  simp only [State.freeRefusal, hr]

theorem writeSurface_refused {off count : Nat} {mark data : List Byte} {st : Status} {u : State}
    (fields : handleAt f.payload 0 = h ∧ u32 f.payload 2 = off ∧ u16 f.payload 6 = count
      ∧ (f.payload.drop 8).take 8 = mark ∧ f.payload.drop 16 = data)
    (refused : u.writeRefusal p h off count data.length = some st) :
    writeSurface p f u = u.complete p f st (.written mark none) := by
  obtain ⟨fh, fo, fc, fm, fd⟩ := fields
  simp only [writeSurface, fh, fo, fc, fm, fd, refused]

theorem freeSurface_refused {st : Status} {u : State} (field : handleAt f.payload 0 = h)
    (refused : u.freeRefusal p h = some st) : freeSurface p f u = u.complete p f st .none := by
  simp only [freeSurface, field, refused]

/-- Settles O34: each refusal is the first failing check of R13 or of R15. -/
theorem writeAndFreeSurfaceRefused : Obligations.WriteAndFreeSurfaceRefused := by
  intro s p f rest idx g hi
  constructor
  · intro off count mark data takes ho hc hm payload refused
    have fields := writeSurface_fields hi ho hc hm g data
    rw [← payload] at fields
    have answers {st : Status} (check : s.writeRefusal p ⟨idx, g⟩ off count data.length = some st) : refused st :=
      congrArg Host.Outcome.next (takes.answers (writeSurface_refused (u := s.dequeued p rest) fields check))
    refine ⟨fun ne => answers (State.writeRefusal_length ne), ?_, ?_⟩
    · rintro rfl hr
      exact answers (State.writeRefusal_unresolved hr)
    · rintro x rfl hr busy
      have check := State.writeRefusal_resolved (p := p) (off := off) (len := data.length) hr
      have hb : s.slotBusy x = true ↔ busy := State.slotBusy_iff
      refine ⟨fun ho => ?_, fun ho hs => ?_, fun ho hs b => ?_, fun ho hs b big => ?_, fun ho hs b fits fault => ?_⟩
      · exact answers (by simp [check, ho])
      · exact answers (by simp [check, ho, hs])
      · exact answers (by simp [check, ho, hs, hb.mpr b])
      · exact answers (by simp [check, ho, hs, mt hb.mp b, big])
      · exact answers (by simp [check, ho, hs, mt hb.mp b, Nat.not_lt.mpr fits, fault])
  · intro takes payload refused
    have field : handleAt f.payload 0 = ⟨idx, g⟩ := by rw [payload]; exact handleAt_cons hi g []
    have answers {st : Status} (check : s.freeRefusal p ⟨idx, g⟩ = some st) : refused st :=
      congrArg Host.Outcome.next (takes.answers (freeSurface_refused (u := s.dequeued p rest) field check))
    refine ⟨fun hr => answers (State.freeRefusal_unresolved hr), fun x hr => ?_⟩
    have check := State.freeRefusal_resolved (p := p) hr
    refine ⟨fun ho => ?_, fun ho hs => ?_, fun ho hs ha => ?_, fun ho hs ha named => ?_⟩
    · exact answers (by simp [check, ho])
    · exact answers (by simp [check, ho, hs])
    · exact answers (by simp [check, ho, hs, Option.isSome_iff_ne_none.mpr ha])
    · have named : s.pendingNames p idx = true := (State.pendingNames_iff hr).mpr named
      exact answers (by simp [check, ho, hs, ha, named])

/-! ## FREE SURFACE (R16, R18) -/

theorem State.inHoldSets_iff (i : Nat) : s.inHoldSets i = true ↔ i ∈ s.outputs.o0.holdSet ∨ i ∈ s.outputs.o1.holdSet := by
  simp [State.inHoldSets]

/-- A surface that no stream holds is held where a hold set names it (R7). -/
theorem State.held_iff (hr : s.resolve h = some x) (ha : x.attached = none) :
    s.held h.index = true ↔ h.index ∈ s.outputs.o0.holdSet ∨ h.index ∈ s.outputs.o1.holdSet := by
  rw [State.held, State.surfaceAt_of_resolve hr, ← State.inHoldSets_iff]
  simp [ha]

/-- An update of the surface a handle resolves to. -/
theorem State.modSurface_of_resolve (hr : s.resolve h = some x) (k : Surface → Surface) : s.modSurface h.index k =
    { s with surfaces := { s.surfaces with entries := s.surfaces.entries.set h.index ⟨h.gen, some (k x)⟩ } } := by
  simp [State.modSurface, SurfaceManager.modSurface, State.resolve_eq_some.mp hr]

theorem State.becomeFree_of_resolve (hr : s.resolve h = some x) (hk : x.kind ≠ .fallback) : s.becomeFree h.index =
    { s with surfaces := s.surfaces.release h.index h.gen x s.errors.bad
             layers := s.layers.map (fun r => r.forget h) } := by
  simp only [State.becomeFree, State.resolve_eq_some.mp hr, hk, if_false]

theorem State.retireOrFree_held (hr : s.resolve h = some x) (ha : x.attached = none)
    (hh : h.index ∈ s.outputs.o0.holdSet ∨ h.index ∈ s.outputs.o1.holdSet) : s.retireOrFree h.index =
      { s with surfaces := { s.surfaces with
                 entries := s.surfaces.entries.set h.index ⟨h.gen, some { x with state := .retiring }⟩ } } := by
  rw [State.retireOrFree, if_pos ((State.held_iff hr ha).mpr hh), State.modSurface_of_resolve hr]

theorem State.retireOrFree_unheld (hr : s.resolve h = some x) (hk : x.kind ≠ .fallback) (ha : x.attached = none)
    (hh : ¬ (h.index ∈ s.outputs.o0.holdSet ∨ h.index ∈ s.outputs.o1.holdSet)) : s.retireOrFree h.index =
      { s with surfaces := s.surfaces.release h.index h.gen x s.errors.bad
               layers := s.layers.map (fun r => r.forget h) } := by
  rw [State.retireOrFree, if_neg (fun e => hh ((State.held_iff hr ha).mp e)), State.becomeFree_of_resolve hr hk]

theorem surfaceAt_of_set {u t : State} {i : Nat} {e e' : SurfaceEntry} (he : u.surfaces.entries[i]? = some e)
    (ht : t.surfaces.entries = u.surfaces.entries.set i e') : t.surfaceAt i = e'.body := by
  obtain ⟨hi, -⟩ := List.getElem?_eq_some_iff.mp he
  simp [State.surfaceAt, ht, hi]

/-- FREE SURFACE accepted answers with the state the surface is left in (R16). -/
theorem freeSurface_accepted {u t : State} {e e' : SurfaceEntry} (field : handleAt f.payload 0 = h)
    (ok : u.freeRefusal p h = none) (left : u.retireOrFree h.index = t) (entry : u.surfaces.entries[h.index]? = some e)
    (table : t.surfaces.entries = u.surfaces.entries.set h.index e') :
    freeSurface p f u = t.complete p f .ok (.freed (e'.body.map (·.state))) := by
  simp only [freeSurface, field, ok, left, surfaceAt_of_set entry table]

/-- Settles O35: a hold set makes the surface RETIRING; without one it is given back, and the copies that name it lose their
source. -/
theorem freeSurfaceTaken : Obligations.FreeSurfaceTaken := by
  intro s p f rest idx g x takes hi payload hr ho hk hs ha unnamed inHold forget less
  have field : handleAt f.payload 0 = ⟨idx, g⟩ := by rw [payload]; exact handleAt_cons hi g []
  have names : s.pendingNames p idx = false := by
    refine Bool.eq_false_iff.mpr fun named => ?_
    obtain ⟨id, r, own, at', output, source⟩ := (State.pendingNames_iff hr).mp named
    exact unnamed id r own at' output source
  have ok : s.freeRefusal p ⟨idx, g⟩ = none := by simp [State.freeRefusal_resolved hr, ho, hs, ha, names]
  have entry := State.resolve_eq_some.mp hr
  have ne : x.kind ≠ .fallback := by simp [hk]
  have hr' : (s.dequeued p rest).resolve ⟨idx, g⟩ = some x := hr
  constructor
  · intro hh
    have left := State.retireOrFree_held hr' ha hh
    rw [exec, execFreeSurface, takes.completes (freeSurface_accepted field ok left entry rfl) rfl]
    rfl
  · intro hh
    have left := State.retireOrFree_unheld hr' ne ha hh
    rw [exec, execFreeSurface,
      takes.completes (freeSurface_accepted (e' := ⟨g + 1, none⟩) field ok left entry rfl) rfl]
    simp only [SurfaceManager.release, ho]
    cases p <;> rfl

end Sys2Proof.Machine
end

section
/-! SUPPORT. The write path of R14 byte by byte: which byte of a run one page takes, what the whole page list stores and
leaves, and how many bytes the bad pages discard. -/

namespace Sys2Proof.Machine

variable {bad : List Nat} {off : Nat} {bs : List Byte}

/-! ## One page of the list -/

/-- The bytes of a run that fall in page list entry `k`. -/
theorem length_pageSlice (k off : Nat) (bs : List Byte) :
    (pageSlice k off bs).2.length = min (off + bs.length) ((k + 1) * 4096) - max off (k * 4096) := by
  simp only [pageSlice, List.length_take, List.length_drop]
  omega

/-- Writing the bytes of entry `k` to its page stores each of them at its offset in the surface (R10, R14). -/
theorem read_writeSlice (m : Memory) (page k off : Nat) (bs : List Byte) (x : Nat) :
    Memory.read Config.frameBlank
        (m.writeRun Config.frameBlank (page * 4096 + (pageSlice k off bs).1) (pageSlice k off bs).2) x
      = if x / 4096 = page ∧ off ≤ k * 4096 + x % 4096 ∧ k * 4096 + x % 4096 < off + bs.length then
          bs.getD (k * 4096 + x % 4096 - off) Config.frameBlank
        else m.read Config.frameBlank x := by
  have first : (pageSlice k off bs).1 = max off (k * 4096) - k * 4096 := rfl
  rw [Memory.read_writeRun, length_pageSlice, first]
  by_cases h : x / 4096 = page ∧ off ≤ k * 4096 + x % 4096 ∧ k * 4096 + x % 4096 < off + bs.length
  · rw [if_pos h, if_pos (by omega)]
    simp only [pageSlice, List.getD_eq_getElem?_getD]
    rw [List.getElem?_take, if_pos (by omega), List.getElem?_drop]
    congr 2
    omega
  · rw [if_neg h, if_neg (by omega)]

/-- The write path over a page list writes the bytes of the first entry, unless its page is bad, and goes on. -/
theorem writePages_cons (bad : List Nat) (off : Nat) (bs : List Byte) (k page : Nat) (pages : List Nat) (m : Memory) :
    ∃ m' : Memory, (writePages bad off bs k (page :: pages) m).1 = (writePages bad off bs (k + 1) pages m').1
      ∧ ∀ x, m'.read Config.frameBlank x =
          if x / 4096 = page ∧ page ∉ bad ∧ off ≤ k * 4096 + x % 4096 ∧ k * 4096 + x % 4096 < off + bs.length then
            bs.getD (k * 4096 + x % 4096 - off) Config.frameBlank
          else m.read Config.frameBlank x := by
  have len := length_pageSlice k off bs
  simp only [writePages]
  split
  · next empty =>
    rw [List.isEmpty_iff] at empty
    rw [empty, List.length_nil] at len
    exact ⟨m, rfl, fun x => (if_neg (by omega)).symm⟩
  · split
    · next hb => exact ⟨m, rfl, fun x => (if_neg (by simp_all)).symm⟩
    · next hb => exact ⟨_, rfl, fun x => by rw [read_writeSlice]; simp_all⟩

/-! ## The whole page list -/

/-- A byte of a run whose place no good page of the list takes keeps its value. -/
theorem read_writePages_of_unwritten {x : Nat} (pages : List Nat) (k : Nat) (m : Memory)
    (unwritten : ∀ e page, pages[e]? = some page → page ∉ bad → x / 4096 = page →
      ¬ (off ≤ (k + e) * 4096 + x % 4096 ∧ (k + e) * 4096 + x % 4096 < off + bs.length)) :
    (writePages bad off bs k pages m).1.read Config.frameBlank x = m.read Config.frameBlank x := by
  induction pages generalizing k m with
  | nil => rfl
  | cons page pages ih =>
    obtain ⟨m', hm, read⟩ := writePages_cons bad off bs k page pages m
    rw [hm, ih (k + 1) m', read, if_neg]
    · rintro ⟨hx, good, range⟩
      exact unwritten 0 page rfl good hx range
    · intro e q he
      have later := unwritten (e + 1) q (by simpa using he)
      rwa [show k + (e + 1) = k + 1 + e by omega] at later

/-- A byte of a run is stored at its place in its page, if that page is good and the list names no page twice. -/
theorem read_writePages_of_written {x page e : Nat} {pages : List Nat} (k : Nat) (m : Memory) (nodup : pages.Nodup)
    (he : pages[e]? = some page) (good : page ∉ bad) (hx : x / 4096 = page) (lo : off ≤ (k + e) * 4096 + x % 4096)
    (hi : (k + e) * 4096 + x % 4096 < off + bs.length) :
    (writePages bad off bs k pages m).1.read Config.frameBlank x
      = bs.getD ((k + e) * 4096 + x % 4096 - off) Config.frameBlank := by
  induction pages generalizing k m e with
  | nil => simp at he
  | cons first pages ih =>
    obtain ⟨m', hm, read⟩ := writePages_cons bad off bs k first pages m
    obtain ⟨fresh, nodup⟩ := List.nodup_cons.mp nodup
    rw [hm]
    cases e with
    | zero =>
      obtain rfl : first = page := by simpa using he
      have others : ∀ p ∈ pages, x / 4096 ≠ p := by
        rintro p hp rfl
        exact fresh (hx ▸ hp)
      rw [read_writePages_outside bad off bs x _ pages m' others, read, if_pos ⟨hx, good, lo, hi⟩, Nat.add_zero]
    | succ e =>
      rw [show k + (e + 1) = k + 1 + e by omega] at lo hi ⊢
      exact ih (k + 1) m' nodup (by simpa using he) lo hi

/-! ## The count of discarded bytes -/

theorem countP_add_of_disjoint {α : Type} {p q r : α → Bool} (split : ∀ x, p x = (q x || r x))
    (disjoint : ∀ x, q x = true → r x = false) (l : List α) : l.countP p = l.countP q + l.countP r := by
  induction l with
  | nil => rfl
  | cons x l ih =>
    rw [List.countP_cons, List.countP_cons, List.countP_cons, ih, split x]
    cases hq : q x
    · simp; omega
    · simp [disjoint x hq]; omega

/-- How many bytes of a run of `n` fall in page list entry `k`. -/
theorem countP_entry (off k n : Nat) : (List.range n).countP (fun j => decide ((off + j) / 4096 = k))
    = min (off + n) ((k + 1) * 4096) - max off (k * 4096) := by
  induction n with
  | zero => simp
  | succ n ih =>
    rw [List.range_succ, List.countP_append, ih, List.countP_singleton]
    by_cases h : (off + n) / 4096 = k
    · rw [if_pos (decide_eq_true h)]; omega
    · rw [if_neg (by simpa using h)]; omega

/-- Whether byte `j` of a run at offset `off` falls in a bad page, for a page list that begins with entry `k`. -/
def discards (bad : List Nat) (off k : Nat) (pages : List Nat) (j : Nat) : Bool :=
  decide (k ≤ (off + j) / 4096) && (pages[(off + j) / 4096 - k]?).any bad.contains

/-- A byte of the first entry is discarded as its page is bad; any other as the rest of the list says. -/
theorem discards_cons (bad : List Nat) (off k page : Nat) (pages : List Nat) (j : Nat) :
    discards bad off k (page :: pages) j
      = (decide ((off + j) / 4096 = k) && bad.contains page || discards bad off (k + 1) pages j) := by
  unfold discards
  generalize (off + j) / 4096 = e
  rcases Nat.lt_trichotomy e k with h | rfl | h
  · simp [show ¬ k ≤ e by omega, show ¬ k + 1 ≤ e by omega, h.ne]
  · simp
  · obtain ⟨d, rfl⟩ : ∃ d, e = k + 1 + d := ⟨e - (k + 1), by omega⟩
    rw [show k + 1 + d - k = d + 1 by omega, show k + 1 + d - (k + 1) = d by omega]
    simp [h.ne', h.le]

/-- The write path counts the bytes that fall in bad pages (R14). -/
theorem writePages_discarded (bad : List Nat) (off : Nat) (bs : List Byte) (pages : List Nat) (k : Nat) (m : Memory) :
    (writePages bad off bs k pages m).2 = (List.range bs.length).countP (discards bad off k pages) := by
  induction pages generalizing k m with
  | nil =>
    refine (List.countP_eq_zero.mpr fun j _ => ?_).symm
    simp [discards]
  | cons page pages ih =>
    have here : (List.range bs.length).countP (fun j => decide ((off + j) / 4096 = k) && bad.contains page)
        = if bad.contains page then (pageSlice k off bs).2.length else 0 := by
      cases bad.contains page
      · simp
      · simp only [Bool.and_true, if_true, countP_entry, length_pageSlice]
    rw [countP_add_of_disjoint (discards_cons bad off k page pages), here, ← ih (k + 1) m]
    · simp only [writePages]
      split
      · next empty => rw [List.isEmpty_iff.mp empty]; simp
      · split
        · exact Nat.add_comm _ _
        · rw [ih, ih, Nat.zero_add]
    · intro j hj
      simp only [Bool.and_eq_true, decide_eq_true_eq] at hj
      simp [discards, hj.1]

/-! ## WRITE SURFACE accepted (R13, R14) -/

variable {s : State} {p : Port} {f : Frame} {h : Handle} {x : Surface}

/-- A frame that holds a command has a payload that fits it (R177). -/
theorem Frame.fits_of_cmd? {c : Cmd} (h : f.cmd? = some c) : c.fits f.payload.length = true := by
  unfold Frame.cmd? at h
  split at h
  · split at h
    · cases h; assumption
    · cases h
  · cases h

theorem State.writeRefusal_eq_none {len : Nat} (hr : s.resolve h = some x) (owner : x.owner = accountOf p)
    (defined : x.state = .defined) (idle : s.slotBusy x = false) (fits : off + len ≤ x.byteSize)
    (fault : s.errors.fault = false) : s.writeRefusal p h off len len = none := by
  simp [State.writeRefusal_resolved hr, owner, defined, idle, Nat.not_lt.mpr fits, fault]

/-- WRITE SURFACE accepted stores its data and answers OK, or PAGE_BAD with the count of discarded bytes. -/
theorem writeSurface_accepted {mark data : List Byte} {u : State}
    (fields : handleAt f.payload 0 = h ∧ u32 f.payload 2 = off ∧ u16 f.payload 6 = data.length
      ∧ (f.payload.drop 8).take 8 = mark ∧ f.payload.drop 16 = data)
    (hr : u.resolve h = some x) (ok : u.writeRefusal p h off data.length data.length = none) :
    let r := writePages u.errors.bad off data 0 x.pages u.frame
    writeSurface p f u = State.complete p f (if r.2 = 0 then .ok else .pageBad)
      (.written mark (if r.2 = 0 then none else some r.2)) { u with frame := r.1 } := by
  obtain ⟨fh, fo, fc, fm, fd⟩ := fields
  simp only [writeSurface, fh, fo, fc, fm, fd, ok, hr, State.writeSurface, Option.map_some, Option.getD_some]
  split <;> rfl

/-- Settles O33: the write path is followed byte by byte, from the page list to frame memory. -/
theorem writeSurfaceStores : Obligations.WriteSurfaceStores := by
  intro s p f rest idx g off mark data x takes hi ho hm payload hr owner defined idle fits covered nodup fault page addr d
  have count : data.length < 65536 := by
    have len := Frame.fits_of_cmd? takes.head.command
    simp [Cmd.fits, payload, b8, b16, b32] at len
    omega
  have fields := writeSurface_fields hi ho count hm g data
  rw [← payload] at fields
  have free : s.slotBusy x = false := by
    refine Bool.eq_false_iff.mpr fun busy => ?_
    obtain ⟨i, k, y, attached, slot, full⟩ := State.slotBusy_iff.mp busy
    exact full (idle i k y attached slot)
  have ok := State.writeRefusal_eq_none hr owner defined free fits fault
  have entry {k : Nat} (hk : k < data.length) : x.pages[(off + k) / 4096]? = some (page k) := by
    have : (off + k) / 4096 < x.pages.length := by omega
    simp [page, this]
  have counted : (writePages s.errors.bad off data 0 x.pages s.frame).2 = d := by
    rw [writePages_discarded]
    refine (List.countP_congr fun k hk => ?_).trans List.countP_eq_length_filter
    rw [discards, Nat.sub_zero, entry (List.mem_range.mp hk)]
    simp
  have taken := takes.completes (writeSurface_accepted (u := s.dequeued p rest) fields hr ok) rfl
  simp only [State.dequeued_errors, State.dequeued_frame, counted] at taken
  refine ⟨_, congrArg Host.Outcome.next taken, rfl, fun k hk good => ?_, fun a other => ?_⟩
  · have place : addr k = page k * 4096 + (off + k) % 4096 := rfl
    have stored := read_writePages_of_written (bs := data) (off := off) (x := addr k) 0 s.frame nodup (entry hk) good
      (by omega) (by omega) (by omega)
    rw [show (0 + (off + k) / 4096) * 4096 + addr k % 4096 - off = k by omega] at stored
    exact stored
  · refine read_writePages_of_unwritten x.pages 0 s.frame fun e pg he good ha range => ?_
    obtain ⟨k, hk⟩ : ∃ k, e * 4096 + a % 4096 = off + k := ⟨e * 4096 + a % 4096 - off, by omega⟩
    have here : page k = pg := by simp [page, ← hk, show (e * 4096 + a % 4096) / 4096 = e by omega, he]
    have place : addr k = page k * 4096 + (off + k) % 4096 := rfl
    exact other k (by omega) (here ▸ good) (by omega)

end Sys2Proof.Machine
end

section
/-! SUPPORT. The arithmetic of a pixel (chapter 3): the scaling of R57 and its laws, the expansion of a sample from its
bytes, the filters, and what a record leaves of a line pixel. -/

namespace Sys2Proof.Machine

variable {s : State} {fs : List Fetched} {c : Cover}

/-! ## mul255 (R57) -/

/-- The formula of R57 gives the nearest integer to `x * y / 255`, for every product up to 65,025. -/
theorem mul255_nearest {x y : Nat} (h : x * y ≤ 65025) :
    x * y ≤ 255 * mul255 x y + 127 ∧ 255 * mul255 x y ≤ x * y + 127 := by
  unfold mul255
  generalize x * y = n at h
  omega

theorem mul255_le {x y : Nat} (h : x * y ≤ 65025) : mul255 x y ≤ 255 := by
  have := (mul255_nearest h).2
  omega

theorem mul255_255 {x : Nat} (hx : x ≤ 255) : mul255 x 255 = x := by unfold mul255; omega

theorem mul255_zero (x : Nat) : mul255 x 0 = 0 := by simp [mul255]

theorem mul255_comm (x y : Nat) : mul255 x y = mul255 y x := by unfold mul255; rw [Nat.mul_comm]

/-! ## Expansion (R58 to R61) -/

/-- An RGB565 word widens its three fields (R59). -/
theorem expand565_fields {r g b : Nat} (hr : r ≤ 31) (hg : g ≤ 63) (hb : b ≤ 31) :
    expand565 (r * 2048 + g * 32 + b) = ⟨255, r * 8 + r / 4, g * 4 + g / 16, b * 8 + b / 4⟩ := by
  have red : (r * 2048 + g * 32 + b) / 2048 % 32 = r := by omega
  have green : (r * 2048 + g * 32 + b) / 32 % 64 = g := by omega
  have blue : (r * 2048 + g * 32 + b) % 32 = b := by omega
  simp only [expand565, red, green, blue]

theorem fdiv_256 (n : Int) : Int.fdiv n 256 = n / 256 := Int.fdiv_eq_ediv_of_nonneg n (by decide)

/-- A YC420 sample, with the division of R61 rounding toward minus infinity. -/
theorem expandYC_eq (y cb cr : Nat) :
    let luma : Int := 298 * ((y : Int) - 16)
    expandYC y cb cr = ⟨255, clamp255 ((luma + 409 * ((cr : Int) - 128) + 128) / 256),
      clamp255 ((luma - 100 * ((cb : Int) - 128) - 208 * ((cr : Int) - 128) + 128) / 256),
      clamp255 ((luma + 516 * ((cb : Int) - 128) + 128) / 256)⟩ := by
  simp only [expandYC, fdiv_256]

/-! ## Samples (R10, R62, R63) -/

/-- A sample is substituted where a burst of it was read so, or is not read yet and lies in a bad page (R62, R63). -/
theorem State.sampleDamaged_iff (x y : Nat) : s.sampleDamaged fs c x y = true ↔ ∃ off ∈ c.src.offsets x y,
    (∃ f, readOf fs c.id y (c.src.burst off) = some f ∧ f.data = none)
      ∨ (readOf fs c.id y (c.src.burst off) = none ∧ c.src.page off ∈ s.errors.bad) := by
  simp only [State.sampleDamaged, List.any_eq_true]
  refine exists_congr fun off => and_congr_right fun _ => ?_
  cases readOf fs c.id y (c.src.burst off) <;> simp [State.isBad]

theorem State.sampleAt_damaged {x y : Nat} (h : s.sampleDamaged fs c x y = true) :
    s.sampleAt fs c x y = Sample.opaque s.startUp.damageColour := if_pos h

theorem State.sampleAt_good {x y : Nat} (h : ¬ s.sampleDamaged fs c x y = true) :
    s.sampleAt fs c x y = expandBytes c.src.format c.copy.fill ((c.src.offsets x y).map (s.sourceByte fs c y)) := if_neg h

theorem u8_map {g : Nat → Byte} {k : Nat} (offs : List Nat) (h : k < offs.length) :
    u8 (offs.map g) k = (g (offs.getD k 0)).toNat := by
  simp [u8, h]

/-- A byte of a burst lies at its offset in the burst, also counted from the page (R150). -/
theorem mod_page_mod_burst (off : Nat) : off % 4096 % burstBytes = off % 32 := Nat.mod_mod_of_dvd off (by decide)

/-! ## Filters (R53 to R56) -/

section
variable {i : Nat}

theorem State.layerPixel_transparent (h : c.copy.crop.cw ≤ i * c.src.sx / 65536) : s.layerPixel fs c i = none := if_pos h

variable (h : i * c.src.sx / 65536 < c.copy.crop.cw)
include h

theorem State.layerPixel_nearest (hf : c.copy.filter = .nearest) : s.layerPixel fs c i =
    some (s.sampleAt fs c (c.copy.crop.cx + i * c.src.sx / 65536) (c.copy.crop.cy + c.q)) := by
  simp only [State.layerPixel, Nat.not_le.mpr h, if_false, hf, Cover.rows]

theorem State.layerPixel_bilinear (hf : c.copy.filter = .bilinear) : s.layerPixel fs c i =
    some ((s.rowSample fs c (i * c.src.sx) (c.copy.crop.cy + c.q)).mix c.g
      (s.rowSample fs c (i * c.src.sx) (c.copy.crop.cy + min (c.q + 1) (c.copy.crop.ch - 1)))) := by
  simp only [State.layerPixel, Nat.not_le.mpr h, if_false, hf, Cover.rows]

end

/-! ## The blend (R56, R65, R66) -/

section
variable {x : Nat} {dst : Rgb}

theorem State.applyCover_pixel {pix : Sample} (left : c.copy.dx ≤ x) (lo : c.i0 ≤ ((x : Int) - c.copy.dx).toNat)
    (hi : ((x : Int) - c.copy.dx).toNat ≤ c.i1) (pixel : s.layerPixel fs c ((x : Int) - c.copy.dx).toNat = some pix) :
    s.applyCover fs x dst c = dst.under (pix.map (fun k => mul255 k c.copy.alpha)) := by
  simp only [State.applyCover, left, lo, hi, and_self, if_true, pixel]

theorem State.applyCover_uncovered (outside : (x : Int) < c.copy.dx ∨ ((x : Int) - c.copy.dx).toNat < c.i0
      ∨ c.i1 < ((x : Int) - c.copy.dx).toNat) : s.applyCover fs x dst c = dst := if_neg (by omega)

theorem State.applyCover_transparent (pixel : s.layerPixel fs c ((x : Int) - c.copy.dx).toNat = none) :
    s.applyCover fs x dst c = dst := by
  simp only [State.applyCover, pixel, ite_self]

end

/-- Settles O46: the scaling by arithmetic, the samples format by format, the filters and the blend by their cases. -/
theorem pixelArithmetic : Obligations.PixelArithmetic := by
  refine ⟨fun x y hx hy => ?_, fun fill a => rfl, ?_, fun r g b hr hg hb => ?_, by decide, by decide, by decide, ?_, ?_, ?_⟩
  · have h : x * y ≤ 65025 := Nat.mul_le_mul hx hy
    exact ⟨rfl, (mul255_nearest h).1, (mul255_nearest h).2, mul255_le h, mul255_255 hx, mul255_zero x, mul255_comm x y⟩
  · intro s fs x dst c pix i left lo hi pixel g blend
    exact State.applyCover_pixel left lo hi pixel
  · exact ⟨expand565_fields hr hg hb, by omega, by omega, by omega⟩
  · intro s fs c x y page burst n plane chroma places byte lost at' limit luma cb cr word fill damage
    have offsets : c.src.offsets x y = places := by
      simp only [ResolvedSource.offsets, places]
      cases c.src.format <;> simp [n, plane, chroma, Nat.mul_comm]
    have bytes (off : Nat) : (s.sourceByte fs c y off).toNat = byte off := by
      simp only [State.sourceByte, mod_page_mod_burst]
      rfl
    have damaged : s.sampleDamaged fs c x y = true ↔ lost := by
      rw [State.sampleDamaged_iff, offsets]
      rfl
    refine ⟨fun h => State.sampleAt_damaged (damaged.mpr h), fun h => ?_⟩
    rw [State.sampleAt_good (mt damaged.mp h), offsets]
    have read {k : Nat} (hk : k < places.length) : u8 (places.map (s.sourceByte fs c y)) k = at' k :=
      (u8_map _ hk).trans (bytes _)
    cases hf : c.src.format with
    | pa8888 =>
      have len : places.length = 4 := by simp only [places, hf]; rfl
      simp only [expandBytes, read (k := 0) (by omega), read (k := 1) (by omega),
        read (k := 2) (by omega), read (k := 3) (by omega)]
    | rgb565 =>
      have len : places.length = 2 := by simp only [places, hf]; rfl
      simp only [expandBytes, u16, read (k := 0) (by omega), read (k := 0 + 1) (by omega)]
      rfl
    | a8 =>
      have len : places.length = 1 := by simp only [places, hf]; rfl
      simp only [expandBytes, read (k := 0) (by omega)]
      rfl
    | yc420 =>
      have len : places.length = 3 := by simp only [places, hf]; rfl
      simp only [expandBytes, read (k := 0) (by omega), read (k := 1) (by omega),
        read (k := 2) (by omega), expandYC_eq]
      rfl
  · intro s fs c i crop u p f sample mix across
    exact ⟨State.layerPixel_transparent, State.layerPixel_nearest, State.layerPixel_bilinear⟩
  · intro s fs x dst c i uncovered
    rcases uncovered with h | h | h | h
    · exact State.applyCover_uncovered (.inl h)
    · exact State.applyCover_uncovered (.inr (.inl h))
    · exact State.applyCover_uncovered (.inr (.inr h))
    · exact State.applyCover_transparent h

end Sys2Proof.Machine
end

section
/-! SUPPORT. Pending copies and the posters they name (R29, R33, R36, R114): records that lose no more than a source, changes of
surfaces, layer records and posters only, what an unpinned poster becomes, and what replacing a pending copy unnames. -/

namespace Sys2Proof.Machine

variable {s t u : State} {p : Port} {f : Frame} {rest : List Frame} {h : Handle} {x : Surface} {i id : Nat}
  {r : LayerRecord} {c : LayerCopy}

/-! ## Copies that lose a source (R29) -/

theorem LayerCopy.agrees_refl (c : LayerCopy) : c.agrees c := .inl rfl

theorem LayerCopy.agrees_forget (c : LayerCopy) (h : Handle) : c.agrees (c.forget h) := by
  unfold LayerCopy.forget
  split
  · exact .inr rfl
  · exact .inl rfl

theorem LayerCopy.agrees.trans {a b c : LayerCopy} (h : a.agrees b) (k : b.agrees c) : a.agrees c := by
  rcases h with rfl | rfl <;> rcases k with rfl | rfl
  · exact .inl rfl
  · exact .inr rfl
  · exact .inr rfl
  · exact .inr rfl

/-- A source that R29 takes changes no output. -/
theorem LayerCopy.agrees.output {a b : LayerCopy} (h : a.agrees b) : b.output = a.output := by
  rcases h with rfl | rfl <;> rfl

/-- Whether both copies of two records agree. -/
def LayerRecord.agrees (r q : LayerRecord) : Prop := r.active.agrees q.active ∧ r.pending.agrees q.pending

/-- Whether the layer records of a state are those of a list, but for sources that R29 has set to none. -/
def State.LayersFrom (ls : List LayerRecord) (t : State) : Prop := List.Forall₂ LayerRecord.agrees ls t.layers

theorem State.layersFrom_self (s : State) : State.LayersFrom s.layers s :=
  List.forall₂_same.mpr fun r _ => ⟨r.active.agrees_refl, r.pending.agrees_refl⟩

theorem State.LayersFrom.forget {ls : List LayerRecord} (k : State.LayersFrom ls s) (h : Handle) :
    List.Forall₂ LayerRecord.agrees ls (s.layers.map (fun r => r.forget h)) :=
  List.forall₂_map_right_iff.mpr (k.imp fun _ _ a =>
    ⟨a.1.trans (LayerCopy.agrees_forget _ h), a.2.trans (LayerCopy.agrees_forget _ h)⟩)

/-- Of the common changes only a surface that becomes FREE touches the layer records. -/
theorem layersFrom_stable (ls : List LayerRecord) : Stable (State.LayersFrom ls) where
  startUp _ _ k := k
  ports _ _ k := k
  outputs _ _ k := k
  streams _ _ k := k
  cache _ _ k := k
  arbiter _ _ k := k
  freeCount _ _ k := k
  counters _ _ _ k := k
  surface _ _ _ _ k := k
  free s i k := by
    unfold State.becomeFree
    split
    · split
      · exact k
      · exact k.forget _
    · exact k
  allocate _ _ _ _ _ _ _ _ _ _ _ _ k := k

theorem State.LayersFrom.length {ls : List LayerRecord} (k : State.LayersFrom ls t) : t.layers.length = ls.length :=
  (List.Forall₂.length_eq k).symm

/-- Each record agrees with the one it stems from. -/
theorem State.LayersFrom.getElem? {ls : List LayerRecord} (k : State.LayersFrom ls t) {j : Nat} {q : LayerRecord}
    (e : ls[j]? = some q) : ∃ q', t.layers[j]? = some q' ∧ q.agrees q' := by
  obtain ⟨lt, rfl⟩ := List.getElem?_eq_some_iff.mp e
  have lt' : j < t.layers.length := k.length ▸ lt
  exact ⟨t.layers[j], List.getElem?_eq_getElem lt', List.Forall₂.get k lt lt'⟩

/-! ## Changes of surfaces, layers and posters only -/

/-- Whether nothing differs but the surface manager, the layer records and the poster cache. -/
def State.CuratedTo (s t : State) : Prop := ∃ m ls c, t = { s with surfaces := m, layers := ls, cache := c }

theorem State.curatedTo_refl (s : State) : s.CuratedTo s := ⟨_, _, _, rfl⟩

theorem State.CuratedTo.trans (a : s.CuratedTo t) (b : t.CuratedTo u) : s.CuratedTo u := by
  obtain ⟨_, _, _, rfl⟩ := a
  obtain ⟨_, _, _, rfl⟩ := b
  exact ⟨_, _, _, rfl⟩

theorem State.CuratedTo.ports (a : s.CuratedTo t) : t.ports = s.ports := by obtain ⟨_, _, _, rfl⟩ := a; rfl
theorem State.CuratedTo.streams (a : s.CuratedTo t) : t.streams = s.streams := by obtain ⟨_, _, _, rfl⟩ := a; rfl

theorem State.becomeFree_curated (i : Nat) (s : State) : s.CuratedTo (s.becomeFree i) := by
  unfold State.becomeFree
  split
  · split
    · exact s.curatedTo_refl
    · exact ⟨_, _, _, rfl⟩
  · exact s.curatedTo_refl

theorem State.retireOrFree_curated (i : Nat) (s : State) : s.CuratedTo (s.retireOrFree i) := by
  unfold State.retireOrFree
  split
  · exact ⟨_, _, _, rfl⟩
  · exact s.becomeFree_curated i

theorem State.freePoster_curated (i : Nat) (s : State) : s.CuratedTo (s.freePoster i) := by
  unfold State.freePoster
  split
  · split
    · exact s.curatedTo_refl
    · split
      · exact s.becomeFree_curated i
      · exact s.retireOrFree_curated i
      · exact s.curatedTo_refl
  · exact s.curatedTo_refl

theorem State.unpinEvent_curated (i : Nat) (s : State) : s.CuratedTo (s.unpinEvent i) := by
  unfold State.unpinEvent
  split
  · exact s.curatedTo_refl
  · split
    · split
      · split
        · exact s.curatedTo_refl
        · exact ⟨_, _, _, rfl⟩
      · split
        · exact State.CuratedTo.trans ⟨_, _, _, rfl⟩ (State.freePoster_curated i _)
        · exact s.curatedTo_refl
    · exact s.curatedTo_refl

theorem State.reportUnnamed_curated (before s : State) : s.CuratedTo (State.reportUnnamed before s) :=
  foldl_keeps (P := s.CuratedTo) (fun t i ht => ht.trans (t.unpinEvent_curated i)) _ s.curatedTo_refl

theorem State.writePending_curated (id : Nat) (c : LayerCopy) (s : State) : s.CuratedTo (s.writePending id c) :=
  State.CuratedTo.trans ⟨_, _, _, rfl⟩ (State.reportUnnamed_curated s _)

/-! ## Giving a poster back (R18, R20) -/

theorem State.drawn_iff : s.inHoldSets i = true ↔ s.drawn i := s.inHoldSets_iff i

/-- A surface is held where a hold set names it or a stream holds it (R7). -/
theorem State.held_iff_drawn (hr : s.resolve h = some x) :
    s.held h.index = true ↔ s.drawn h.index ∨ x.attached ≠ none := by
  rw [State.held, State.surfaceAt_of_resolve hr, ← State.drawn_iff]
  simp [Option.isSome_iff_ne_none]

theorem SurfaceManager.release_eq_without (m : SurfaceManager) (i : Nat) (g : Byte) (x : Surface) (bad : List Nat) :
    m.release i g x bad = m.without i g x bad := by
  unfold SurfaceManager.release SurfaceManager.without
  cases x.owner <;> rfl

/-- A free taken for the surface of a handle: RETIRING while it is held, FREE otherwise (R20). -/
theorem State.retireOrFree_givenBack (hr : s.resolve h = some x) (hk : x.kind ≠ .fallback) :
    s.GivenBack (s.retireOrFree h.index) h.index h.gen x := by
  constructor
  · intro held
    rw [State.retireOrFree, if_pos ((State.held_iff_drawn hr).mpr held), State.modSurface_of_resolve hr]
    exact ⟨rfl, rfl⟩
  · intro drawn attached
    have unheld : ¬ s.held h.index = true := fun e => by
      rcases (State.held_iff_drawn hr).mp e with d | a
      · exact drawn d
      · exact a attached
    rw [State.retireOrFree, if_neg unheld, State.becomeFree_of_resolve hr hk]
    exact ⟨SurfaceManager.release_eq_without .., rfl⟩

theorem State.freePoster_resident (hr : s.resolve h = some x) (hk : x.kind = .poster) (hs : x.state = .resident) :
    s.freePoster h.index = s.retireOrFree h.index := by
  simp [State.freePoster, State.surfaceAt_of_resolve hr, hk, hs]

/-- Neither way of giving a surface back touches the poster cache. -/
theorem State.retireOrFree_cache (i : Nat) (s : State) : (s.retireOrFree i).cache = s.cache := by
  unfold State.retireOrFree State.becomeFree
  split
  · rfl
  · split
    · split <;> rfl
    · rfl

/-! ## Unpinning (R36, R114, R115) -/

/-- A surface is named by layers where a copy of a record names its handle (R36). -/
theorem State.namedByLayers_iff (hr : s.resolve h = some x) :
    s.namedByLayers h.index = true ↔ namesHandle s.layers h := by
  simp only [State.namedByLayers, List.any_eq_true, Bool.or_eq_true, State.copyNames_iff hr, namesHandle]
  refine exists_congr fun r => and_congr_right fun _ => ?_
  constructor
  · rintro (e | e)
    · exact ⟨_, .inl rfl, e⟩
    · exact ⟨_, .inr rfl, e⟩
  · rintro ⟨c, rfl | rfl, e⟩
    · exact .inl e
    · exact .inr e

/-- A surface is pinned where a port counts on it or a copy names it (R114). -/
theorem State.pinned_iff (hr : s.resolve h = some x) :
    s.pinned h.index = true ↔ x.refs.a ≠ 0 ∨ x.refs.b ≠ 0 ∨ namesHandle s.layers h := by
  rw [State.pinned, Bool.or_eq_true, State.namedByLayers_iff hr, State.referenced, State.surfaceAt_of_resolve hr]
  simp [Nat.pos_iff_ne_zero, or_assoc]

theorem State.unpinEvent_pinned (hp : s.pinned i = true) : s.unpinEvent i = s := by
  simp [State.unpinEvent, hp]

theorem State.inMap_iff : s.inMap i = true ↔ ∃ m ∈ s.cache.map, m.surface = i := by
  simp [State.inMap]

/-- What the poster cache does at an event that leaves a poster unpinned, by the state of the surface (R114). -/
theorem State.unpinEvent_of_resolve (hr : s.resolve h = some x) (hk : x.kind = .poster)
    (hp : s.pinned h.index = false) : s.unpinEvent h.index =
      if x.state = .resident then
        if s.inMap h.index then (if s.inHoldSets h.index then s else s.joinIdle h.index)
        else if h.index ∈ s.cache.stale then
          (s.modCache (fun c => { c with stale := c.stale.erase h.index })).freePoster h.index
        else s
      else s := by
  have poster : s.isPoster h.index = true := by simp [State.isPoster, State.surfaceAt_of_resolve hr, hk]
  have state : s.surfaceStateOf h.index = some x.state := by simp [State.surfaceStateOf, State.surfaceAt_of_resolve hr]
  rw [State.unpinEvent, poster, state, hp]
  cases x.state <;> simp

/-- A poster that an event leaves unpinned is treated as R114 says. -/
theorem State.unpinEvent_unpinned (hr : s.resolve h = some x) (hk : x.kind = .poster) (hp : s.pinned h.index = false) :
    s.Unpinned (s.unpinEvent h.index) h x := by
  rw [State.unpinEvent_of_resolve hr hk hp]
  refine ⟨fun res inMap drawn idle => ?_, fun res inMap stale => ?_, fun stays => ?_⟩
  · rw [if_pos res, if_pos (State.inMap_iff.mpr inMap), if_neg (mt State.drawn_iff.mp drawn)]
    exact ⟨⟨rfl, rfl⟩, by simp [State.joinIdle, idle]⟩
  · rw [if_pos res, if_neg (mt State.inMap_iff.mp inMap), if_pos stale]
    have hr' : (s.modCache (fun c => { c with stale := c.stale.erase h.index })).resolve h = some x := hr
    rw [State.freePoster_resident hr' hk res]
    refine ⟨State.retireOrFree_givenBack hr' (by simp [hk]), ?_⟩
    exact State.retireOrFree_cache h.index _
  · by_cases res : x.state = .resident
    · rcases stays with ne | ⟨inMap, held⟩ | ⟨inMap, stale⟩
      · exact absurd res ne
      · rw [if_pos res, if_pos (State.inMap_iff.mpr inMap)]
        by_cases drawn : s.drawn h.index
        · rw [if_pos (State.drawn_iff.mpr drawn)]
          exact ⟨⟨rfl, rfl⟩, rfl⟩
        · rw [if_neg (mt State.drawn_iff.mp drawn)]
          exact ⟨⟨rfl, rfl⟩, by simp [State.joinIdle, held.resolve_left drawn]⟩
      · rw [if_pos res, if_neg (mt State.inMap_iff.mp inMap), if_neg stale]
        exact ⟨⟨rfl, rfl⟩, rfl⟩
    · rw [if_neg res]
      exact ⟨⟨rfl, rfl⟩, rfl⟩

/-! ## The poster a changed pending copy unnames (R36) -/

/-- The records with the pending copy of one replaced. -/
theorem setPending_of_getElem? {ls : List LayerRecord} (hl : ls[id]? = some r) (c : LayerCopy) :
    setPending ls id c = ls.set id { r with pending := c } := by
  simp only [setPending, hl]

/-- The state in which only the pending copy of record `id`, which is `r`, is replaced by `c`. -/
abbrev State.withPending (s : State) (id : Nat) (r : LayerRecord) (c : LayerCopy) : State :=
  { s with layers := s.layers.set id { r with pending := c } }

/-- A copy that names a surface before the change and not after it is the old pending copy. -/
theorem names_of_set {names : LayerCopy → Prop} {ls : List LayerRecord} (hl : ls[id]? = some r) {c : LayerCopy}
    (before : ∃ q ∈ ls, names q.active ∨ names q.pending)
    (after : ¬ ∃ q ∈ ls.set id { r with pending := c }, names q.active ∨ names q.pending) : names r.pending := by
  obtain ⟨lt, rfl⟩ := List.getElem?_eq_some_iff.mp hl
  obtain ⟨q, mem, named⟩ := before
  obtain ⟨j, hj, rfl⟩ := List.getElem_of_mem mem
  by_cases e : id = j
  · subst e
    refine named.resolve_left fun active => after ⟨_, List.mem_set lt _, .inl active⟩
  · exact absurd ⟨_, List.getElem_mem (by simpa using hj), by simpa [List.getElem_set, e] using named⟩ after

/-- The surface that a copy names is the one its source handle resolves to (R29). -/
theorem State.copyNames_source (e : s.copyNames c i = true) :
    ∃ h x, c.output ≠ none ∧ c.source = .surface h ∧ s.resolve h = some x ∧ h.index = i := by
  unfold State.copyNames at e
  split at e
  · next o h ho hs =>
    obtain ⟨hi, hx⟩ := Bool.and_eq_true_iff.mp e
    obtain ⟨x, hx⟩ := Option.isSome_iff_exists.mp hx
    exact ⟨h, x, by simp [ho], hs, hx, eq_of_beq hi⟩
  · cases e

theorem mem_unnamedBetween : i ∈ unnamedBetween s t ↔ i < 160 ∧ s.isPoster i = true ∧ s.namedByLayers i = true
    ∧ t.isPoster i = true ∧ t.namedByLayers i = false := by
  simp [unnamedBetween, surfaceIndices, Config.surfaceEntries, and_assoc]

section
variable (hl : s.layers[id]? = some r)
include hl

/-- Only the surface of the old pending copy can be unnamed (R36). -/
theorem source_of_unnamed
    (mem : i ∈ unnamedBetween s (s.withPending id r c)) :
    ∃ h x, r.pending.output ≠ none ∧ r.pending.source = .surface h ∧ s.resolve h = some x ∧ x.kind = .poster
      ∧ h.index = i := by
  obtain ⟨-, poster, before, -, after⟩ := mem_unnamedBetween.mp mem
  have names : s.copyNames r.pending i = true :=
    names_of_set (names := fun c => s.copyNames c i = true) hl
      (by simpa [State.namedByLayers, List.any_eq_true] using before)
      (by simpa [State.namedByLayers, List.any_eq_false, State.copyNames, State.resolve] using after)
  obtain ⟨h, x, output, source, hr, rfl⟩ := State.copyNames_source names
  exact ⟨h, x, output, source, hr, by simpa [State.isPoster, State.surfaceAt_of_resolve hr] using poster, rfl⟩

/-- The surface of the old pending copy is unnamed where that copy named an output and no copy names the handle now. -/
theorem mem_unnamed_iff (hs : r.pending.source = .surface h) (hr : s.resolve h = some x) (hk : x.kind = .poster)
    (lt : h.index < 160) :
    h.index ∈ unnamedBetween s (s.withPending id r c)
      ↔ r.pending.output ≠ none ∧ ¬ namesHandle (s.layers.set id { r with pending := c }) h := by
  have hr' : (s.withPending id r c).resolve h = some x := hr
  have poster : s.isPoster h.index = true := by simp [State.isPoster, State.surfaceAt_of_resolve hr, hk]
  constructor
  · intro mem
    obtain ⟨-, -, output, -⟩ := source_of_unnamed hl mem
    obtain ⟨-, -, -, -, after⟩ := mem_unnamedBetween.mp mem
    exact ⟨output, fun named => by simp [(State.namedByLayers_iff hr').mpr named] at after⟩
  · rintro ⟨output, after⟩
    exact mem_unnamedBetween.mpr ⟨lt, poster,
      (State.namedByLayers_iff hr).mpr ⟨r, List.mem_of_getElem? hl, _, .inr rfl, output, hs⟩, poster,
      Bool.eq_false_iff.mpr fun named => after ((State.namedByLayers_iff hr').mp named)⟩

end

/-- The reports of a change that can unname no more than one surface (R36). -/
theorem State.reportUnnamed_of_unique (unique : ∀ j ∈ unnamedBetween s t, j = i) :
    State.reportUnnamed s t = if i ∈ unnamedBetween s t then t.unpinEvent i else t := by
  have nodup : (unnamedBetween s t).Nodup := List.nodup_range.filter _
  unfold State.reportUnnamed
  rw [List.eq_replicate_of_mem unique] at nodup ⊢
  have le := List.nodup_replicate.mp nodup
  interval_cases (unnamedBetween s t).length <;> simp

/-- What an event that replaces the pending copy of record `id`, which was that of `r`, by `c` leaves of the surfaces, the layer
records and the poster cache, from `s` to `t` (R33, R34, R36): the shared part of SET LAYER and CLEAR LAYER. -/
structure State.PendingReplaced (s t : State) (id : Nat) (r : LayerRecord) (c : LayerCopy) : Prop where
  named : (∀ h x, r.pending.source = .surface h → s.resolve h = some x → x.kind ≠ .poster) →
    t.surfaces = s.surfaces ∧ t.cache = s.cache ∧ t.layers = s.layers.set id { r with pending := c }
  renamed : s.Renamed t id r c
  length : t.layers.length = s.layers.length
  copies : ∀ (j : Nat) (q : LayerRecord), s.layers[j]? = some q → ∃ q', t.layers[j]? = some q'
    ∧ q.active.agrees q'.active ∧ (if j = id then c else q.pending).agrees q'.pending

section
variable (hl : s.layers[id]? = some r)
include hl

theorem State.writePending_eq : s.writePending id c = State.reportUnnamed s (s.withPending id r c) := by
  rw [State.writePending, setPending_of_getElem? hl]

theorem State.writePending_layersFrom :
    State.LayersFrom (s.layers.set id { r with pending := c }) (s.writePending id c) := by
  rw [State.writePending_eq hl]
  exact (layersFrom_stable _).reportUnnamed s (s.withPending id r c).layersFrom_self

/-- The event of a pending copy whose source is a poster (R36). -/
theorem State.writePending_of_source (hs : r.pending.source = .surface h) : s.writePending id c =
    if h.index ∈ unnamedBetween s (s.withPending id r c) then (s.withPending id r c).unpinEvent h.index
    else s.withPending id r c := by
  rw [State.writePending_eq hl]
  refine State.reportUnnamed_of_unique fun j mem => ?_
  obtain ⟨h', -, -, hs', -, -, rfl⟩ := source_of_unnamed hl mem
  rw [hs] at hs'
  cases hs'
  rfl

theorem State.writePending_renamed : s.Renamed (s.writePending id c) id r c := by
  intro h x hs hr hk lt unnamed
  have mem := mem_unnamed_iff (c := c) hl hs hr hk lt
  have hr' : (s.withPending id r c).resolve h = some x := hr
  rw [State.writePending_of_source hl hs]
  constructor
  · rintro ⟨output, after, refA, refB⟩
    rw [if_pos (mem.mpr ⟨output, after⟩)]
    refine State.unpinEvent_unpinned hr' hk (Bool.eq_false_iff.mpr fun pinned => ?_)
    rcases (State.pinned_iff hr').mp pinned with a | b | named
    · exact a refA
    · exact b refB
    · exact after named
  · intro still
    split
    · next unnamed =>
      obtain ⟨output, after⟩ := mem.mp unnamed
      have pinned : (s.withPending id r c).pinned h.index = true := (State.pinned_iff hr').mpr (by
        by_contra! free
        exact still ⟨output, after, free.1, free.2.1⟩)
      rw [State.unpinEvent_pinned pinned]
      exact ⟨rfl, rfl, rfl⟩
    · exact ⟨rfl, rfl, rfl⟩

/-- What SET LAYER and CLEAR LAYER do to the surfaces, the layer records and the poster cache. -/
theorem State.writePending_replaced : s.PendingReplaced (s.writePending id c) id r c where
  named plain := by
    have none : unnamedBetween s (s.withPending id r c) = [] :=
      List.eq_nil_iff_forall_not_mem.mpr fun i mem => by
        obtain ⟨h, x, -, source, hr, poster, -⟩ := source_of_unnamed hl mem
        exact plain h x source hr poster
    rw [State.writePending_eq hl, State.reportUnnamed, none]
    exact ⟨rfl, rfl, rfl⟩
  renamed := State.writePending_renamed hl
  length := (State.writePending_layersFrom hl).length.trans (List.length_set ..)
  copies j q hq := by
    have old : (s.layers.set id { r with pending := c })[j]? =
        some { q with pending := if j = id then c else q.pending } := by
      by_cases e : j = id
      · subst e
        obtain rfl : r = q := by simpa [hl] using hq
        obtain ⟨lt, -⟩ := List.getElem?_eq_some_iff.mp hl
        simp [lt]
      · simp [e, Ne.symm e, hq]
    exact (State.writePending_layersFrom hl).getElem? old

end

end Sys2Proof.Machine
end

section
/-! SUPPORT. SET LAYER, CLEAR LAYER and LATCH by their owning block (R30 to R34, R37): the fields of a payload, what each check
refuses, and the states of the accepted ones. -/

namespace Sys2Proof.Machine

variable {s u : State} {p : Port} {f : Frame} {rest : List Frame} {h : Handle} {x : Surface} {id : Nat}
  {r : LayerRecord} {c : LayerCopy} {src : Source}

/-! ## The fields of a SET LAYER payload (Table 10-10) -/

/-- The output a byte gives: 0xFF is none (Table 10-9). -/
def outputField : Nat → Option (Option OutputId)
  | 0xFF => some none
  | n => (outputOfCode n).map some

/-- The value a byte of two values gives (Table 10-9). -/
def flagField {α : Type} (zero one : α) : Nat → Option α
  | 0 => some zero
  | 1 => some one
  | _ => none

/-- The source the bytes of a payload give, with the number of a stream source (R31). -/
def sourceField (b : List Byte) : Option (Source × Option Nat) :=
  match u8 b 3 with
  | 0 => some (.none, none)
  | 1 => some (.surface (handleAt b 4), none)
  | 2 => some ((match streamOfCode (u8 b 4) with | some i => .stream i | none => .none), some (u8 b 4))
  | _ => none

theorem outputField_eq (n : Nat) : outputField n =
    if n = 0xFF ∨ n ≤ 1 then some (if n = 0 then some .o0 else if n = 1 then some .o1 else none) else none := by
  unfold outputField outputOfCode
  split
  · rfl
  · split <;> simp_all
    omega

theorem flagField_eq {α : Type} (zero one : α) (n : Nat) :
    flagField zero one n = if n ≤ 1 then some (if n = 0 then zero else one) else none := by
  unfold flagField
  split <;> simp_all
  omega

theorem le_of_flagField {α : Type} {zero one v : α} {n : Nat} (e : flagField zero one n = some v) : n ≤ 1 := by
  by_contra out
  simp [flagField_eq, out] at e

theorem le_of_outputField {n : Nat} {v : Option OutputId} (e : outputField n = some v) : n = 0xFF ∨ n ≤ 1 := by
  by_contra out
  simp [outputField_eq, out] at e

theorem le_of_sourceField {b : List Byte} {v : Source × Option Nat} (e : sourceField b = some v) : u8 b 3 ≤ 2 := by
  unfold sourceField at e
  split at e
  · omega
  · omega
  · omega
  · cases e

/-- The number that stands with a source: that of a stream (R31). -/
def Source.streamNumber : Source → Option Nat
  | .stream i => some (streamNum i)
  | _ => Option.none

theorem LayerSource.sourceField_eq {b : List Byte} (hs : LayerSource b src) :
    sourceField b = some (src, src.streamNumber) := by
  cases hs with
  | none e => simp [sourceField, e, Source.streamNumber]
  | surface e => simp [sourceField, e, Source.streamNumber, handleAt]
  | stream i e k => cases i <;> simp [sourceField, e, k, streamOfCode, streamNum, Source.streamNumber]

theorem sourceField_stream {b : List Byte} (kind : u8 b 3 = 2) :
    ∃ src, sourceField b = some (src, some (u8 b 4)) := by
  simp [sourceField, kind]

theorem sourceField_of_le {b : List Byte} (le : u8 b 3 ≤ 2) : ∃ src n, sourceField b = some (src, n) := by
  obtain e | e | e : u8 b 3 = 0 ∨ u8 b 3 = 1 ∨ u8 b 3 = 2 := by omega
  all_goals simp [sourceField, e]

theorem outputField_bind {β : Type} (k : Option OutputId → Option β) (n : Nat) : (outputField n).bind k =
    match n with
    | 0xFF => (some none).bind k
    | n => ((outputOfCode n).map some).bind k := by
  by_cases e : n = 0xFF
  · subst e; rfl
  · unfold outputField; split <;> simp_all

theorem flagField_bind {α β : Type} (zero one : α) (k : α → Option β) (n : Nat) : (flagField zero one n).bind k =
    match n with
    | 0 => (some zero).bind k
    | 1 => (some one).bind k
    | _ => none.bind k :=
  match n with
  | 0 | 1 | _ + 2 => rfl

theorem sourceField_bind {β : Type} (k : Source × Option Nat → Option β) (b : List Byte) : (sourceField b).bind k =
    match u8 b 3 with
    | 0 => (some (.none, none)).bind k
    | 1 => (some (.surface (handleAt b 4), none)).bind k
    | 2 => (some ((match streamOfCode (u8 b 4) with | some i => .stream i | none => .none), some (u8 b 4))).bind k
    | _ => none.bind k := by
  unfold sourceField
  generalize u8 b 3 = n
  match n with
  | 0 | 1 | 2 | _ + 3 => rfl

/-- A payload is decoded field by field. -/
theorem decodeLayer_eq (b : List Byte) : decodeLayer b =
    (outputField (u8 b 1)).bind fun output => (sourceField b).bind fun x =>
    (flagField Filter.nearest Filter.bilinear (u8 b 22)).bind fun filter =>
    (flagField LayerClass.essential LayerClass.decorative (u8 b 27)).bind fun cls =>
    (flagField false true (u8 b 28)).bind fun visible =>
      if -4096 ≤ i16 b 14 ∧ i16 b 14 ≤ 8191 ∧ -4096 ≤ i16 b 16 ∧ i16 b 16 ≤ 8191 ∧ 1 ≤ u16 b 18 ∧ u16 b 18 ≤ 8192
          ∧ 1 ≤ u16 b 20 ∧ u16 b 20 ≤ 8192 then
        some
          ({ output := output, z := u8 b 2, source := x.1, crop := ⟨u16 b 6, u16 b 8, u16 b 10, u16 b 12⟩
             dx := i16 b 14, dy := i16 b 16, dw := u16 b 18, dh := u16 b 20, filter := filter, alpha := u8 b 23
             fill := rgb b 24, cls := cls, visible := visible }, x.2)
      else none := by
  simp only [outputField_bind, sourceField_bind, flagField_bind] <;> rfl

/-- A payload with its fields in their ranges gives a copy. -/
theorem decodeLayer_of_inRange {b : List Byte} {n : Option Nat} (ok : layerFieldsInRange b)
    (hs : sourceField b = some (src, n)) : decodeLayer b = some (layerCopyOf b src, n) := by
  obtain ⟨output, -, filter, cls, visible, place⟩ := ok
  have vis : (if u8 b 28 = 0 then false else true) = (u8 b 28 == 1) := by
    have : u8 b 28 = 0 ∨ u8 b 28 = 1 := by omega
    rcases this with e | e <;> simp [e]
  rw [decodeLayer_eq, hs, outputField_eq, if_pos output, flagField_eq, if_pos filter, flagField_eq, if_pos cls,
    flagField_eq, if_pos visible, vis]
  exact if_pos place

/-- A payload with a field outside its range gives none (log 16). -/
theorem decodeLayer_of_outOfRange {b : List Byte} (bad : ¬ layerFieldsInRange b) : decodeLayer b = none := by
  refine Option.eq_none_iff_forall_ne_some.mpr fun y e => bad ?_
  rw [decodeLayer_eq] at e
  simp only [Option.bind_eq_some_iff] at e
  obtain ⟨_, output, _, source, _, filter, _, cls, _, visible, e⟩ := e
  refine ⟨le_of_outputField output, le_of_sourceField source, le_of_flagField filter, le_of_flagField cls,
    le_of_flagField visible, ?_⟩
  split at e
  · assumption
  · cases e

/-! ## SET LAYER (R30 to R33) -/

theorem ownsLayer_eq_true : ownsLayer p id = true ↔ layerIdOf p id := by
  simp [ownsLayer, ownsLayer_iff]

/-- The capacity test of R32 asks for no more than 12 records on the output the copy names. -/
theorem outputFull_eq_false {ls : List LayerRecord} (hl : ls[id]? = some r) :
    outputFull ls id c = false ↔ ∀ o, c.output = some o → layerCount (ls.set id { r with pending := c }) o ≤ 12 := by
  unfold outputFull
  split
  · next o e => simp [e, setPending_of_getElem? hl]
  · next e => simp [e]

/-- The output test of R30: every output the copy names is enabled. -/
theorem State.outputsEnabled_iff (o? : Option OutputId) :
    (o?.map u.outputEnabled).getD true = true ↔ ∀ o, o? = some o → u.outputEnabled o = true := by
  cases o? <;> simp

/-- A port may name a source that R31 does not refuse. -/
theorem State.sourceRefusal_of_may (may : u.maySource p c.source) :
    u.sourceRefusal p c c.source.streamNumber = none := by
  unfold State.sourceRefusal
  cases hs : c.source with
  | none => rfl
  | stream i =>
    rw [hs] at may
    have closed : (u.streams.get i).state ≠ .idleClosed := may
    cases i <;> simpa [Source.streamNumber, streamNum, streamOfCode] using closed
  | surface h =>
    rw [hs] at may
    obtain ⟨x, hr, own, counted⟩ := may
    have ok : ¬ ((x.kind = .port ∧ x.owner ≠ accountOf p) ∨ (x.kind = .poster ∧ x.refs.get p = 0)) := by
      rintro (⟨k, o⟩ | ⟨k, o⟩)
      · exact o (own k)
      · exact absurd (counted k) (by omega)
    simp only [Source.streamNumber, hr, if_neg ok]

theorem State.sourceRefusal_unresolved (hs : c.source = .surface h) (hr : u.resolve h = none) :
    u.sourceRefusal p c none = some .badHandle := by
  simp only [State.sourceRefusal, hs, hr]

theorem State.sourceRefusal_notOwner (hs : c.source = .surface h) (hr : u.resolve h = some x)
    (no : (x.kind = .port ∧ x.owner ≠ accountOf p) ∨ (x.kind = .poster ∧ x.refs.get p = 0)) :
    u.sourceRefusal p c none = some .notOwner := by
  simp only [State.sourceRefusal, hs, hr, if_pos no]

theorem State.sourceRefusal_badStream {n : Nat} (bad : 2 ≤ n) : u.sourceRefusal p c (some n) = some .badHandle := by
  obtain ⟨k, rfl⟩ : ∃ k, n = k + 2 := ⟨n - 2, by omega⟩
  rfl

theorem State.sourceRefusal_closedStream {i : StreamId} (closed : (u.streams.get i).state = .idleClosed) :
    u.sourceRefusal p c (some (streamNum i)) = some .wrongState := by
  cases i <;> simpa [State.sourceRefusal, streamNum, streamOfCode] using closed

section
variable {n : Option Nat} {st : Status} (own : layerIdOf p (u8 f.payload 0))
include own

theorem setLayer_badGeometry (bad : decodeLayer f.payload = none) :
    setLayer p f u = u.complete p f .badGeometry .none := by
  simp [setLayer, ownsLayer_eq_true.mpr own, bad]

variable (fields : decodeLayer f.payload = some (c, n))
include fields

theorem setLayer_noOutput (off : ¬ ∀ o, c.output = some o → u.outputEnabled o = true) :
    setLayer p f u = u.complete p f .noOutput .none := by
  rw [← State.outputsEnabled_iff] at off
  simp [setLayer, ownsLayer_eq_true.mpr own, fields, off]

variable (on : ∀ o, c.output = some o → u.outputEnabled o = true)
include on

theorem setLayer_sourceRefused (refused : u.sourceRefusal p c n = some st) :
    setLayer p f u = u.complete p f st .none := by
  simp only [setLayer, ownsLayer_eq_true.mpr own, fields, (State.outputsEnabled_iff _).mpr on, refused]
  rfl

variable (may : u.sourceRefusal p c n = none)
include may

theorem setLayer_outputFull (full : outputFull u.layers (u8 f.payload 0) c = true) :
    setLayer p f u = u.complete p f .outputFull .none := by
  simp [setLayer, ownsLayer_eq_true.mpr own, fields, (State.outputsEnabled_iff _).mpr on, may, full]

theorem setLayer_accepted {crop : Crop} {cropClamp stepClamp : Bool} (stored : u.storedCrop c = crop)
    (changed : decide (crop ≠ c.crop) = cropClamp) (step : ({ c with crop := crop } : LayerCopy).stepClamp = stepClamp)
    (room : outputFull u.layers (u8 f.payload 0) c = false) :
    setLayer p f u = (u.writePending (u8 f.payload 0) { c with crop := crop }).complete p f
      (if cropClamp || stepClamp then .clamped else .ok) (.layer crop cropClamp stepClamp) := by
  subst stored changed step
  simp [setLayer, ownsLayer_eq_true.mpr own, fields, (State.outputsEnabled_iff _).mpr on, may, room]

end

theorem setLayer_notOwner (own : ¬ layerIdOf p (u8 f.payload 0)) :
    setLayer p f u = u.complete p f .notOwner .none := by
  simp [setLayer, mt ownsLayer_eq_true.mp own]

/-- A command of the layer block that completes after its change of a pending copy. -/
theorem State.CuratedTo.answered {st : Status} {res : Result} (a : (s.dequeued p rest).CuratedTo u) :
    { u with ports := (s.answered p f rest st res).ports } =
      { s.answered p f rest st res with surfaces := u.surfaces, layers := u.layers, cache := u.cache } := by
  obtain ⟨_, _, _, rfl⟩ := a
  rfl

/-- Settles O37: the payload decodes to the copy, every check passes, and the rest is the change of a pending copy. -/
theorem setLayerTaken : Obligations.SetLayerTaken := by
  intro s p f rest src r b id c takes own hl ok source may on room crop c' out stepClamp cropClamp
  have fields := decodeLayer_of_inRange ok source.sourceField_eq
  have stored : (s.dequeued p rest).storedCrop c = crop := by cases src <;> rfl
  have step : c'.stepClamp = stepClamp := by cases src <;> rfl
  have changed : decide (crop ≠ c.crop) = cropClamp := by rw [Bool.eq_iff_iff]; simp [cropClamp]
  have taken := setLayer_accepted (u := s.dequeued p rest) own fields on (State.sourceRefusal_of_may may) stored changed
    step ((outputFull_eq_false hl).mpr room)
  have curated := State.writePending_curated id c' (s.dequeued p rest)
  have replaced : (s.dequeued p rest).PendingReplaced ((s.dequeued p rest).writePending id c') id r c' :=
    State.writePending_replaced hl
  exact ⟨_, congrArg Host.Outcome.next (takes.completes taken curated.ports), curated.answered, replaced.named,
    replaced.renamed, replaced.length, replaced.copies⟩

/-- Settles O38: each refusal is the first failing check of R30 to R32. -/
theorem setLayerRefused : Obligations.SetLayerRefused := by
  intro s p f rest takes b id refused enabled
  have answers {st : Status} (check : setLayer p f (s.dequeued p rest) = (s.dequeued p rest).complete p f st .none) :
      refused st := congrArg Host.Outcome.next (takes.answers check)
  refine ⟨fun own => answers (setLayer_notOwner own), fun own bad => ?_, fun own ok off => ?_,
    fun own ok on => ⟨?_, ?_, ?_, ?_, ?_⟩⟩
  · exact answers (setLayer_badGeometry own (decodeLayer_of_outOfRange bad))
  · obtain ⟨src, n, source⟩ : ∃ src n, sourceField b = some (src, n) := sourceField_of_le ok.2.1
    exact answers (setLayer_noOutput own (decodeLayer_of_inRange ok source) off)
  · intro kind unresolved
    have fields := decodeLayer_of_inRange ok (LayerSource.surface kind).sourceField_eq
    exact answers (setLayer_sourceRefused own fields on (State.sourceRefusal_unresolved rfl unresolved))
  · intro kind x resolved no
    have fields := decodeLayer_of_inRange ok (LayerSource.surface kind).sourceField_eq
    exact answers (setLayer_sourceRefused own fields on (State.sourceRefusal_notOwner rfl resolved no))
  · intro kind bad
    obtain ⟨src, source⟩ := sourceField_stream kind
    have fields := decodeLayer_of_inRange ok source
    exact answers (setLayer_sourceRefused own fields on (State.sourceRefusal_badStream bad))
  · intro i kind number closed
    have fields := decodeLayer_of_inRange ok (LayerSource.stream i kind number).sourceField_eq
    exact answers (setLayer_sourceRefused own fields on (State.sourceRefusal_closedStream closed))
  · intro src r o source may hl output full
    have fields := decodeLayer_of_inRange ok source.sourceField_eq
    have fails : ¬ outputFull s.layers id (layerCopyOf b src) = false := fun room =>
      absurd ((outputFull_eq_false hl).mp room o output) (by omega)
    exact answers (setLayer_outputFull own fields on (State.sourceRefusal_of_may may) (Bool.not_eq_false _ ▸ fails))

/-! ## CLEAR LAYER (R34) -/

theorem clearLayer_notOwner (own : ¬ layerIdOf p (u8 f.payload 0)) :
    clearLayer p f u = u.complete p f .notOwner .none := by
  simp [clearLayer, mt ownsLayer_eq_true.mp own]

theorem clearLayer_accepted (own : layerIdOf p (u8 f.payload 0)) (hl : u.layers[u8 f.payload 0]? = some r) :
    clearLayer p f u =
      (u.writePending (u8 f.payload 0) { r.pending with output := none }).complete p f .ok .none := by
  simp [clearLayer, ownsLayer_eq_true.mpr own, hl]

/-- Settles O39: a record of the port has its pending output set to none, and the rest is the change of a pending copy. -/
theorem clearLayerTaken : Obligations.ClearLayerTaken := by
  intro s p f rest id takes payload
  have field : u8 f.payload 0 = id.toNat := by rw [payload]; rfl
  constructor
  · intro own
    exact congrArg Host.Outcome.next (takes.answers (clearLayer_notOwner (field ▸ own)))
  · intro r own hl c'
    have taken := clearLayer_accepted (u := s.dequeued p rest) (f := f) (field ▸ own) (field ▸ hl)
    rw [field] at taken
    have curated := State.writePending_curated id.toNat c' (s.dequeued p rest)
    have replaced : (s.dequeued p rest).PendingReplaced ((s.dequeued p rest).writePending id.toNat c') id.toNat r c' :=
      State.writePending_replaced hl
    exact ⟨_, congrArg Host.Outcome.next (takes.completes taken curated.ports), curated.answered, replaced.named,
      replaced.renamed, replaced.length, replaced.copies⟩

/-! ## LATCH (R37) -/

theorem State.enabledOutput_eq_none {n : Nat} (off : ∀ o, n = outputNum o → u.outputEnabled o = false) :
    u.enabledOutput n = none := by
  unfold State.enabledOutput outputOfCode
  match n with
  | 0 => simp [off .o0 rfl]
  | 1 => simp [off .o1 rfl]
  | _ + 2 => rfl

theorem State.enabledOutput_outputNum {o : OutputId} (on : u.outputEnabled o = true) :
    u.enabledOutput (outputNum o) = some o := by
  cases o <;> simp [State.enabledOutput, outputOfCode, outputNum, on]

/-- Settles O40: the output is the enabled one of the number given, or the command is refused. -/
theorem latchTaken : Obligations.LatchTaken := by
  intro s p f rest n takes payload
  have field : u8 f.payload 0 = n.toNat := by rw [payload]; rfl
  constructor
  · intro off
    have none : (s.dequeued p rest).enabledOutput (u8 f.payload 0) = none := State.enabledOutput_eq_none (field ▸ off)
    exact congrArg Host.Outcome.next (takes.answers (by simp only [latch, none]))
  · intro o number on
    have some : (s.dequeued p rest).enabledOutput (u8 f.payload 0) = some o := by
      rw [field, number]
      exact State.enabledOutput_outputNum on
    rw [exec, execLatch, takes.taking]
    have joins : latch p f (s.dequeued p rest) = ((s.dequeued p rest).enter p f).modOut o
        (fun q => { q with latches := q.latches ++ [⟨p, f.tag⟩] }) := by simp only [latch, some]
    exact congrArg Host.Outcome.next (joins.trans (by rw [State.dequeued, State.enter_taken]; rfl))

end Sys2Proof.Machine
end

section
/-! SUPPORT. The latches of a field start (R37, R38, R46): what the work before and after them leaves of the latch lists, the
ports and the layer records, and what the latches themselves write and complete. -/

namespace Sys2Proof.Machine

variable {s t u : State} {p : Port} {o : OutputId} {q r v : PortState}

/-! ## Ports that only took notices (R179, R183) -/

theorem PortState.noticed_refl (q : PortState) : q.noticed q := ⟨List.prefix_rfl, Nat.le_refl _, rfl⟩

theorem PortState.noticed.trans (h : q.noticed r) (k : r.noticed v) : q.noticed v := by
  obtain ⟨notices, lost, e⟩ := h
  obtain ⟨notices', lost', e'⟩ := k
  refine ⟨notices.trans notices', lost.trans lost', e'.trans ?_⟩
  rw [e]

theorem PortState.noticed_join (q : PortState) (n : Notice) : q.noticed (q.join n) :=
  ⟨List.prefix_append _ _, Nat.le_refl _, rfl⟩

theorem le_satSucc255 (n : Nat) : n ≤ satSucc255 n := by unfold satSucc255; split <;> omega

theorem PortState.noticed_lost (q : PortState) : q.noticed { q with lost := satSucc255 q.lost } :=
  ⟨List.prefix_rfl, le_satSucc255 _, rfl⟩

/-- Notices move nothing in a port's account of its commands. -/
theorem PortState.noticed.account (h : q.noticed r) :
    r.status = q.status ∧ r.inFlight = q.inFlight ∧ r.owed = q.owed := by
  obtain ⟨-, -, e⟩ := h
  rw [e]
  exact ⟨rfl, rfl, rfl⟩

/-! ## Work that leaves the latches as they are -/

/-- What notices, panel states and the work of open streams leave as it is: the layer records, the latch lists and field counts
of the outputs, and the ports but for their notices; no stream becomes CLOSING. -/
structure State.LeavesLatches (s t : State) : Prop where
  layers : t.layers = s.layers
  outputs : ∀ o, (t.outputs.get o).latches = (s.outputs.get o).latches
    ∧ (t.outputs.get o).internal = (s.outputs.get o).internal
    ∧ (t.outputs.get o).fieldCount = (s.outputs.get o).fieldCount
  ports : ∀ p, (s.ports.get p).noticed (t.ports.get p)
  closing : ∀ i, (t.streams.get i).state = .closing → (s.streams.get i).state = .closing

theorem State.leavesLatches_refl (s : State) : s.LeavesLatches s :=
  ⟨rfl, fun _ => ⟨rfl, rfl, rfl⟩, fun _ => PortState.noticed_refl _, fun _ h => h⟩

theorem State.LeavesLatches.trans (h : s.LeavesLatches t) (k : t.LeavesLatches u) : s.LeavesLatches u where
  layers := k.layers.trans h.layers
  outputs o := by
    obtain ⟨a, b, c⟩ := h.outputs o
    obtain ⟨a', b', c'⟩ := k.outputs o
    exact ⟨a'.trans a, b'.trans b, c'.trans c⟩
  ports p := (h.ports p).trans (k.ports p)
  closing i e := h.closing i (k.closing i e)

/-- A loop of such changes is one. -/
theorem State.LeavesLatches.foldl {α : Type} {f : State → α → State} (h : s.LeavesLatches t)
    (step : ∀ u x, s.LeavesLatches u → s.LeavesLatches (f u x)) (xs : List α) : s.LeavesLatches (xs.foldl f t) :=
  foldl_keeps step xs h

theorem State.LeavesLatches.modCounters (h : s.LeavesLatches t) (f : Counters → Counters) :
    s.LeavesLatches (t.modCounters f) := ⟨h.layers, h.outputs, h.ports, h.closing⟩

theorem State.LeavesLatches.modPort (h : s.LeavesLatches t) {f : PortState → PortState}
    (noticed : (t.ports.get p).noticed (f (t.ports.get p))) : s.LeavesLatches (t.modPort p f) where
  layers := h.layers
  outputs := h.outputs
  ports r := by
    by_cases e : r = p
    · subst e; simpa using (h.ports r).trans noticed
    · simpa [PerPort.get_set_ne _ _ _ _ e] using h.ports r
  closing := h.closing

theorem State.LeavesLatches.modStream (h : s.LeavesLatches t) {i : StreamId} {f : StreamRecord → StreamRecord}
    (stays : (f (t.streams.get i)).state = .closing → (t.streams.get i).state = .closing) :
    s.LeavesLatches (t.modStream i f) where
  layers := h.layers
  outputs := h.outputs
  ports := h.ports
  closing j e := by
    by_cases ne : j = i
    · subst ne; exact h.closing j (stays (by simpa using e))
    · exact h.closing j (by simpa [PerStream.get_set_ne _ _ _ _ ne] using e)

theorem State.LeavesLatches.modPanel (h : s.LeavesLatches t) (o : OutputId) (x : PanelState) :
    s.LeavesLatches (t.modOut o (fun q => { q with panel := x })) where
  layers := h.layers
  outputs k := by
    by_cases e : k = o
    · subst e; simpa using h.outputs k
    · simpa [PerOutput.get_set_ne _ _ _ _ e] using h.outputs k
  ports := h.ports
  closing := h.closing

theorem State.LeavesLatches.notify (h : s.LeavesLatches t) (p : Port) (n : Notice) : s.LeavesLatches (t.notify p n) := by
  rcases t.notify_cases p n with ⟨-, e⟩ | ⟨-, -, e⟩ | ⟨-, -, e⟩ <;> rw [e]
  · exact h
  · exact h.modPort (PortState.noticed_join _ n)
  · exact (h.modPort (PortState.noticed_lost _)).modCounters _

theorem State.LeavesLatches.notifyIf (h : s.LeavesLatches t) (x : Topic) (p : Port) (n : Notice) :
    s.LeavesLatches (t.notifyIf x p n) := by
  unfold State.notifyIf
  split
  · exact h.notify p n
  · exact h

theorem State.LeavesLatches.publish (h : s.LeavesLatches t) (x : Topic) (n : Notice) :
    s.LeavesLatches (t.publish x n) := (h.notifyIf x .a n).notifyIf x .b n

theorem State.LeavesLatches.settleOutput (h : s.LeavesLatches t) (o : OutputId) :
    s.LeavesLatches (t.settleOutput o) := by
  unfold State.settleOutput
  dsimp only
  split
  · exact h
  · exact (h.modPanel o _).publish _ _

/-! ## Open streams (R95 to R101) -/

@[simp] theorem StreamRecord.modSlot_state (r : StreamRecord) (k : Nat) (f : Slot → Slot) :
    (r.modSlot k f).state = r.state := by
  unfold StreamRecord.modSlot
  split <;> rfl

theorem State.LeavesLatches.emptySlot (h : s.LeavesLatches t) (i : StreamId) (k : Nat) :
    s.LeavesLatches (t.emptySlot i k) := by
  unfold State.emptySlot State.slotFreed
  split
  · exact (h.modStream (by simp)).notify _ _
  · exact h.modStream (by simp)

theorem State.LeavesLatches.releaseSlot (h : s.LeavesLatches t) (i : StreamId) (k : Nat) :
    s.LeavesLatches (t.releaseSlot i k) := by
  unfold State.releaseSlot
  split
  · split
    · exact h.modStream (by simp)
    · exact h.emptySlot i k
  · exact h

theorem State.LeavesLatches.selectFrame (h : s.LeavesLatches t) (i : StreamId) :
    s.LeavesLatches (t.selectFrame i) := by
  unfold State.selectFrame
  dsimp only
  have counted := h.modCounters (fun c => c.onStream i (selectionCounters (t.streams.get i)))
  split
  · exact counted
  · have loop {u : State} (hu : s.LeavesLatches u) (ks : List Nat) :
        s.LeavesLatches (ks.foldl (fun u k => u.releaseSlot i k) u) := hu.foldl (fun u k hu => hu.releaseSlot i k) ks
    split
    · exact (loop (counted.modStream (by simp)) _).releaseSlot i _
    · exact loop (counted.modStream (by simp)) _

theorem State.LeavesLatches.streamField (h : s.LeavesLatches t) (i : StreamId) (o : OutputId) (advance : Nat) :
    s.LeavesLatches (t.streamField i o advance) := by
  unfold State.streamField
  dsimp only
  split
  · exact h
  · split
    · exact ((h.modStream (by simp)).selectFrame i).publish _ _
    · exact (h.modStream id).selectFrame i
    · exact h.selectFrame i
    · exact h

/-! ## A field start before and after its latches (R75) -/

/-- The state in which an output takes its latches: the count, the panel state, the notice and the streams are done (R75). -/
def State.fieldBegun (o : OutputId) (s : State) : State :=
  let adv := (s.outputs.get o).fieldAdvance
  let t := (s.modOut o OutputState.advance).modCounters
    (fun c => c.onOutput o (fun k => { k with fields := satSucc k.fields }))
  State.streamField .s1 o adv (State.streamField .s0 o adv ((t.settleOutput o).fieldNotice o))

/-- The work of a field start once the latches are taken (R75, R83). -/
def State.fieldEnded (o : OutputId) (s : State) : State :=
  ((s.formSets o).modOut o
    (fun q => { q with nextLine := 0, work := none, ahead := [], line := [], leadIn := false })).reportHoldSets.modOut o
      OutputState.fallAsleep

theorem State.fieldStart_eq (o : OutputId) (s : State) :
    s.fieldStart o = State.fieldEnded o ((s.fieldBegun o).takeLatches o) := rfl

theorem execFieldStart_running (awake : s.startUp.resetPin = false) (on : s.outputEnabled o = true)
    (running : (s.outputs.get o).running = true) : execFieldStart o s = .next (s.fieldStart o) := by
  simp [execFieldStart, awake, on, running]

theorem State.fieldBegun_leavesLatches (o : OutputId) (s : State) :
    (s.modOut o OutputState.advance).LeavesLatches (s.fieldBegun o) :=
  ((((((State.leavesLatches_refl _).modCounters _).settleOutput o).publish _ _).streamField .s0 o _).streamField .s1 o _)

/-- The latches are due that were due before, in the field that has begun (R76, R77). -/
theorem State.fieldBegun_output (o : OutputId) (s : State) :
    ((s.fieldBegun o).outputs.get o).latches = (s.outputs.get o).latches
      ∧ ((s.fieldBegun o).outputs.get o).internal = (s.outputs.get o).internal
      ∧ ((s.fieldBegun o).outputs.get o).fieldCount = (s.outputs.get o).fieldCount + 1 := by
  simpa [OutputState.advance] using (s.fieldBegun_leavesLatches o).outputs o

/-! ## The records a latch writes (R38) -/

/-- The layer records once an output has taken the latches due on it (R38). -/
def State.latchedLayers (o : OutputId) (s : State) : List LayerRecord :=
  let q := s.outputs.get o
  let w (p : Port) (l : List LayerRecord) : List LayerRecord := if q.latchDue p then latchWrite l p o else l
  w .b (w .a s.layers)

/-- The state with the latches due on an output written and taken off its list, their completions apart (R38). -/
def State.latchesWritten (o : OutputId) (s : State) : State :=
  State.modOut { s with layers := s.latchedLayers o } o (fun q => { q with latches := [], internal := ⟨false, false⟩ })

theorem State.takeLatches_eq (o : OutputId) (s : State) : s.takeLatches o = State.reportUnnamed s
    (completeLatches o (s.outputs.get o).fieldCount (s.outputs.get o).latches (s.latchesWritten o)) := rfl

theorem OutputState.latchDue_iff (q : OutputState) (p : Port) :
    q.latchDue p = true ↔ q.internal.get p = true ∨ ∃ e ∈ q.latches, e.port = p := by
  simp [OutputState.latchDue, or_comm]

theorem latchWrite_getElem? (ls : List LayerRecord) (p : Port) (o : OutputId) (id : Nat) :
    (latchWrite ls p o)[id]? = ls[id]?.map (fun r => if ownsLayer p id then r.latched o else r) := by
  rw [latchWrite, List.getElem?_mapIdx]

/-- No layer id belongs to both ports (R27). -/
theorem ownsLayer_other {id : Nat} (own : ownsLayer p id = true) : ownsLayer p.other id = false := by
  refine Bool.eq_false_iff.mpr fun other => ?_
  have here := (ownsLayer_iff p id).mp (ownsLayer_eq_true.mp own)
  have there := (ownsLayer_iff p.other id).mp (ownsLayer_eq_true.mp other)
  cases p <;> simp only [firstLayer, Port.other] at here there <;> omega

/-- Each record is written once at most, by the latch of its own port. -/
theorem State.latchedLayers_getElem? {id : Nat} {r : LayerRecord} (hl : s.layers[id]? = some r) :
    (s.latchedLayers o)[id]? = some
      (if (ownsLayer .a id && (s.outputs.get o).latchDue .a) || (ownsLayer .b id && (s.outputs.get o).latchDue .b)
        then r.latched o else r) := by
  have write (p : Port) (ls : List LayerRecord) :
      (if (s.outputs.get o).latchDue p then latchWrite ls p o else ls)[id]?
        = ls[id]?.map (fun r => if ownsLayer p id && (s.outputs.get o).latchDue p then r.latched o else r) := by
    cases (s.outputs.get o).latchDue p <;> simp [latchWrite_getElem?]
  rw [State.latchedLayers, write, write, hl]
  cases a : ownsLayer .a id
  · simp
  · have b : ownsLayer .b id = false := ownsLayer_other a
    simp [b]

theorem State.latchedLayers_due {id : Nat} {r : LayerRecord} (hl : s.layers[id]? = some r) (own : layerIdOf p id)
    (due : (s.outputs.get o).latchDue p = true) : (s.latchedLayers o)[id]? = some (r.latched o) := by
  rw [State.latchedLayers_getElem? hl]
  have owns := ownsLayer_eq_true.mpr own
  cases p <;> simp [owns, due]

theorem State.latchedLayers_idle {id : Nat} {r : LayerRecord} (hl : s.layers[id]? = some r)
    (idle : ∀ p, layerIdOf p id → (s.outputs.get o).latchDue p = false) : (s.latchedLayers o)[id]? = some r := by
  have off (p : Port) : (ownsLayer p id && (s.outputs.get o).latchDue p) = false := by
    cases owns : ownsLayer p id
    · rfl
    · exact idle p (ownsLayer_eq_true.mp owns)
  rw [State.latchedLayers_getElem? hl, off, off]
  rfl

theorem LayerRecord.names_iff (r : LayerRecord) (o : OutputId) :
    r.names o = true ↔ r.active.output = some o ∨ r.pending.output = some o := by
  simp [LayerRecord.names]

theorem LayerRecord.latched_pending (r : LayerRecord) (o : OutputId) : (r.latched o).pending = r.pending := by
  unfold LayerRecord.latched
  split <;> rfl

theorem State.latchedLayers_length (o : OutputId) (s : State) : (s.latchedLayers o).length = s.layers.length := by
  unfold State.latchedLayers
  dsimp only
  split <;> split <;> simp [latchWrite_length]

/-- The latches write the records, and what follows takes no more than sources from them (R29, R38). -/
theorem State.takeLatches_layersFrom (o : OutputId) (s : State) :
    State.LayersFrom (s.latchedLayers o) (s.takeLatches o) := by
  have h := layersFrom_stable (s.latchedLayers o)
  rw [State.takeLatches_eq]
  exact h.reportUnnamed s (h.completeLatches _ _ _ (s.latchesWritten o).layersFrom_self)

theorem State.fieldEnded_layersFrom {ls : List LayerRecord} (o : OutputId) (k : State.LayersFrom ls s) :
    State.LayersFrom ls (s.fieldEnded o) := by
  have h := layersFrom_stable ls
  exact h.modOut _ _ (h.reportHoldSets (h.modOut _ _ (h.formSets _ k)))

theorem State.fieldStart_layersFrom (o : OutputId) (s : State) :
    State.LayersFrom ((s.fieldBegun o).latchedLayers o) (s.fieldStart o) :=
  State.fieldEnded_layersFrom o ((s.fieldBegun o).takeLatches_layersFrom o)

/-- The latches due are those due before the field start. -/
theorem State.fieldBegun_latchDue (o : OutputId) (s : State) (p : Port) :
    ((s.fieldBegun o).outputs.get o).latchDue p = (s.outputs.get o).latchDue p := by
  obtain ⟨latches, internal, -⟩ := s.fieldBegun_output o
  simp only [OutputState.latchDue, latches, internal]

/-- A record that a latch due on the output writes takes its pending copy where either copy names the output; every other
copy stays, but for a source that R29 takes (R38, R46). -/
theorem State.fieldStart_record {id : Nat} {r : LayerRecord} (hl : s.layers[id]? = some r) :
    ∃ r', (s.fieldStart o).layers[id]? = some r' ∧ r.pending.agrees r'.pending
      ∧ ((∃ p, layerIdOf p id ∧ (s.outputs.get o).latchDue p = true) → r.names o = true → r.pending.agrees r'.active)
      ∧ ((¬ ∃ p, layerIdOf p id ∧ (s.outputs.get o).latchDue p = true) ∨ ¬ r.names o = true →
          r.active.agrees r'.active) := by
  have hb : (s.fieldBegun o).layers[id]? = some r := by rw [(s.fieldBegun_leavesLatches o).layers]; exact hl
  by_cases due : ∃ p, layerIdOf p id ∧ (s.outputs.get o).latchDue p = true
  · obtain ⟨p, own, hp⟩ := due
    have written := State.latchedLayers_due hb own (by rw [State.fieldBegun_latchDue]; exact hp)
    obtain ⟨r', hr', active, pending⟩ := (s.fieldStart_layersFrom o).getElem? written
    rw [LayerRecord.latched_pending] at pending
    refine ⟨r', hr', pending, fun _ names => ?_, fun still => ?_⟩
    · rwa [LayerRecord.latched, if_pos names] at active
    · rwa [LayerRecord.latched, if_neg (still.resolve_left (not_not_intro ⟨p, own, hp⟩))] at active
  · have kept := State.latchedLayers_idle (o := o) hb fun p own => by
      rw [State.fieldBegun_latchDue]
      exact Bool.eq_false_iff.mpr fun hp => due ⟨p, own, hp⟩
    obtain ⟨r', hr', active, pending⟩ := (s.fieldStart_layersFrom o).getElem? kept
    exact ⟨r', hr', pending, fun h => absurd h due, fun _ => active⟩

/-! ## The tests at a hold-set replacement (R17, R115) -/

theorem State.detachSlots_curated (xs : List Slot) (s : State) : s.CuratedTo (detachSlots xs s) :=
  foldl_keeps (P := s.CuratedTo) (fun _ _ ht => ht.trans ⟨_, _, _, rfl⟩) _ s.curatedTo_refl

theorem State.freeRetired_curated (s : State) : s.CuratedTo s.freeRetired :=
  foldl_keeps (P := s.CuratedTo) (fun t i ht => by
    split
    · exact ht.trans (t.becomeFree_curated i)
    · exact ht) _ s.curatedTo_refl

theorem State.drainToIdle_curated (s : State) : s.CuratedTo s.drainToIdle :=
  foldl_keeps (P := s.CuratedTo) (fun t i ht => by
    split
    · exact ht.trans ⟨_, _, _, rfl⟩
    · exact ht) _ s.curatedTo_refl

theorem State.releaseSlots_leavesLatches (i : StreamId) (s : State) :
    s.LeavesLatches ((s.releasableSlots i).foldl (fun t k => t.emptySlot i k) s) :=
  s.leavesLatches_refl.foldl (fun _ k h => h.emptySlot i k) _

/-- A stream that is not CLOSING has no close to finish (R106). -/
theorem State.finishClose_of_ne {i : StreamId} (h : (s.streams.get i).state ≠ .closing) : s.finishClose i = s := by
  simp [State.finishClose, h]

/-- The release test of a part without a CLOSING stream completes no command (R101). -/
theorem State.releaseStream_leavesLatches {i : StreamId} (h : (s.streams.get i).state ≠ .closing) :
    s.LeavesLatches (s.releaseStream i) := by
  have released := s.releaseSlots_leavesLatches i
  rw [State.releaseStream, State.finishClose_of_ne (fun e => h (released.closing i e))]
  exact released

/-! ## The completions of LATCH (R38, R178) -/

section
variable {c : Cmd} {tag : Byte} {st : Status} {reason : Option PlaceholderReason} {res : Result}

theorem State.completeHeld_get_ne {p' : Port} (ne : p' ≠ p) :
    (s.completeHeld p c tag st reason res).ports.get p' = s.ports.get p' := by
  unfold State.completeHeld State.deliver
  split <;> simp [PerPort.get_set_ne _ _ _ _ ne]

/-- A completion takes the entry of its command and joins the notices of a port that is not RESETTING (R178). -/
theorem State.completeHeld_get (h : (s.ports.get p).status ≠ .resetting) :
    (s.completeHeld p c tag st reason res).ports.get p =
      { ({ s.ports.get p with inFlight := (s.ports.get p).inFlight.erase ⟨c.code, tag⟩ } : PortState).join
          (.completion tag c.code st reason res) with owed := (s.ports.get p).owed - 1 } := by
  rw [State.completeHeld, State.deliver_of_ne _ (by simpa using h)]
  simp

theorem State.completeHeld_streams : (s.completeHeld p c tag st reason res).streams = s.streams := by
  unfold State.completeHeld State.deliver
  split <;> rfl

theorem State.completeHeld_status (p' : Port) :
    ((s.completeHeld p c tag st reason res).ports.get p').status = (s.ports.get p').status := by
  by_cases e : p' = p
  · subst e
    unfold State.completeHeld State.deliver
    split <;> simp
  · rw [State.completeHeld_get_ne e]

end

/-- Whether no notice left a port's queue, from `s` to `t`. -/
def State.KeepsNotices (s t : State) : Prop := ∀ p, (s.ports.get p).notices <+: (t.ports.get p).notices

theorem State.keepsNotices_refl (s : State) : s.KeepsNotices s := fun _ => List.prefix_rfl

theorem State.KeepsNotices.trans (h : s.KeepsNotices t) (k : t.KeepsNotices u) : s.KeepsNotices u :=
  fun p => (h p).trans (k p)

theorem State.LeavesLatches.keepsNotices (h : s.LeavesLatches t) : s.KeepsNotices t := fun p => (h.ports p).1

theorem State.KeepsNotices.of_ports (h : s.KeepsNotices t) (e : u.ports = t.ports) : s.KeepsNotices u :=
  fun p => by rw [e]; exact h p

theorem State.KeepsNotices.modPort (h : s.KeepsNotices t) {f : PortState → PortState}
    (grows : (t.ports.get p).notices <+: (f (t.ports.get p)).notices) : s.KeepsNotices (t.modPort p f) := fun r => by
  by_cases e : r = p
  · subst e; simpa using (h r).trans grows
  · simpa [PerPort.get_set_ne _ _ _ _ e] using h r

theorem State.KeepsNotices.publish (h : s.KeepsNotices t) (x : Topic) (n : Notice) : s.KeepsNotices (t.publish x n) :=
  h.trans (t.leavesLatches_refl.publish x n).keepsNotices

theorem State.KeepsNotices.modOut (h : s.KeepsNotices t) (o : OutputId) (f : OutputState → OutputState) :
    s.KeepsNotices (t.modOut o f) := h.of_ports rfl

theorem State.KeepsNotices.modStream (h : s.KeepsNotices t) (i : StreamId) (f : StreamRecord → StreamRecord) :
    s.KeepsNotices (t.modStream i f) := h.of_ports rfl

theorem State.KeepsNotices.streamNotice (h : s.KeepsNotices t) (i : StreamId) : s.KeepsNotices (t.streamNotice i) :=
  h.publish _ _

theorem State.KeepsNotices.portChange (h : s.KeepsNotices t) (p : Port) : s.KeepsNotices (t.portChange p) :=
  h.trans (t.leavesLatches_refl.notifyIf _ _ _).keepsNotices

theorem State.KeepsNotices.completeHeld (h : s.KeepsNotices t) (p : Port) (c : Cmd) (tag : Byte) (st : Status)
    (reason : Option PlaceholderReason) (res : Result) : s.KeepsNotices (t.completeHeld p c tag st reason res) := by
  unfold State.completeHeld State.deliver
  split
  · exact h.modPort List.prefix_rfl
  · exact (h.modPort List.prefix_rfl).modPort (List.prefix_append _ _)

theorem State.KeepsNotices.finishClose (h : s.KeepsNotices t) (i : StreamId) : s.KeepsNotices (t.finishClose i) := by
  unfold State.finishClose
  dsimp only
  split
  · have detached := h.of_ports (t.detachSlots_curated (t.streams.get i).slots).ports
    have closed := (detached.modStream i (fun _ =>
      { StreamRecord.reset with clock := (t.streams.get i).clock })).streamNotice i
    split
    · exact closed.completeHeld _ _ _ _ _ _
    · exact closed
  · exact h

theorem State.KeepsNotices.settlePort (h : s.KeepsNotices t) (p : Port) : s.KeepsNotices (t.settlePort p) := by
  unfold State.settlePort
  dsimp only
  split
  · split
    · split
      · exact State.KeepsNotices.portChange
          (State.KeepsNotices.modPort (h.completeHeld _ _ _ _ _ _) List.prefix_rfl) _
      · exact h
    · exact h
  · split
    · split
      · exact State.KeepsNotices.modPort h List.prefix_rfl
      · exact State.KeepsNotices.portChange (State.KeepsNotices.modPort h List.prefix_rfl) _
    · exact h
  · exact h

theorem State.KeepsNotices.releaseStream (h : s.KeepsNotices t) (i : StreamId) :
    s.KeepsNotices (t.releaseStream i) :=
  (h.trans (t.releaseSlots_leavesLatches i).keepsNotices).finishClose i

theorem State.KeepsNotices.reportHoldSets (h : s.KeepsNotices t) : s.KeepsNotices t.reportHoldSets := by
  have released := (h.releaseStream .s0).releaseStream .s1
  have freed := released.of_ports (State.freeRetired_curated _).ports
  have drained := freed.of_ports (State.drainToIdle_curated _).ports
  rw [State.reportHoldSets, State.settle]
  exact (drained.settlePort .a).settlePort .b

/-- No notice leaves a queue in the work of a field start after the latches. -/
theorem State.fieldEnded_keepsNotices (o : OutputId) (s : State) : s.KeepsNotices (s.fieldEnded o) := by
  rw [State.fieldEnded, State.formSets]
  exact (((s.keepsNotices_refl.modOut _ _).modOut _ _).reportHoldSets).modOut _ _

theorem State.completeLatches_keepsNotices (o : OutputId) (count : Word32) (es : List LatchEntry) (s : State) :
    s.KeepsNotices (completeLatches o count es s) :=
  foldl_keeps (P := s.KeepsNotices) (fun _ _ h => h.completeHeld _ _ _ _ _ _) es s.keepsNotices_refl

/-- Each LATCH of a port that is not RESETTING completes with the output and the count (R38). -/
theorem completion_mem_completeLatches {count : Word32} {es : List LatchEntry} {e : LatchEntry} (mem : e ∈ es)
    (h : (s.ports.get e.port).status ≠ .resetting) : Notice.completion e.tag 0x22 .ok none (.latch o count)
      ∈ ((completeLatches o count es s).ports.get e.port).notices := by
  induction es generalizing s with
  | nil => cases mem
  | cons x xs ih =>
    rcases List.mem_cons.mp mem with rfl | mem
    · refine (State.completeLatches_keepsNotices o count xs _ e.port).mem ?_
      rw [State.completeHeld_get h]
      simp [Cmd.code]
    · exact ih mem (by rwa [State.completeHeld_status])

/-- The entries and the completions owed of an ATTACHED port, once the LATCHes of a list are complete (R178). -/
theorem completeLatches_account {count : Word32} (es : List LatchEntry) (h : (s.ports.get p).status = .attached) :
    let r := (completeLatches o count es s).ports.get p
    r.status = .attached
      ∧ r.inFlight = (es.filter (fun e => e.port = p)).foldl (fun es e => es.erase ⟨0x22, e.tag⟩)
          (s.ports.get p).inFlight
      ∧ r.owed = (s.ports.get p).owed - (es.filter (fun e => e.port = p)).length := by
  induction es generalizing s with
  | nil => exact ⟨h, rfl, rfl⟩
  | cons x xs ih =>
    obtain ⟨status, inFlight, owed⟩ := ih (s := s.completeHeld x.port .latch x.tag .ok none (.latch o count))
      (by rwa [State.completeHeld_status])
    refine ⟨status, inFlight.trans ?_, owed.trans ?_⟩
    all_goals
      by_cases e : x.port = p
      · subst e
        rw [State.completeHeld_get (by simp [h])]
        simp [Cmd.code, Nat.sub_sub, Nat.add_comm]
      · rw [State.completeHeld_get_ne (Ne.symm e)]
        simp [e]

theorem completeLatches_streams (o : OutputId) (count : Word32) (es : List LatchEntry) (s : State) :
    (completeLatches o count es s).streams = s.streams :=
  foldl_keeps (P := fun t => t.streams = s.streams) (fun _ _ ht => State.completeHeld_streams.trans ht) es rfl

/-! ## An ATTACHED port in the work after the latches -/

theorem State.modPort_get_ne {p' : Port} (ne : p' ≠ p) (f : PortState → PortState) :
    (s.modPort p f).ports.get p' = s.ports.get p' := PerPort.get_set_ne _ _ _ _ ne

/-- The end of a teardown gives an ATTACHED port no more than notices (R169, R171). -/
theorem State.settlePort_noticed (p' : Port) (h : (s.ports.get p).status = .attached) :
    (s.ports.get p).noticed ((s.settlePort p').ports.get p) := by
  by_cases ne : p = p'
  · subst ne
    have still : s.settlePort p = s := by simp [State.settlePort, h]
    rw [still]
    exact PortState.noticed_refl _
  · have told {t : State} (e : t.ports.get p = s.ports.get p) :
        (s.ports.get p).noticed ((t.portChange p').ports.get p) := by
      rw [← e]
      exact (t.leavesLatches_refl.notifyIf _ _ _).ports p
    unfold State.settlePort
    dsimp only
    split
    · split
      · split
        · exact told ((State.modPort_get_ne ne _).trans (State.completeHeld_get_ne ne))
        · exact PortState.noticed_refl _
      · exact PortState.noticed_refl _
    · split
      · split
        · rw [State.modPort_get_ne ne]
          exact PortState.noticed_refl _
        · exact told (State.modPort_get_ne ne _)
      · exact PortState.noticed_refl _
    · exact PortState.noticed_refl _

theorem State.settle_noticed (h : (s.ports.get p).status = .attached) :
    (s.ports.get p).noticed (s.settle.ports.get p) := by
  have first := State.settlePort_noticed .a h
  exact first.trans (State.settlePort_noticed .b (first.account.1.trans h))

/-- The tests at a hold-set replacement give an ATTACHED port no more than notices while no stream is CLOSING. -/
theorem State.reportHoldSets_noticed (h : (s.ports.get p).status = .attached)
    (noneCloses : ∀ i, (s.streams.get i).state ≠ .closing) : (s.ports.get p).noticed (s.reportHoldSets.ports.get p) := by
  have first := State.releaseStream_leavesLatches (noneCloses .s0)
  have released := first.trans (State.releaseStream_leavesLatches (mt (first.closing .s1) (noneCloses .s1)))
  have freed := State.freeRetired_curated ((s.releaseStream .s0).releaseStream .s1)
  have tested := (freed.trans (State.drainToIdle_curated _)).ports
  have noticed := released.ports p
  rw [← tested] at noticed
  exact noticed.trans (State.settle_noticed (noticed.account.1.trans h))

theorem State.fieldEnded_noticed (h : (s.ports.get p).status = .attached)
    (noneCloses : ∀ i, (s.streams.get i).state ≠ .closing) : (s.ports.get p).noticed ((s.fieldEnded o).ports.get p) := by
  rw [State.fieldEnded, State.modOut_ports]
  exact State.reportHoldSets_noticed (s := (s.formSets o).modOut o _) h noneCloses

/-! ## The latches of a field start -/

/-- The latches change no port but by their completions (R38). -/
theorem State.takeLatches_ports (o : OutputId) (s : State) : (s.takeLatches o).ports =
    (completeLatches o (s.outputs.get o).fieldCount (s.outputs.get o).latches (s.latchesWritten o)).ports :=
  (State.reportUnnamed_curated _ _).ports

theorem State.takeLatches_streams (o : OutputId) (s : State) : (s.takeLatches o).streams = s.streams :=
  (State.reportUnnamed_curated _ _).streams.trans (completeLatches_streams ..)

/-- Settles O43: nothing before the latches touches a latch list or a record, and nothing after them takes back a copy or a
completion. -/
theorem fieldStartTakesLatches : Obligations.FieldStartTakesLatches := by
  intro s o awake on running
  refine ⟨_, execFieldStart_running awake on running, ?_⟩
  intro q due
  have begun := s.fieldBegun_leavesLatches o
  obtain ⟨latches, internal, count⟩ := s.fieldBegun_output o
  have due_iff (p : Port) : (s.outputs.get o).latchDue p = true ↔ due p := OutputState.latchDue_iff _ p
  have taken := (s.fieldBegun o).takeLatches_ports o
  rw [latches, count] at taken
  refine ⟨?_, fun id r hl => ?_, fun e mem alive => ?_, fun p attached noneCloses => ?_⟩
  · rw [(s.fieldStart_layersFrom o).length, State.latchedLayers_length, begun.layers]
    rfl
  · simpa only [due_iff, LayerRecord.names_iff, not_or] using State.fieldStart_record (o := o) hl
  · rw [State.fieldStart_eq]
    refine (State.fieldEnded_keepsNotices o _ e.port).mem ?_
    rw [taken]
    refine completion_mem_completeLatches mem ?_
    have same : ((s.fieldBegun o).ports.get e.port).status = (s.ports.get e.port).status := (begun.ports e.port).account.1
    exact same ▸ alive
  · obtain ⟨status, inFlight, owed⟩ := (begun.ports p).account
    obtain ⟨status', inFlight', owed'⟩ := completeLatches_account (o := o) (count := q.fieldCount + 1)
      (s := (s.fieldBegun o).latchesWritten o) q.latches (status.trans attached)
    rw [← taken] at status' inFlight' owed'
    have still (i : StreamId) : (((s.fieldBegun o).takeLatches o).streams.get i).state ≠ .closing := by
      rw [State.takeLatches_streams]
      exact mt (begun.closing i) (noneCloses i)
    obtain ⟨-, inFlight'', owed''⟩ := (State.fieldEnded_noticed (o := o) status' still).account
    constructor
    · exact inFlight''.trans (inFlight'.trans (congrArg (fun es => List.foldl _ es _) inFlight))
    · exact owed''.trans (owed'.trans (congrArg (· - _) owed))

end Sys2Proof.Machine
end

section
/-! SUPPORT. The line budget (chapter 3): which records cover a line, what one costs, the two orders of records, and what
is kept of them within a budget. -/

namespace Sys2Proof.Machine

/-! ## Coverage (R51, R52) -/

section
variable {w y : Nat}

theorem LayerCopy.row_eq_some {c : LayerCopy} {j : Nat} :
    c.row y = some j ↔ (c.dy ≤ y ∧ (y : Int) < c.dy + c.dh) ∧ (j : Int) = (y : Int) - c.dy := by
  simp only [LayerCopy.row, Option.ite_none_right_eq_some, Option.some.injEq]
  omega

theorem LayerCopy.span_eq_some {c : LayerCopy} {i0 i1 : Nat} : c.span w = some (i0, i1) ↔
    (i0 : Int) = max 0 (-c.dx) ∧ (i1 : Int) = min ((c.dw : Int) - 1) ((w : Int) - 1 - c.dx) ∧ i0 ≤ i1 := by
  simp only [LayerCopy.span, Option.ite_none_right_eq_some, Option.some.injEq, Prod.mk.injEq]
  omega

theorem lastIndex_eq (c : LayerCopy) (i1 sx : Nat) :
    lastIndex c i1 sx = min (i1 * sx / 65536 + if c.filter = .bilinear then 1 else 0) (c.crop.cw - 1) := by
  unfold lastIndex
  cases c.filter <;> rfl

/-- The model's cover of a record is what R51, R52 and R68 say of it. -/
theorem FieldLayer.cover_eq_some {l : FieldLayer} {c : Cover} : l.cover w y = some c ↔ l.Covers w y c := by
  constructor
  · intro h
    unfold FieldLayer.cover at h
    split at h
    next src j i0 i1 source row span =>
      obtain ⟨crosses, hj⟩ := LayerCopy.row_eq_some.mp row
      dsimp only at h
      split at h
      · nomatch h
      next inside =>
        obtain rfl := Option.some.inj h
        refine ⟨⟨source, rfl, rfl⟩, crosses, LayerCopy.span_eq_some.mp span, fun k hk => ?_, rfl,
          Nat.lt_of_not_le fun e => inside (.inr e), lastIndex_eq ..⟩
        obtain rfl : k = j := by omega
        exact ⟨rfl, rfl, Nat.lt_of_not_le fun e => inside (.inl e)⟩
    · nomatch h
  · rintro ⟨⟨source, id, copy⟩, crosses, span, row, first, inside, last⟩
    obtain ⟨j, hj⟩ : ∃ j : Nat, (j : Int) = (y : Int) - l.copy.dy := ⟨((y : Int) - l.copy.dy).toNat, by omega⟩
    obtain ⟨q, g, below⟩ := row j hj
    have rowEq : l.copy.row y = some j := LayerCopy.row_eq_some.mpr ⟨crosses, hj⟩
    have spanEq : l.copy.span w = some (c.i0, c.i1) := LayerCopy.span_eq_some.mpr span
    have outside : ¬ (l.copy.crop.ch ≤ j * c.src.sy / 65536 ∨ l.copy.crop.cw ≤ c.i0 * c.src.sx / 65536) := by omega
    simp only [FieldLayer.cover, source, rowEq, spanEq, if_neg outside, lastIndex_eq, weight]
    rw [← copy] at last
    rw [← id, ← copy, ← q, ← g, ← first, ← last]

theorem mem_covers {ls : List FieldLayer} {c : Cover} : c ∈ covers ls w y ↔ ∃ l ∈ ls, l.Covers w y c := by
  simp only [covers, List.mem_filterMap, FieldLayer.cover_eq_some]

theorem FieldLayer.Covers.unique {l : FieldLayer} {c c' : Cover} (h : l.Covers w y c) (h' : l.Covers w y c') : c' = c :=
  Option.some.inj ((FieldLayer.cover_eq_some.mpr h').symm.trans (FieldLayer.cover_eq_some.mpr h))

/-- The span of a covering record has a first column, and its last lies in the crop (R68, R69). -/
theorem FieldLayer.Covers.span_in_crop {l : FieldLayer} {c : Cover} (h : l.Covers w y c) :
    c.first ≤ c.last ∧ c.last < c.copy.crop.cw := by
  obtain ⟨⟨-, -, copy⟩, -, ⟨-, -, span⟩, -, first, inside, last⟩ := h
  have step : c.i0 * c.src.sx / 65536 ≤ c.i1 * c.src.sx / 65536 := Nat.div_le_div_right (Nat.mul_le_mul_right _ span)
  rw [copy]
  omega

/-- The visible columns of a covering record lie in its destination rectangle (R51). -/
theorem FieldLayer.Covers.columns_in_destination {l : FieldLayer} {c : Cover} (h : l.Covers w y c) :
    c.i1 < c.copy.dw := by
  obtain ⟨⟨-, -, copy⟩, -, ⟨-, hi, -⟩, -⟩ := h
  rw [copy]
  omega

end

/-! ## Cost (R68, Table 3-2) -/

theorem rowCost_bounds (f : Format) {span : Nat} (h : 0 < span) : span ≤ rowCost f span ∧ rowCost f span ≤ span * 4 := by
  cases f <;> simp only [rowCost] <;> omega

theorem Cover.cost_eq (c : Cover) :
    c.cost = rowCost c.src.format (c.last - c.first + 1) * (if c.copy.filter = .bilinear then 2 else 1) := by
  unfold Cover.cost
  cases c.copy.filter <;> rfl

theorem Cover.cost_bounds (c : Cover) : 0 < c.cost ∧ c.cost ≤ (c.last - c.first + 1) * 8 := by
  have h := rowCost_bounds c.src.format (show 0 < c.last - c.first + 1 by omega)
  rw [c.cost_eq]
  split <;> omega

/-! ## The two orders (R45, R70) -/

theorem Cover.below_iff {a b : Cover} :
    a.below b = true ↔ a.copy.z < b.copy.z ∨ (a.copy.z = b.copy.z ∧ a.id < b.id) := by
  simp [Cover.below]

/-- The place of a class in the shedding order (R70). -/
def LayerClass.rank : LayerClass → Nat
  | .essential => 0
  | .decorative => 1

theorem LayerClass.rank_lt_iff {a b : LayerClass} : a.rank < b.rank ↔ a = .essential ∧ b = .decorative := by
  cases a <;> cases b <;> decide

theorem LayerClass.rank_eq_iff {a b : LayerClass} : a.rank = b.rank ↔ a = b := by
  cases a <;> cases b <;> decide

theorem Cover.before_iff {a b : Cover} : a.before b = true ↔
    a.copy.cls.rank < b.copy.cls.rank ∨ (a.copy.cls.rank = b.copy.cls.rank ∧ b.below a = true) := by
  unfold Cover.before
  cases a.copy.cls <;> cases b.copy.cls <;> simp [LayerClass.rank]

theorem insertBy_eq_orderedInsert (r : Cover → Cover → Bool) (x : Cover) (xs : List Cover) :
    insertBy r x xs = xs.orderedInsert (fun a b => r a b = true) x := by
  induction xs with
  | nil => rfl
  | cons y ys ih => simp only [insertBy, List.orderedInsert, ih]

theorem orderBy_perm (r : Cover → Cover → Bool) (xs : List Cover) : (orderBy r xs).Perm xs := by
  have sort : orderBy r xs = xs.insertionSort (fun a b => r a b = true) := by
    induction xs with
    | nil => rfl
    | cons x xs ih => exact (insertBy_eq_orderedInsert r x _).trans (congrArg _ ih)
  exact sort ▸ xs.perm_insertionSort _

section
variable {r : Cover → Cover → Bool} (asymm : ∀ a b, r a b = true → r b a ≠ true)
  (trans : ∀ a b c, r a b = true → r b c = true → r a c = true)
include asymm trans

/-- Inserting a record keeps a list in which none is to come before an earlier one. -/
theorem insertBy_pairwise (x : Cover) {xs : List Cover} (sorted : xs.Pairwise (fun a b => r b a ≠ true)) :
    (insertBy r x xs).Pairwise (fun a b => r b a ≠ true) := by
  induction xs with
  | nil => exact List.pairwise_singleton ..
  | cons y ys ih =>
    obtain ⟨head, tail⟩ := List.pairwise_cons.mp sorted
    unfold insertBy
    split
    next first =>
      refine List.pairwise_cons.mpr ⟨fun b hb => ?_, sorted⟩
      rcases List.mem_cons.mp hb with rfl | hb
      · exact asymm _ _ first
      · exact fun e => head b hb (trans _ _ _ e first)
    next later =>
      refine List.pairwise_cons.mpr ⟨fun b hb => ?_, ih tail⟩
      rw [insertBy_eq_orderedInsert, List.mem_orderedInsert] at hb
      rcases hb with rfl | hb
      · exact later
      · exact head b hb

theorem orderBy_pairwise (xs : List Cover) : (orderBy r xs).Pairwise (fun a b => r b a ≠ true) := by
  induction xs with
  | nil => exact .nil
  | cons x xs ih => exact insertBy_pairwise asymm trans x ih

end

/-- The stacking order rises by z, then by layer id (R45). -/
theorem orderBy_below_pairwise (xs : List Cover) : (orderBy Cover.below xs).Pairwise
    (fun a b => a.copy.z < b.copy.z ∨ (a.copy.z = b.copy.z ∧ a.id ≤ b.id)) := by
  refine (orderBy_pairwise ?_ ?_ xs).imp ?_ <;> simp only [ne_eq, Cover.below_iff] <;> omega

/-- The shedding order has ESSENTIAL records first, and falls by z, then by layer id (R70). -/
theorem orderBy_before_pairwise (xs : List Cover) : (orderBy Cover.before xs).Pairwise (fun a b =>
    (a.copy.cls = .essential ∧ b.copy.cls = .decorative)
    ∨ (a.copy.cls = b.copy.cls ∧ (b.copy.z < a.copy.z ∨ (b.copy.z = a.copy.z ∧ b.id ≤ a.id)))) := by
  simp only [← LayerClass.rank_lt_iff]
  simp only [← LayerClass.rank_eq_iff]
  refine (orderBy_pairwise ?_ ?_ xs).imp ?_ <;> simp only [ne_eq, Cover.before_iff, Cover.below_iff] <;> omega

/-! ## Keeping and shedding (R70) -/

section
variable {budget : Nat}

theorem keepWithin_sublist (sum : Nat) (cs : List Cover) : (keepWithin budget sum cs).1.Sublist cs := by
  induction cs generalizing sum with
  | nil => exact .slnil
  | cons c cs ih =>
    unfold keepWithin
    split
    · exact (ih sum).cons c
    · exact (ih _).cons_cons c

/-- Every record is either kept or counted as shed. -/
theorem keepWithin_length (sum : Nat) (cs : List Cover) :
    (keepWithin budget sum cs).1.length + (keepWithin budget sum cs).2 = cs.length := by
  induction cs generalizing sum with
  | nil => rfl
  | cons c cs ih =>
    unfold keepWithin
    split
    · have := ih sum
      simp only [List.length_cons]
      omega
    · have := ih (sum + c.cost)
      simp only [List.length_cons]
      omega

/-- The running sum and the costs kept after it stay within the budget. -/
theorem keepWithin_sum_le {sum : Nat} (h : sum ≤ budget) (cs : List Cover) :
    sum + ((keepWithin budget sum cs).1.map (·.cost)).sum ≤ budget := by
  induction cs generalizing sum with
  | nil => exact h
  | cons c cs ih =>
    unfold keepWithin
    split
    · exact ih h
    next fits =>
      have := ih (Nat.not_lt.mp fits)
      simp only [List.map_cons, List.sum_cons]
      omega

/-- A record is kept exactly where its cost still fits beside those kept before it. -/
theorem keepWithin_concat (sum : Nat) (before : List Cover) (c : Cover) :
    let kept := (keepWithin budget sum before).1
    (keepWithin budget sum (before ++ [c])).1 =
      if sum + (kept.map (·.cost)).sum + c.cost ≤ budget then kept ++ [c] else kept := by
  induction before generalizing sum with
  | nil =>
    by_cases excess : budget < sum + c.cost
    · simp [keepWithin, excess]
    · simp [keepWithin, excess, Nat.not_lt.mp excess]
  | cons b bs ih =>
    by_cases excess : budget < sum + b.cost
    · simpa [keepWithin, excess] using ih sum
    · simp only [List.cons_append, keepWithin, excess, if_false, ih, List.map_cons, List.sum_cons, ← Nat.add_assoc]
      split <;> rfl

end

/-- Settles O47: the cover of a record by its definition, its cost by the format, the order by insertion, and what is kept by
induction on the records considered. -/
theorem lineBudgetRule : Obligations.LineBudgetRule := by
  refine ⟨fun ls w y c => mem_covers, fun l w y c c' => FieldLayer.Covers.unique, fun ls w y c hc => ?_,
    fun ls w y budget => ?_⟩
  · intro span row
    obtain ⟨l, -, h⟩ := mem_covers.mp hc
    obtain ⟨ordered, inside⟩ := h.span_in_crop
    obtain ⟨positive, bounded⟩ := c.cost_bounds
    have cost : c.cost = row * (if c.copy.filter = .bilinear then 2 else 1) := by
      rw [c.cost_eq]
      cases hf : c.src.format <;> simp only [rowCost, row, hf] <;> rfl
    exact ⟨ordered, cost, positive, fun crop => by omega⟩
  · refine ⟨orderBy Cover.before (covers ls w y), orderBy_perm .., orderBy_before_pairwise _, rfl, keepWithin_sublist ..,
      keepWithin_length .., ?_, ?_⟩
    · have within := keepWithin_sum_le (Nat.zero_le budget) (orderBy Cover.before (covers ls w y))
      rwa [Nat.zero_add] at within
    · intro before after c _
      simpa using keepWithin_concat (budget := budget) 0 before c

end Sys2Proof.Machine
end

section
/-! SUPPORT. COMPOSE LINE (chapter 3): the bursts read for a part of a line, what is counted of them, the pixels composed, and
the state that a part leaves. -/

namespace Sys2Proof.Machine

/-! ## Bursts read for a part of a line (R62, R63, R72) -/

theorem Memory.readRun_eq (d : Byte) (m : Memory) (a n : Nat) :
    m.readRun d a n = (List.range n).map (fun j => m.read d (a + j)) := by
  refine List.map_congr_left fun j hj => ?_
  have hj := List.mem_range.mp hj
  exact Memory.read_filter_of (fun x => decide (a ≤ x ∧ x < a + n)) (a + j) (by simpa using hj) m

theorem State.readBurst_eq (s : State) (r : BurstRead) : s.readBurst r =
    { id := r.id, row := r.row, burst := r.burst
      data := if s.errors.bad.contains r.burst.page || r.failed then none
              else some ((List.range 32).map (fun j =>
                s.frame.read Config.frameBlank (r.burst.page * 4096 + r.burst.offset + j))) } := by
  unfold State.readBurst
  rw [Memory.readRun_eq]
  rfl

theorem readOf_isSome (fs : List Fetched) (id row : Nat) (b : Burst) :
    (readOf fs id row b).isSome = fs.any (fun f => f.id == id && f.row == row && f.burst == b) := List.isSome_find?

theorem readOf_isNone (fs : List Fetched) (id row : Nat) (b : Burst) :
    (readOf fs id row b).isNone = !fs.any (fun f => f.id == id && f.row == row && f.burst == b) := by
  rw [← readOf_isSome, Option.not_isSome]

/-- The bursts read so far and those of further reads that are not read yet. -/
def State.readMore (s : State) (fs : List Fetched) (reads : List BurstRead) : List Fetched :=
  fs ++ (reads.filter (fun r => (readOf fs r.id r.row r.burst).isNone)).map s.readBurst

section
variable {s : State} {fs : List Fetched} {reads : List BurstRead}

/-- Every burst asked for has been read. -/
theorem State.readMore_knows {r : BurstRead} (h : r ∈ reads) :
    (readOf (s.readMore fs reads) r.id r.row r.burst).isSome = true := by
  rw [State.readMore, readOf_append, Option.isSome_or, Bool.or_eq_true, or_iff_not_imp_left]
  intro unread
  rw [readOf_isSome, List.any_eq_true]
  exact ⟨s.readBurst r, List.mem_map_of_mem (List.mem_filter.mpr ⟨h, by simpa using unread⟩), by simp [State.readBurst]⟩

/-- Bursts that no result and no bad page spoils have their bytes (R62, R63). -/
theorem State.readMore_intact (intact : ∀ f ∈ fs, f.data ≠ none) (bad : s.errors.bad = [])
    (good : ∀ r ∈ reads, r.failed = false) : ∀ f ∈ s.readMore fs reads, f.data ≠ none := by
  intro f hf
  rcases List.mem_append.mp hf with hf | hf
  · exact intact f hf
  · obtain ⟨r, hr, rfl⟩ := List.mem_map.mp hf
    simp [State.readBurst_eq, bad, good r (List.mem_filter.mp hr).1]

end

/-- The bursts a run of columns needs come without a failed result (log 13). -/
theorem Cover.failed_of_mem_needs {c : Cover} {xs : List Nat} {r : BurstRead} (h : r ∈ c.needs xs) : r.failed = false := by
  obtain ⟨_, -, h⟩ := List.mem_flatMap.mp (List.mem_dedup.mp h)
  obtain ⟨_, -, rfl⟩ := List.mem_map.mp h
  rfl

/-! ## Substituted samples (R64) -/

section
variable {s : State} {fs : List Fetched}

theorem Cover.countSamples_of_none {c : Cover} {p : Nat → Nat → Bool} (h : ∀ x y, p x y = false) : c.countSamples p = 0 := by
  simp [Cover.countSamples, h]

variable (intact : ∀ f ∈ fs, f.data ≠ none)
include intact

theorem data_of_readOf {id row : Nat} {b : Burst} {f : Fetched} (h : readOf fs id row b = some f) : f.data ≠ none :=
  intact f (List.mem_of_find?_eq_some h)

theorem Cover.sampleLost_intact (c : Cover) (x y : Nat) : c.sampleLost fs x y = false := by
  refine List.any_eq_false.mpr fun off _ => ?_
  cases h : readOf fs c.id y (c.src.burst off) with
  | none => simp
  | some f => simpa using data_of_readOf intact h

theorem lostSamples_intact (kept : List Cover) : lostSamples kept fs = 0 := by
  simp [lostSamples, Cover.countSamples_of_none, Cover.sampleLost_intact intact]

theorem State.sum_damageIn_intact (bad : s.errors.bad = []) (kept : List Cover) : (kept.map (s.damageIn fs)).sum = 0 := by
  refine List.sum_eq_zero fun d hd => ?_
  obtain ⟨c, -, rfl⟩ := List.mem_map.mp hd
  refine Cover.countSamples_of_none fun x y => Bool.eq_false_iff.mpr fun damaged => ?_
  obtain ⟨off, -, ⟨f, found, lost⟩ | ⟨-, inBad⟩⟩ := (State.sampleDamaged_iff x y).mp damaged
  · exact data_of_readOf intact found lost
  · rw [bad] at inBad
    nomatch inBad

end

/-! ## Pixels of a part (R66) -/

/-- A record leaves the pixels outside its destination rectangle (R51, R66). -/
theorem State.applyCover_outside {s : State} {fs : List Fetched} {ls : List FieldLayer} {w y x : Nat} {c : Cover}
    (h : c ∈ covers ls w y) (outside : (x : Int) < c.copy.dx ∨ c.copy.dx + c.copy.dw ≤ x) (dst : Rgb) :
    s.applyCover fs x dst c = dst := by
  obtain ⟨l, -, covering⟩ := mem_covers.mp h
  have := covering.columns_in_destination
  exact State.applyCover_uncovered (by omega)

theorem mem_covers_of_kept {ls : List FieldLayer} {w y budget : Nat} {c : Cover} (h : c ∈ (keptOn ls w y budget).1) :
    c ∈ covers ls w y :=
  (orderBy_perm _ _).mem_iff.mp ((keepWithin_sublist _ _).subset h)

/-- A column that no kept record reaches shows the background (R66). -/
theorem State.linePixel_background {s : State} {fs : List Fetched} {ls : List FieldLayer} {w y budget x : Nat}
    (background : Rgb) (outside : ∀ c ∈ (keptOn ls w y budget).1, (x : Int) < c.copy.dx ∨ c.copy.dx + c.copy.dw ≤ x) :
    s.linePixel fs background (keptOn ls w y budget).1 x = background := by
  refine List.foldlRecOn (motive := (· = background)) _ _ rfl fun dst same c hc => ?_
  have hc := (orderBy_perm _ _).mem_iff.mp hc
  rw [State.applyCover_outside (mem_covers_of_kept hc) (outside c hc), same]

/-- The work on the line under way, or that on a line not begun. -/
def OutputState.lineWork (q : OutputState) : LineWork := q.work.getD ⟨[], 0⟩

/-- The bursts read for the line under way once those of a part are (R72). -/
def State.partFetched (s : State) (o : OutputId) (reads : List BurstRead) : List Fetched :=
  s.readMore (s.outputs.get o).lineWork.fetched reads

/-- The columns a part composes: no more than are left of the line (R48). -/
def OutputState.partColumns (q : OutputState) (n : Nat) : List Nat :=
  List.range' q.lineWork.columns (min n (q.timing.width - q.lineWork.columns))

/-- The bursts that the columns of a part need (R72). -/
def OutputState.partNeeds (q : OutputState) (n : Nat) : List BurstRead :=
  q.kept.1.flatMap (fun c => c.needs (q.partColumns n))

/-- The pixels that a part of a line composes (R66). -/
def State.partPixels (s : State) (o : OutputId) (reads : List BurstRead) (n : Nat) : List Rgb :=
  let q := s.outputs.get o
  (q.partColumns n).map (s.linePixel (s.partFetched o reads) q.timing.background q.kept.1)

theorem OutputState.failed_of_mem_partNeeds {q : OutputState} {n : Nat} {r : BurstRead} (h : r ∈ q.partNeeds n) :
    r.failed = false := by
  obtain ⟨c, -, h⟩ := List.mem_flatMap.mp h
  exact Cover.failed_of_mem_needs h

section
variable {s : State} {o : OutputId} {reads : List BurstRead} {n : Nat}

theorem State.length_partPixels : (s.partPixels o reads n).length =
    min n ((s.outputs.get o).timing.width - (s.outputs.get o).lineWork.columns) := by
  simp [State.partPixels, OutputState.partColumns]

theorem State.getElem?_partPixels {j : Nat}
    (h : j < min n ((s.outputs.get o).timing.width - (s.outputs.get o).lineWork.columns)) :
    (s.partPixels o reads n)[j]? = some (s.linePixel (s.partFetched o reads) (s.outputs.get o).timing.background
      (s.outputs.get o).kept.1 ((s.outputs.get o).lineWork.columns + j)) := by
  simp only [State.partPixels, OutputState.partColumns, List.getElem?_map, List.getElem?_range' h, Option.map_some,
    Nat.one_mul]

end

/-! ## The state after a part of a line -/

/-- An output with pixels composed and its work on the line. -/
def OutputState.composed (q : OutputState) (next : Nat) (work : Option LineWork) (pixels : List Rgb) : OutputState :=
  { q with nextLine := next, work := work, ahead := q.ahead ++ pixels }

/-- The counters of an output once a part of its line is counted: the records shed count as the line begins (R64, R71). -/
def OutputState.counted (q : OutputState) (k : OutputCounters) (damage : Nat) : OutputCounters :=
  { k with shed := satAdd k.shed (if q.work = none then q.kept.2 else 0), damage := satAdd k.damage damage }

/-- The state with pixels composed on an output, its work on the line, and its counters. -/
def State.composed (s : State) (o : OutputId) (next : Nat) (work : Option LineWork) (pixels : List Rgb) (damage : Nat) :
    State :=
  let q := s.outputs.get o
  { s with
    outputs := s.outputs.set o (q.composed next work pixels)
    counters := { s.counters with output := s.counters.output.set o (q.counted (s.counters.output.get o) damage) } }

section
variable {s : State} {o : OutputId}

/-- Composing twice on one line: the second part sheds nothing more (R71). -/
theorem State.composed_composed (next next' : Nat) (w : LineWork) (work : Option LineWork) (ps ps' : List Rgb) (d d' : Nat) :
    (s.composed o next (some w) ps d).composed o next' work ps' d' = s.composed o next' work (ps ++ ps') (d + d') := by
  simp [State.composed, OutputState.composed, OutputState.counted, satAdd_satAdd]

/-- Reading bursts composes no pixel yet (R62, R63, R72). -/
theorem State.fetchLine_eq (s : State) (o : OutputId) (reads : List BurstRead) : s.fetchLine o reads =
    s.composed o (s.outputs.get o).nextLine (some ⟨s.partFetched o reads, (s.outputs.get o).lineWork.columns⟩) []
      (lostSamples (s.outputs.get o).kept.1 (s.partFetched o reads)
        - lostSamples (s.outputs.get o).kept.1 (s.outputs.get o).lineWork.fetched) := by
  simp only [State.composed, OutputState.composed, OutputState.counted, List.append_nil]
  cases h : (s.outputs.get o).work <;>
    simp [State.fetchLine, State.countLine_eq, State.partFetched, State.readMore, OutputState.lineWork, h]

/-- Further columns of a line under way (R66, R72). -/
theorem State.composeColumns_eq {w : LineWork} (under : (s.outputs.get o).work = some w) (xs : List Nat) :
    let q := s.outputs.get o
    let fs := s.readMore w.fetched (q.kept.1.flatMap (fun c => c.needs xs))
    s.composeColumns o xs = s.composed o q.nextLine (some ⟨fs, w.columns + xs.length⟩)
      (xs.map (s.linePixel w.fetched q.timing.background q.kept.1))
      (lostSamples q.kept.1 fs - lostSamples q.kept.1 w.fetched) := by
  simp [State.composeColumns, State.fetchLine_eq, State.composed, OutputState.composed, OutputState.counted,
    State.columnPixels, State.modOut, State.partFetched, OutputState.lineWork, under]

/-- The last columns of a line under way (R64, R66, R72). -/
theorem State.endLine_eq {w : LineWork} (under : (s.outputs.get o).work = some w) (xs : List Nat) :
    let q := s.outputs.get o
    s.endLine o xs = s.composed o (q.nextLine + 1) none
      (xs.map (s.linePixel w.fetched q.timing.background q.kept.1))
      ((q.kept.1.map (s.damageIn w.fetched)).sum - lostSamples q.kept.1 w.fetched) := by
  simp [State.endLine, State.composed, OutputState.composed, OutputState.counted, State.columnPixels,
    State.countLine_eq, under]

/-! ## The reads of a part, then its columns -/

variable (s o) (reads : List BurstRead)

theorem State.fetchLine_output : (s.fetchLine o reads).outputs.get o =
    { s.outputs.get o with work := some ⟨s.partFetched o reads, (s.outputs.get o).lineWork.columns⟩ } := by
  simp [State.fetchLine_eq, State.composed, OutputState.composed]

theorem State.fetchLine_kept : ((s.fetchLine o reads).outputs.get o).kept = (s.outputs.get o).kept := by
  rw [s.fetchLine_output]
  rfl

theorem State.fetchLine_linePixel : (s.fetchLine o reads).linePixel = s.linePixel := State.linePixel_congr rfl rfl rfl

theorem State.fetchLine_composeColumns (xs : List Nat) :
    let q := s.outputs.get o
    let fs := s.readMore (s.partFetched o reads) (q.kept.1.flatMap (fun c => c.needs xs))
    (s.fetchLine o reads).composeColumns o xs = s.composed o q.nextLine (some ⟨fs, q.lineWork.columns + xs.length⟩)
      (xs.map (s.linePixel (s.partFetched o reads) q.timing.background q.kept.1))
      (lostSamples q.kept.1 fs - lostSamples q.kept.1 q.lineWork.fetched) := by
  intro q fs
  have under := congrArg OutputState.work (s.fetchLine_output o reads)
  have lost : lostSamples q.kept.1 q.lineWork.fetched ≤ lostSamples q.kept.1 (s.partFetched o reads) :=
    lostSamples_append ..
  have lost' : lostSamples q.kept.1 (s.partFetched o reads) ≤ lostSamples q.kept.1 fs := lostSamples_append ..
  rw [State.composeColumns_eq under, s.fetchLine_kept, s.fetchLine_linePixel, s.fetchLine_output, s.fetchLine_eq,
    State.composed_composed, List.nil_append]
  exact congrArg (s.composed o _ _ _) ((Nat.add_comm ..).trans (Nat.sub_add_sub_cancel lost' lost))

theorem State.fetchLine_endLine (xs : List Nat) :
    let q := s.outputs.get o
    let fs := s.partFetched o reads
    (s.fetchLine o reads).endLine o xs = s.composed o (q.nextLine + 1) none
      (xs.map (s.linePixel fs q.timing.background q.kept.1))
      ((q.kept.1.map (s.damageIn fs)).sum - lostSamples q.kept.1 q.lineWork.fetched) := by
  intro q fs
  have under := congrArg OutputState.work (s.fetchLine_output o reads)
  have damaged : (s.fetchLine o reads).damageIn = s.damageIn := rfl
  have lost : lostSamples q.kept.1 q.lineWork.fetched ≤ lostSamples q.kept.1 fs := lostSamples_append ..
  have lost' : lostSamples q.kept.1 fs ≤ (q.kept.1.map (s.damageIn fs)).sum := lostSamples_le_damage ..
  rw [State.endLine_eq under, s.fetchLine_kept, s.fetchLine_linePixel, damaged, s.fetchLine_output, s.fetchLine_eq,
    State.composed_composed, List.nil_append]
  exact congrArg (s.composed o _ _ _) ((Nat.add_comm ..).trans (Nat.sub_add_sub_cancel lost' lost))

end

/-! ## One part of a line -/

/-- What one part of a line leaves (R48, R64, R72): where it reaches the last column, the next line, and the substituted
samples of the whole fetch windows to count; else the bursts its columns need, and the samples those leave substituted. -/
structure State.PartLeaves (s : State) (o : OutputId) (reads : List BurstRead) (n next : Nat) (work : Option LineWork)
    (rise : Nat) : Prop where
  ends : (s.outputs.get o).timing.width ≤ (s.outputs.get o).lineWork.columns + n →
    let q := s.outputs.get o
    next = q.nextLine + 1 ∧ work = none
    ∧ rise = (q.kept.1.map (s.damageIn (s.partFetched o reads))).sum - lostSamples q.kept.1 q.lineWork.fetched
  goesOn : ¬ (s.outputs.get o).timing.width ≤ (s.outputs.get o).lineWork.columns + n →
    let q := s.outputs.get o
    let fs := s.readMore (s.partFetched o reads) (q.partNeeds n)
    next = q.nextLine ∧ work = some ⟨fs, q.lineWork.columns + n⟩
    ∧ rise = lostSamples q.kept.1 fs - lostSamples q.kept.1 q.lineWork.fetched

section
variable {s : State} {o : OutputId} {reads : List BurstRead} {n : Nat}

theorem State.composeLine_idle (idle : (s.outputs.get o).timing.height ≤ (s.outputs.get o).nextLine ∨ (reads = [] ∧ n = 0)) :
    s.composeLine o reads n = s := if_pos idle

variable (left : (s.outputs.get o).nextLine < (s.outputs.get o).timing.height) (asked : reads ≠ [] ∨ n ≠ 0)
include left asked

theorem State.composeLine_active : s.composeLine o reads n =
    let q := s.outputs.get o
    let rest := q.timing.width - q.lineWork.columns
    if rest ≤ n then (s.fetchLine o reads).endLine o (List.range' q.lineWork.columns rest)
    else (s.fetchLine o reads).composeColumns o (List.range' q.lineWork.columns n) := by
  have start : ((s.outputs.get o).work.map (·.columns)).getD 0 = (s.outputs.get o).lineWork.columns := by
    cases h : (s.outputs.get o).work <;> simp [OutputState.lineWork, h]
  have active : ¬ ((s.outputs.get o).timing.height ≤ (s.outputs.get o).nextLine ∨ (reads = [] ∧ n = 0)) := by
    rintro (ended | ⟨none, zero⟩)
    · omega
    · exact asked.elim (· none) (· zero)
  dsimp only
  rw [← start]
  exact if_neg active

theorem State.composeLine_composed : ∃ (next : Nat) (work : Option LineWork) (rise : Nat),
    s.composeLine o reads n = s.composed o next work (s.partPixels o reads n) rise
    ∧ s.PartLeaves o reads n next work rise := by
  rw [State.composeLine_active left asked]
  by_cases ends : (s.outputs.get o).timing.width ≤ (s.outputs.get o).lineWork.columns + n
  · have rest := Nat.sub_le_iff_le_add'.mpr ends
    have columns := congrArg (List.range' (s.outputs.get o).lineWork.columns ·) (Nat.min_eq_right rest)
    refine ⟨_, none, _, ?_, fun _ => ⟨rfl, rfl, rfl⟩, fun more => absurd ends more⟩
    have composed := s.fetchLine_endLine o reads ((s.outputs.get o).partColumns n)
    exact (if_pos rest).trans ((congrArg (State.endLine o · _) columns.symm).trans composed)
  · have rest := mt Nat.sub_le_iff_le_add'.mp ends
    have columns := congrArg (List.range' (s.outputs.get o).lineWork.columns ·) (Nat.min_eq_left (Nat.le_of_not_le rest))
    have length : ((s.outputs.get o).partColumns n).length = n :=
      (congrArg List.length columns).trans List.length_range'
    refine ⟨_, some _, _, ?_, fun last => absurd last ends, fun _ => ⟨rfl, rfl, rfl⟩⟩
    have composed := s.fetchLine_composeColumns o reads ((s.outputs.get o).partColumns n)
    rw [length] at composed
    exact (if_neg rest).trans ((congrArg (State.composeColumns o · _) columns.symm).trans composed)

end

/-! ## Driving (R67) -/

theorem OutputState.drive_eq (q : OutputState) (d : Nat) :
    q.drive d = { q with line := (q.drive d).line, ahead := (q.drive d).ahead } := by
  rcases q.drive_cases d with ⟨-, e⟩ | ⟨-, -, e⟩ <;> rw [e]

/-- What driving does to the pixels composed and to the line on the panel. -/
theorem OutputState.drive_pixels (q : OutputState) (n : Nat) :
    let row := if q.line.length < q.timing.width then q.line else []
    let d := min n (q.timing.width - row.length)
    (d = 0 ∨ q.ahead = [] → (q.drive n).line = q.line ∧ (q.drive n).ahead = q.ahead)
    ∧ (d ≠ 0 → q.ahead ≠ [] → (q.drive n).line = row ++ q.ahead.take d ∧ (q.drive n).ahead = q.ahead.drop d) := by
  intro row d
  rcases q.drive_cases n with ⟨still, e⟩ | ⟨some, ahead, e⟩
  · rw [e]
    exact ⟨fun _ => ⟨rfl, rfl⟩, fun h h' => absurd still (by simp only [not_or]; exact ⟨h, h'⟩)⟩
  · rw [e]
    exact ⟨fun h => h.elim (absurd · some) (absurd · ahead), fun _ _ => ⟨rfl, rfl⟩⟩

/-- Driving after a part of a line. -/
theorem State.composed_drive (s : State) (o : OutputId) (next : Nat) (work : Option LineWork) (pixels : List Rgb)
    (damage d : Nat) :
    let q := s.outputs.get o
    (s.composed o next work pixels damage).modOut o (fun q => q.drive d) = { s with
      outputs := s.outputs.set o ((q.composed next work pixels).drive d)
      counters := { s.counters with output := s.counters.output.set o (q.counted (s.counters.output.get o) damage) } } := by
  simp [State.composed, State.modOut]

/-! ## Parts that substitute nothing (R64) -/

theorem State.PartLeaves.rise_intact {s : State} {o : OutputId} {reads : List BurstRead} {n next rise : Nat}
    {work : Option LineWork} (h : s.PartLeaves o reads n next work rise)
    (intact : ∀ f ∈ s.partFetched o reads, f.data ≠ none) (bad : s.errors.bad = []) : rise = 0 := by
  by_cases last : (s.outputs.get o).timing.width ≤ (s.outputs.get o).lineWork.columns + n
  · obtain ⟨-, -, hr⟩ := h.ends last
    rw [hr, State.sum_damageIn_intact intact bad, Nat.zero_sub]
  · obtain ⟨-, -, hr⟩ := h.goesOn last
    rw [hr, lostSamples_intact (State.readMore_intact intact bad fun _ => OutputState.failed_of_mem_partNeeds), Nat.zero_sub]

/-! ## An empty field layer set (R66) -/

section
variable {s : State} {o : OutputId} (empty : (s.outputs.get o).layers = [])
include empty

theorem OutputState.kept_of_no_layers : (s.outputs.get o).kept = ([], 0) := by
  simp [OutputState.kept, empty, keptOn, covers, orderBy, keepWithin]

theorem State.partPixels_of_no_layers (reads : List BurstRead) (n : Nat) : s.partPixels o reads n =
    List.replicate (min n ((s.outputs.get o).timing.width - (s.outputs.get o).lineWork.columns))
      (s.outputs.get o).timing.background := by
  refine List.eq_replicate_iff.mpr ⟨State.length_partPixels, fun pixel hp => ?_⟩
  obtain ⟨x, -, rfl⟩ := List.mem_map.mp hp
  rw [OutputState.kept_of_no_layers empty]
  rfl

theorem State.PartLeaves.rise_of_no_layers {reads : List BurstRead} {n next rise : Nat} {work : Option LineWork}
    (h : s.PartLeaves o reads n next work rise) : rise = 0 := by
  by_cases last : (s.outputs.get o).timing.width ≤ (s.outputs.get o).lineWork.columns + n
  · obtain ⟨-, -, hr⟩ := h.ends last
    rw [hr, OutputState.kept_of_no_layers empty]
    exact Nat.zero_sub _
  · obtain ⟨-, -, hr⟩ := h.goesOn last
    rw [hr, OutputState.kept_of_no_layers empty]
    exact Nat.zero_sub _

theorem OutputState.counted_of_no_layers (k : OutputCounters) : (s.outputs.get o).counted k 0 = k := by
  simp [OutputState.counted, OutputState.kept_of_no_layers empty]

end

/-! ## The command -/

section
variable {s : State} {o : OutputId} (part : LinePart)

theorem execComposeLine_stopped (stopped : (s.outputs.get o).running = false) : execComposeLine o part s = .next s :=
  if_pos (by simp [stopped])

theorem execComposeLine_running (awake : s.startUp.resetPin = false) (on : s.outputEnabled o = true)
    (running : (s.outputs.get o).running = true) : execComposeLine o part s =
      .next ((s.composeLine o part.reads part.columns).modOut o (fun q => q.drive part.drive)) :=
  if_neg (by simp [awake, on, running])

end

/-- Settles O48: the reads and the columns of a part leave `State.composed`, and driving moves pixels from the front of what
is composed to the line on the panel. -/
theorem composeLineTaken : Obligations.ComposeLineTaken := by
  intro s o part awake on q k kept w read known fs n row d drives
  have readSame : s.readBurst = read := funext s.readBurst_eq
  have more (gs : List Fetched) (rs : List BurstRead) :
      s.readMore gs rs = gs ++ (rs.filter (fun r => !known gs r)).map read := by
    simp only [State.readMore, readOf_isNone, readSame]
    rfl
  have fetched : s.partFetched o part.reads = fs := more ..
  refine ⟨execComposeLine_stopped part, fun running idle => ⟨q.drive part.drive, ?_, q.drive_pixels part.drive⟩,
    fun running left asked => ?_⟩
  · refine (execComposeLine_running part awake on running).trans (congrArg _ ?_)
    rw [State.composeLine_idle idle, State.modOut, OutputState.drive_eq]
  · obtain ⟨next, work, rise, composed, leaves⟩ := State.composeLine_composed left asked
    refine ⟨_, orderBy Cover.below kept.1, s.partPixels o part.reads part.columns,
      execComposeLine_running part awake on running, ?_⟩
    rw [composed, State.composed_drive]
    intro r last damage
    let q' := q.composed next work (s.partPixels o part.reads part.columns)
    have output : r = q'.drive part.drive := PerOutput.get_set ..
    have counted : damage = satAdd k.damage rise := congrArg OutputCounters.damage (PerOutput.get_set ..)
    have frame : r = { q' with line := r.line, ahead := r.ahead } := by rw [output, ← OutputState.drive_eq]
    have nextLine : r.nextLine = next := congrArg OutputState.nextLine frame
    have lineWork : r.work = work := congrArg OutputState.work frame
    refine ⟨?_, State.length_partPixels, output ▸ q'.drive_pixels part.drive, orderBy_perm .., orderBy_below_pairwise _,
      fun j hj => ?_, fun j hj outside => ?_, fun h => ?_, fun h => ?_, fun fresh => ?_, fun intact bad => ?_,
      fun empty => ⟨?_, ?_⟩⟩
    · rw [nextLine, lineWork, ← output, counted]
      conv_lhs => rw [frame]
      rfl
    · exact fetched ▸ State.getElem?_partPixels hj
    · exact (State.getElem?_partPixels hj).trans (congrArg some (State.linePixel_background _ outside))
    · obtain ⟨hn, hw, hr⟩ := leaves.ends h
      rw [fetched] at hr
      exact ⟨lineWork.trans hw, nextLine.trans hn, counted.trans (congrArg _ hr)⟩
    · obtain ⟨hn, hw, hr⟩ := leaves.goesOn h
      rw [fetched] at hw hr
      refine ⟨nextLine.trans hn, (q.partNeeds part.columns).filter (fun r => !known fs r), ?_⟩
      rw [← more]
      refine ⟨lineWork.trans hw, fun x hx => OutputState.failed_of_mem_partNeeds (List.mem_filter.mp hx).1,
        fun c hc x hx => ?_, counted.trans (congrArg _ hr)⟩
      exact (readOf_isSome ..).symm.trans (State.readMore_knows (List.mem_flatMap.mpr ⟨c, hc, hx⟩))
    · have begun : w.fetched = [] := by simp [w, fresh]
      rw [begun, lostSamples_nil]
    · rw [counted, leaves.rise_intact (fetched ▸ intact) bad, satAdd_zero]
    · exact State.partPixels_of_no_layers empty ..
    · rw [leaves.rise_of_no_layers empty, OutputState.counted_of_no_layers empty, PerOutput.set_get]

end Sys2Proof.Machine
end

section
/-! SUPPORT. The accumulator of field advances (R77): over `k` field starts the advances and what is left of the accumulator
are the quotient and the remainder of one division, so that no advance is lost. -/

namespace Sys2Proof.Machine

variable {q : OutputState} {k : Nat}

/-! ## One field start -/

/-- The accumulator keeps what the field advance leaves (R77). -/
theorem OutputState.advance_eq (q : OutputState) : q.advance =
    { q with fieldCount := q.fieldCount + 1, acc := (q.acc + q.timing.advanceN) % q.timing.advanceD } := by
  rw [OutputState.advance, Nat.mul_comm, ← Nat.mod_eq_sub_mul_div]

/-- The bounds that Table 4-1 sets on N and D of an enabled output (R77). -/
theorem TimingRecord.advance_bounds {t : TimingRecord} (on : t.enabled = true) :
    24 * t.advanceD ≤ t.advanceN ∧ t.advanceN ≤ 6039797760000 ∧ 0 < t.advanceD ∧ t.advanceD ≤ 300000000 := by
  simp only [TimingRecord.enabled, TimingRecord.inRange, Bool.and_eq_true, decide_eq_true_eq, and_assoc] at on
  obtain ⟨-, width, -, height, -, hlow, hhigh, vlow, vhigh, plow, phigh⟩ := on
  have least : 336 * 244 ≤ t.htotal * t.vtotal := Nat.mul_le_mul (by omega) (by omega)
  have most : t.htotal * t.vtotal ≤ 8192 * 8192 := Nat.mul_le_mul hhigh vhigh
  simp only [TimingRecord.advanceN, TimingRecord.advanceD, Nat.mul_assoc]
  omega

/-! ## Many field starts -/

/-- The closed form of `k` field starts on the field count and the accumulator (R77). -/
def OutputState.advanced (q : OutputState) (k : Nat) : OutputState :=
  { q with fieldCount := q.fieldCount + BitVec.ofNat 32 k, acc := k * q.timing.advanceN % q.timing.advanceD }

theorem OutputState.iterate_advance (zero : q.acc = 0) (k : Nat) : OutputState.advance^[k] q = q.advanced k := by
  induction k with
  | zero =>
    cases q
    simp_all [OutputState.advanced]
  | succ k ih =>
    rw [Function.iterate_succ_apply', ih, OutputState.advance_eq]
    simp [OutputState.advanced, Nat.succ_mul, BitVec.ofNat_add, BitVec.add_assoc]

/-- The advances of `k` field starts sum to the quotient whose remainder the accumulator holds (R77). -/
theorem OutputState.sum_fieldAdvance (zero : q.acc = 0) (pos : 0 < q.timing.advanceD) (k : Nat) :
    ((List.range k).map (fun j => (OutputState.advance^[j] q).fieldAdvance)).sum
      = k * q.timing.advanceN / q.timing.advanceD := by
  induction k with
  | zero => simp
  | succ k ih =>
    rw [List.range_succ, List.map_append, List.sum_append, ih, List.map_singleton, List.sum_singleton,
      OutputState.iterate_advance zero]
    calc k * q.timing.advanceN / q.timing.advanceD
          + (k * q.timing.advanceN % q.timing.advanceD + q.timing.advanceN) / q.timing.advanceD
        = (q.timing.advanceD * (k * q.timing.advanceN / q.timing.advanceD)
            + (k * q.timing.advanceN % q.timing.advanceD + q.timing.advanceN)) / q.timing.advanceD :=
          (Nat.mul_add_div pos _ _).symm
      _ = (k + 1) * q.timing.advanceN / q.timing.advanceD := by
          rw [← Nat.add_assoc, Nat.div_add_mod, Nat.succ_mul]

/-- An advance is the quotient of N and D or one more while the accumulator lies below D (R77). -/
theorem OutputState.fieldAdvance_bounds (less : q.acc < q.timing.advanceD) :
    q.timing.advanceN / q.timing.advanceD ≤ q.fieldAdvance
      ∧ q.fieldAdvance ≤ q.timing.advanceN / q.timing.advanceD + 1 := by
  constructor
  · exact Nat.div_le_div_right (Nat.le_add_left _ _)
  · calc q.fieldAdvance
        ≤ (q.timing.advanceN + q.timing.advanceD) / q.timing.advanceD := Nat.div_le_div_right (by omega)
      _ = q.timing.advanceN / q.timing.advanceD + 1 := Nat.add_div_right _ (by omega)

/-- Settles O45: the timing starts with an empty accumulator, and the closed form gives the sum and the bounds. -/
theorem fieldAdvanceSum : Obligations.FieldAdvanceSum := by
  intro q st k on at' n d
  have zero : (q.start st).acc = 0 := rfl
  obtain ⟨low, nHigh, pos, dHigh⟩ := TimingRecord.advance_bounds on
  have form : at' k = (q.start st).advanced k :=
    OutputState.iterate_advance zero k
  have less : (at' k).acc < d := by rw [form]; exact Nat.mod_lt _ pos
  have timing : (at' k).timing = q.timing := by rw [form]; rfl
  have bounds := OutputState.fieldAdvance_bounds (q := at' k) (by rw [timing]; exact less)
  rw [timing] at bounds
  obtain ⟨least, most⟩ := bounds
  refine ⟨OutputState.sum_fieldAdvance zero pos k, less, ?_, least, most, ?_, nHigh, dHigh⟩
  · rw [form]
    exact BitVec.zero_add _
  · exact ((Nat.le_div_iff_mul_le pos).mpr low).trans least

end Sys2Proof.Machine
end

section
/-! SUPPORT. Events that reach no more than the ports (R178, R179), and SET PANEL by its owning block (R79 to R81): what a
notice offered to both ports leaves, the target of two wishes, and the wake of an ASLEEP output. -/

namespace Sys2Proof.Machine

variable {s t u : State} {p p' : Port} {o : OutputId} {f : Frame} {rest : List Frame} {w : Wish}

/-! ## Changes of the ports only -/

/-- Whether nothing differs but the ports and their counters. -/
def State.LinkedTo (s t : State) : Prop :=
  ∃ ps k, t = { s with ports := ps, counters := { s.counters with port := k } }

theorem State.linkedTo_refl (s : State) : s.LinkedTo s := ⟨_, _, rfl⟩

theorem State.LinkedTo.trans (h : s.LinkedTo t) (k : t.LinkedTo u) : s.LinkedTo u := by
  obtain ⟨_, _, rfl⟩ := h
  obtain ⟨_, _, rfl⟩ := k
  exact ⟨_, _, rfl⟩

theorem State.modPort_linked (p : Port) (f : PortState → PortState) (s : State) : s.LinkedTo (s.modPort p f) :=
  ⟨_, _, rfl⟩

theorem State.notify_linked (p : Port) (n : Notice) (s : State) : s.LinkedTo (s.notify p n) := by
  rcases s.notify_cases p n with ⟨-, e⟩ | ⟨-, -, e⟩ | ⟨-, -, e⟩ <;> rw [e]
  · exact s.linkedTo_refl
  · exact s.modPort_linked p _
  · exact ⟨_, _, rfl⟩

theorem State.notifyIf_linked (x : Topic) (p : Port) (n : Notice) (s : State) : s.LinkedTo (s.notifyIf x p n) := by
  unfold State.notifyIf
  split
  · exact s.notify_linked p n
  · exact s.linkedTo_refl

theorem State.publish_linked (x : Topic) (n : Notice) (s : State) : s.LinkedTo (s.publish x n) :=
  (s.notifyIf_linked x .a n).trans (State.notifyIf_linked x .b n _)

theorem State.deliver_linked (p : Port) (n : Notice) (s : State) : s.LinkedTo (s.deliver p n) := by
  unfold State.deliver
  split
  · exact s.linkedTo_refl
  · exact s.modPort_linked p _

/-! ## A notice offered to both ports (R179, R180) -/

theorem State.notifyIf_get_ne (ne : p' ≠ p) (x : Topic) (n : Notice) (s : State) :
    (s.notifyIf x p n).ports.get p' = s.ports.get p' := by
  unfold State.notifyIf
  split
  · rcases s.notify_cases p n with ⟨-, e⟩ | ⟨-, -, e⟩ | ⟨-, -, e⟩ <;> simp [e, PerPort.get_set_ne _ _ _ _ ne]
  · rfl

/-- A port that subscribes to a topic and has room queues the notice (R179). -/
theorem State.notifyIf_get {x : Topic} (h : (s.ports.get p).hears x.bit 1) (n : Notice) :
    (s.notifyIf x p n).ports.get p = (s.ports.get p).join n := by
  obtain ⟨attached, subscribed, room⟩ := h
  have room' : (s.ports.get p).notices.length + (s.ports.get p).owed < noticeRoom := by unfold noticeRoom; omega
  rw [State.notifyIf, PortState.subscribed, if_pos subscribed]
  simp [State.notify, attached, room']

theorem State.publish_get {x : Topic} (h : (s.ports.get p).hears x.bit 1) (n : Notice) :
    (s.publish x n).ports.get p = (s.ports.get p).join n := by
  unfold State.publish
  cases p with
  | a => rw [State.notifyIf_get_ne (by decide), State.notifyIf_get h]
  | b =>
    have same := s.notifyIf_get_ne (p := .a) (p' := .b) (by decide) x n
    rw [State.notifyIf_get (by rw [same]; exact h), same]

/-- A port that took the frame at its head and notices, and then the completion of that frame (R177, R178). -/
theorem PortState.noticed.answered {q r : PortState} (h : ({ q with queue := rest } : PortState).noticed r) (n : Notice) :
    q.completed { r.join n with owed := r.owed - 1 } rest n := by
  obtain ⟨notices, lost, e⟩ := h
  refine ⟨⟨notices.trans (List.prefix_append _ _), lost, ?_⟩, by simp⟩
  rw [e]
  rfl

/-! ## The target of an output (R79, Table 4-4) -/

theorem Wish.ofCode_eq_none {n : Nat} (h0 : n ≠ 0) (h1 : n ≠ 1) (h3 : n ≠ 3) : Wish.ofCode n = none := by
  unfold Wish.ofCode
  split <;> simp_all

theorem Wish.max_comm (w v : Wish) : w.max v = v.max w := by cases w <;> cases v <;> rfl

/-- The more awake of two wishes, level by level. -/
theorem Wish.max_eq (w v : Wish) : w.max v =
    if w = .active ∨ v = .active then .active else if w = .blanked ∨ v = .blanked then .blanked else .asleep := by
  cases w <;> cases v <;> rfl

/-- The target once a port has a wish: that wish, or the more awake of it and the other port's. -/
theorem panelTarget_set (ws : PerPort (Option Wish)) (p : Port) (w : Wish) : panelTarget (ws.set p (some w)) =
    if w = .active ∨ ws.get p.other = some .active then .active
    else if w = .blanked ∨ ws.get p.other = some .blanked then .blanked else .asleep := by
  have two : panelTarget (ws.set p (some w)) = (ws.get p.other).elim w w.max := by
    obtain ⟨a, b⟩ := ws
    cases p with
    | a => cases b <;> rfl
    | b =>
      cases a with
      | none => rfl
      | some v => exact Wish.max_comm v w
  rw [two]
  cases ws.get p.other with
  | none => cases w <;> rfl
  | some v => simpa using Wish.max_eq w v

/-! ## A change of target (R81) -/

theorem State.targetChanged_awake (h : (s.outputs.get o).panel ≠ .asleep ∨ w = .asleep) : s.targetChanged o w = s := by
  unfold State.targetChanged
  rcases h with awake | rfl
  · rw [if_neg awake]
  · split <;> rfl

/-- An ASLEEP output starts its timing in WAKING or BLANKED, and says so (R81). -/
theorem State.targetChanged_asleep (h : (s.outputs.get o).panel = .asleep) (ne : w ≠ .asleep) : s.targetChanged o w =
    (s.modOut o (fun q => q.start (if w = .active then .waking else .blanked))).panelNotice o := by
  unfold State.targetChanged
  rw [if_pos h]
  cases w with
  | active => rfl
  | blanked => rfl
  | asleep => exact absurd rfl ne

/-- The state in which a port's wish for an output is replaced (R79). -/
def State.withWish (s : State) (p : Port) (w : Wish) (o : OutputId) : State :=
  s.modOut o (fun q => { q with wishes := q.wishes.set p (some w) })

theorem State.setWish_of_enabled (on : s.outputEnabled o = true) : s.setWish p (some w) o =
    if panelTarget ((s.outputs.get o).wishes.set p (some w)) = panelTarget (s.outputs.get o).wishes then s.withWish p w o
    else (s.withWish p w o).targetChanged o (panelTarget ((s.outputs.get o).wishes.set p (some w))) := by
  rw [State.setWish, if_pos on]
  simp [State.withWish]

/-- A wish that does not wake an output changes no more than the wish (R81). -/
theorem State.setWish_stays (on : s.outputEnabled o = true)
    (stays : (s.outputs.get o).panel ≠ .asleep ∨ panelTarget ((s.outputs.get o).wishes.set p (some w)) = .asleep
      ∨ panelTarget ((s.outputs.get o).wishes.set p (some w)) = panelTarget (s.outputs.get o).wishes) :
    s.setWish p (some w) o = s.withWish p w o := by
  rw [State.setWish_of_enabled on]
  split
  · rfl
  · next ne =>
    refine State.targetChanged_awake ?_
    rcases stays with awake | asleep | same
    · exact .inl (by simpa [State.withWish] using awake)
    · exact .inr asleep
    · exact absurd same ne

/-- A wish that wakes an output starts its timing (R81). -/
theorem State.setWish_wakes (on : s.outputEnabled o = true) (asleep : (s.outputs.get o).panel = .asleep)
    (ne : panelTarget ((s.outputs.get o).wishes.set p (some w)) ≠ .asleep)
    (changes : panelTarget ((s.outputs.get o).wishes.set p (some w)) ≠ panelTarget (s.outputs.get o).wishes) :
    s.setWish p (some w) o = ((s.withWish p w o).modOut o (fun q => q.start
      (if panelTarget ((s.outputs.get o).wishes.set p (some w)) = .active then .waking else .blanked))).panelNotice o := by
  rw [State.setWish_of_enabled on, if_neg changes, State.targetChanged_asleep (by simpa [State.withWish] using asleep) ne]

/-! ## SET PANEL (R80) -/

/-- An accepted SET PANEL answers with both wishes and the output as the wish leaves it (R80). -/
theorem setPanel_accepted (code : Wish.ofCode (u8 f.payload 1) = some w)
    (output : u.enabledOutput (u8 f.payload 0) = some o) : setPanel p f u =
      let q := (u.setWish p (some w) o).outputs.get o
      (u.setWish p (some w) o).complete p f .ok
        (.panel o (q.wishes.get p) (q.wishes.get p.other) (panelTarget q.wishes) q.panel q.forcedBlank) := by
  simp only [setPanel, code, output]

@[simp] theorem State.dequeued_outputs : (s.dequeued p rest).outputs = s.outputs := rfl

section
variable (takes : Takes s p .setPanel f rest) (code : Wish.ofCode (u8 f.payload 1) = some w)
  (number : u8 f.payload 0 = outputNum o) (on : s.outputEnabled o = true)
include takes code number on

/-- SET PANEL where the wish does not wake the output (R80, R81). -/
theorem exec_setPanel_stays (stays : (s.outputs.get o).panel ≠ .asleep
      ∨ panelTarget ((s.outputs.get o).wishes.set p (some w)) = .asleep
      ∨ panelTarget ((s.outputs.get o).wishes.set p (some w)) = panelTarget (s.outputs.get o).wishes) :
    exec (.setPanel p) s =
      let q := s.outputs.get o
      let new := q.wishes.set p (some w)
      .next { s.answered p f rest .ok
                (.panel o (some w) (q.wishes.get p.other) (panelTarget new) q.panel q.forcedBlank) with
              outputs := s.outputs.set o { q with wishes := new } } := by
  have output : (s.dequeued p rest).enabledOutput (u8 f.payload 0) = some o := number ▸ State.enabledOutput_outputNum on
  have accepted := setPanel_accepted (p := p) code output
  rw [State.setWish_stays (s := s.dequeued p rest) on stays] at accepted
  rw [exec, execSetPanel, takes.completes accepted rfl]
  simp [State.withWish, State.answered, State.dequeued]

/-- SET PANEL where the wish wakes the output (R81, R84): the notice of the new panel state comes before the completion. -/
theorem exec_setPanel_wakes (asleep : (s.outputs.get o).panel = .asleep)
    (ne : panelTarget ((s.outputs.get o).wishes.set p (some w)) ≠ .asleep)
    (changes : panelTarget ((s.outputs.get o).wishes.set p (some w)) ≠ panelTarget (s.outputs.get o).wishes) :
    let q := s.outputs.get o
    let new := q.wishes.set p (some w)
    let panel : PanelState := if panelTarget new = .active then .waking else .blanked
    let woken := (s.dequeued p rest).modOut o (fun q => OutputState.start { q with wishes := q.wishes.set p (some w) } panel)
    exec (.setPanel p) s = .next ((woken.publish .panelState (.panelState o panel q.forcedBlank 0)).complete p f .ok
      (.panel o (some w) (q.wishes.get p.other) (panelTarget new) panel q.forcedBlank)) := by
  intro q new panel woken
  have output : (s.dequeued p rest).enabledOutput (u8 f.payload 0) = some o := number ▸ State.enabledOutput_outputNum on
  have accepted := setPanel_accepted (p := p) code output
  have told : (s.dequeued p rest).setWish p (some w) o =
      woken.publish .panelState (.panelState o panel q.forcedBlank 0) := by
    rw [State.setWish_wakes (s := s.dequeued p rest) on asleep ne changes]
    simp only [State.withWish, State.modOut_modOut, State.panelNotice, State.modOut_outputs, PerOutput.get_set]
    rfl
  have outputs : (woken.publish .panelState (.panelState o panel q.forcedBlank 0)).outputs = woken.outputs := by
    obtain ⟨_, _, e⟩ := State.publish_linked .panelState (.panelState o panel q.forcedBlank 0) woken
    rw [e]
  rw [exec, execSetPanel, takes.taking]
  refine congrArg Host.Outcome.next (accepted.trans ?_)
  rw [told, outputs]
  simp [woken, q, new, OutputState.start]

end

/-- Settles O41: the new wish gives the target, and only a change of target of an ASLEEP output does more than replace the
wish. -/
theorem setPanelTaken : Obligations.SetPanelTaken := by
  intro s p f rest n w takes payload
  have first : u8 f.payload 0 = n.toNat := by rw [payload]; rfl
  have second : u8 f.payload 1 = w.toNat := by rw [payload]; rfl
  refine ⟨fun h0 h1 h3 => ?_, fun wish number => ?_⟩
  · have none : Wish.ofCode (u8 f.payload 1) = none := second ▸ Wish.ofCode_eq_none h0 h1 h3
    exact congrArg Host.Outcome.next (takes.answers (by simp only [setPanel, none]))
  have code : Wish.ofCode (u8 f.payload 1) = some wish := by rw [second, number]; cases wish <;> rfl
  refine ⟨fun off => ?_, fun o output on => ?_⟩
  · have none : (s.dequeued p rest).enabledOutput (u8 f.payload 0) = none := State.enabledOutput_eq_none (first ▸ off)
    exact congrArg Host.Outcome.next (takes.answers (by simp only [setPanel, code, none]))
  intro q other new target
  have settled : target = panelTarget new := (panelTarget_set q.wishes p wish).symm
  rw [settled]
  refine ⟨exec_setPanel_stays takes code (first.trans output) on, ?_⟩
  intro asleep awake changes panel
  refine ⟨_, exec_setPanel_wakes takes code (first.trans output) on asleep awake changes, ?_⟩
  set woken := (s.dequeued p rest).modOut o _
  set notice := Notice.panelState o panel q.forcedBlank 0
  have ports := (woken.leavesLatches_refl.publish .panelState notice).ports
  have alive : ((woken.publish .panelState notice).ports.get p).status ≠ .resetting := by
    rw [(ports p).account.1]; simpa [woken, State.dequeued] using takes.ne_resetting
  obtain ⟨_, _, frame⟩ := (woken.publish_linked .panelState notice).trans (State.deliver_linked p
    (.completion f.tag f.code .ok none (.panel o (some wish) other (panelTarget new) panel q.forcedBlank)) _)
  have here : woken.ports.get p = { s.ports.get p with queue := rest } := by simp [woken, State.dequeued]
  have there : woken.ports.get p.other = s.ports.get p.other := by simp [woken, State.dequeued]
  rw [State.complete]
  refine ⟨?_, ?_, ?_, fun hears => ?_⟩
  · rw [frame]
    rfl
  all_goals
    rw [State.deliver_of_ne _ alive]
    simp only [State.modPort_ports, PerPort.get_set, PerPort.get_other_set]
  · exact PortState.noticed.answered (here ▸ ports p) _
  · exact there ▸ ports p.other
  · rw [State.publish_get (x := .panelState) (there.symm ▸ hears)]
    simp

end Sys2Proof.Machine
end

section
/-! SUPPORT. What the events of a field may change (R75, R101, R106, R169): the streams, the ports and their counters, and of a
port in the part's service its notices and the account of its commands. -/

namespace Sys2Proof.Machine

variable {s t u : State} {p p' : Port} {o : OutputId} {i : StreamId} {q r v : PortState}

/-! ## Completions and teardowns (R169, R171, R178) -/

theorem State.completeHeld_linked (p : Port) (c : Cmd) (tag : Byte) (st : Status) (reason : Option PlaceholderReason)
    (res : Result) (s : State) : s.LinkedTo (s.completeHeld p c tag st reason res) :=
  (s.modPort_linked p _).trans (State.deliver_linked p _ _)

theorem completeLatches_linked (o : OutputId) (count : Word32) (es : List LatchEntry) (s : State) :
    s.LinkedTo (completeLatches o count es s) :=
  foldl_keeps (P := s.LinkedTo) (fun t _ ht => ht.trans (t.completeHeld_linked _ _ _ _ _ _)) es s.linkedTo_refl

theorem State.settlePort_linked (p : Port) (s : State) : s.LinkedTo (s.settlePort p) := by
  unfold State.settlePort
  dsimp only
  split
  · split
    · split
      · exact ((s.completeHeld_linked _ _ _ _ _ _).trans (State.modPort_linked p _ _)).trans
          (State.notifyIf_linked _ _ _ _)
      · exact s.linkedTo_refl
    · exact s.linkedTo_refl
  · split
    · split
      · exact s.modPort_linked p _
      · exact (s.modPort_linked p _).trans (State.notifyIf_linked _ _ _ _)
    · exact s.linkedTo_refl
  · exact s.linkedTo_refl

theorem State.settle_linked (s : State) : s.LinkedTo s.settle :=
  (s.settlePort_linked .a).trans (State.settlePort_linked .b _)

/-! ## Changes of the streams and the ports only -/

/-- Whether nothing differs but the streams, the ports and the counters of both. -/
def State.StreamedTo (s t : State) : Prop := ∃ st ps k k',
  t = { s with streams := st, ports := ps, counters := { s.counters with stream := k, port := k' } }

theorem State.LinkedTo.streamed (h : s.LinkedTo t) : s.StreamedTo t := by
  obtain ⟨_, _, rfl⟩ := h
  exact ⟨_, _, _, _, rfl⟩

theorem State.StreamedTo.trans (h : s.StreamedTo t) (k : t.StreamedTo u) : s.StreamedTo u := by
  obtain ⟨_, _, _, _, rfl⟩ := h
  obtain ⟨_, _, _, _, rfl⟩ := k
  exact ⟨_, _, _, _, rfl⟩

theorem State.StreamedTo.surfaces (h : s.StreamedTo t) : t.surfaces = s.surfaces := by
  obtain ⟨_, _, _, _, rfl⟩ := h; rfl

theorem State.StreamedTo.layers (h : s.StreamedTo t) : t.layers = s.layers := by
  obtain ⟨_, _, _, _, rfl⟩ := h; rfl

theorem State.StreamedTo.outputs (h : s.StreamedTo t) : t.outputs = s.outputs := by
  obtain ⟨_, _, _, _, rfl⟩ := h; rfl

theorem State.StreamedTo.cache (h : s.StreamedTo t) : t.cache = s.cache := by
  obtain ⟨_, _, _, _, rfl⟩ := h; rfl

theorem State.streamedTo_refl (s : State) : s.StreamedTo s := s.linkedTo_refl.streamed

theorem State.modStream_streamed (i : StreamId) (f : StreamRecord → StreamRecord) (s : State) :
    s.StreamedTo (s.modStream i f) := ⟨_, _, _, _, rfl⟩

theorem State.slotFreed_linked (i : StreamId) (k : Nat) (s : State) : s.LinkedTo (s.slotFreed i k) := by
  unfold State.slotFreed
  split
  · exact s.notify_linked _ _
  · exact s.linkedTo_refl

theorem State.emptySlot_streamed (i : StreamId) (k : Nat) (s : State) : s.StreamedTo (s.emptySlot i k) :=
  (s.modStream_streamed i _).trans (State.slotFreed_linked i k _).streamed

theorem State.releaseSlot_streamed (i : StreamId) (k : Nat) (s : State) : s.StreamedTo (s.releaseSlot i k) := by
  unfold State.releaseSlot
  split
  · split
    · exact s.modStream_streamed i _
    · exact s.emptySlot_streamed i k
  · exact s.streamedTo_refl

theorem State.selectFrame_streamed (i : StreamId) (s : State) : s.StreamedTo (s.selectFrame i) := by
  unfold State.selectFrame
  dsimp only
  have counted : s.StreamedTo (s.modCounters (fun c => c.onStream i (selectionCounters (s.streams.get i)))) :=
    ⟨_, _, _, _, rfl⟩
  split
  · exact counted
  · have loop {u : State} (hu : s.StreamedTo u) (ks : List Nat) :
        s.StreamedTo (ks.foldl (fun u k => u.releaseSlot i k) u) :=
      foldl_keeps (P := s.StreamedTo) (fun u k hu => hu.trans (u.releaseSlot_streamed i k)) ks hu
    split
    · exact (loop (counted.trans (State.modStream_streamed i _ _)) _).trans (State.releaseSlot_streamed i _ _)
    · exact loop (counted.trans (State.modStream_streamed i _ _)) _

theorem State.streamField_streamed (i : StreamId) (o : OutputId) (advance : Nat) (s : State) :
    s.StreamedTo (s.streamField i o advance) := by
  unfold State.streamField
  dsimp only
  split
  · exact s.streamedTo_refl
  · split
    · exact ((s.modStream_streamed i _).trans (State.selectFrame_streamed i _)).trans
        (State.publish_linked _ _ _).streamed
    · exact (s.modStream_streamed i _).trans (State.selectFrame_streamed i _)
    · exact s.selectFrame_streamed i
    · exact s.streamedTo_refl

/-- The state in which the RELEASING slots of a stream that no hold set names are EMPTY, the close it may finish apart
(R101). -/
def State.slotsReleased (i : StreamId) (s : State) : State :=
  (s.releasableSlots i).foldl (fun t k => t.emptySlot i k) s

theorem State.releaseStream_eq (i : StreamId) (s : State) : s.releaseStream i = (s.slotsReleased i).finishClose i := rfl

theorem State.slotsReleased_streamed (i : StreamId) (s : State) : s.StreamedTo (s.slotsReleased i) :=
  foldl_keeps (P := s.StreamedTo) (fun t k ht => ht.trans (t.emptySlot_streamed i k)) _ s.streamedTo_refl

/-- The state in which a close ended, the completion of its CLOSE STREAM apart (R106, R107). -/
def State.streamClosed (i : StreamId) (s : State) : State :=
  ((detachSlots (s.streams.get i).slots s).modStream i
    (fun _ => { StreamRecord.reset with clock := (s.streams.get i).clock })).streamNotice i

/-- What the end of a close can do (R106). -/
theorem State.finishClose_cases (i : StreamId) (s : State) : s.finishClose i = s ∨ s.finishClose i = s.streamClosed i
    ∨ ∃ p tag, s.finishClose i = (s.streamClosed i).completeHeld p .closeStream tag .ok none (.closed i) := by
  unfold State.finishClose
  dsimp only
  split
  · split
    · exact .inr (.inr ⟨_, _, rfl⟩)
    · exact .inr (.inl rfl)
  · exact .inl rfl

/-- A close that ends detaches surfaces, and then changes no more than its stream and the ports. -/
theorem State.finishClose_detached (i : StreamId) (s : State) :
    ∃ xs, (detachSlots xs s).StreamedTo (s.finishClose i) := by
  have closed : (detachSlots (s.streams.get i).slots s).StreamedTo (s.streamClosed i) :=
    (State.modStream_streamed i _ _).trans (State.publish_linked _ _ _).streamed
  rcases s.finishClose_cases i with e | e | ⟨p, tag, e⟩ <;> rw [e]
  · exact ⟨[], s.streamedTo_refl⟩
  · exact ⟨_, closed⟩
  · exact ⟨_, closed.trans (State.completeHeld_linked _ _ _ _ _ _ _).streamed⟩

/-! ## Ports in service (R178, R179) -/

/-- A port that only took notices and completions: its queue of notices grew at the tail, its timers and its attention line
followed, and entries of its in-flight table were freed. -/
def PortState.served (q r : PortState) : Prop :=
  q.notices <+: r.notices ∧ q.lost ≤ r.lost
    ∧ r = { q with
            inFlight := r.inFlight, notices := r.notices, owed := r.owed, lost := r.lost, quiet := r.quiet, hold := r.hold
            attention := r.attention }

theorem PortState.served_refl (q : PortState) : q.served q := ⟨List.prefix_rfl, Nat.le_refl _, rfl⟩

theorem PortState.served.trans (h : q.served r) (k : r.served v) : q.served v := by
  obtain ⟨notices, lost, e⟩ := h
  obtain ⟨notices', lost', e'⟩ := k
  refine ⟨notices.trans notices', lost.trans lost', e'.trans ?_⟩
  rw [e]

theorem PortState.noticed.served (h : q.noticed r) : q.served r := by
  obtain ⟨notices, lost, e⟩ := h
  refine ⟨notices, lost, ?_⟩
  rw [e]

theorem PortState.served.status (h : q.served r) : r.status = q.status := by rw [h.2.2]
theorem PortState.served.mask (h : q.served r) : r.mask = q.mask := by rw [h.2.2]
theorem PortState.served.cancelled (h : q.served r) : r.cancelled = q.cancelled := by rw [h.2.2]
theorem PortState.served.resetLine (h : q.served r) : r.resetLine = q.resetLine := by rw [h.2.2]

/-- Whether both ports only took notices and completions, from `s` to `t`. -/
def State.Serves (s t : State) : Prop := ∀ p, (s.ports.get p).served (t.ports.get p)

theorem State.serves_of_ports (e : t.ports = s.ports) : s.Serves t := fun p => by
  rw [e]; exact PortState.served_refl _

theorem State.Serves.trans (h : s.Serves t) (k : t.Serves u) : s.Serves u := fun p => (h p).trans (k p)

theorem State.LeavesLatches.serves (h : s.LeavesLatches t) : s.Serves t := fun p => (h.ports p).served

theorem State.publish_serves (x : Topic) (n : Notice) (s : State) : s.Serves (s.publish x n) :=
  (s.leavesLatches_refl.publish x n).serves

theorem State.completeHeld_serves (p : Port) (c : Cmd) (tag : Byte) (st : Status) (reason : Option PlaceholderReason)
    (res : Result) (s : State) : s.Serves (s.completeHeld p c tag st reason res) := fun p' => by
  by_cases e : p' = p
  · subst e
    unfold State.completeHeld State.deliver
    split
    · simp only [State.modPort_ports, PerPort.get_set]
      exact ⟨List.prefix_rfl, Nat.le_refl _, rfl⟩
    · simp only [State.modPort_ports, PerPort.get_set]
      exact ⟨List.prefix_append _ _, Nat.le_refl _, rfl⟩
  · rw [State.completeHeld_get_ne e]
    exact PortState.served_refl _

theorem completeLatches_serves (o : OutputId) (count : Word32) (es : List LatchEntry) (s : State) :
    s.Serves (completeLatches o count es s) :=
  foldl_keeps (P := s.Serves) (fun t _ ht => ht.trans (t.completeHeld_serves _ _ _ _ _ _)) es (State.serves_of_ports rfl)

theorem State.finishClose_serves (i : StreamId) (s : State) : s.Serves (s.finishClose i) := by
  have detached := (s.detachSlots_curated (s.streams.get i).slots).ports
  have closed : s.Serves (s.streamClosed i) := by
    unfold State.streamClosed
    exact (State.serves_of_ports (by exact detached)).trans (State.publish_serves _ _ _)
  rcases s.finishClose_cases i with e | e | ⟨p, tag, e⟩ <;> rw [e]
  · exact State.serves_of_ports rfl
  · exact closed
  · exact closed.trans (State.completeHeld_serves _ _ _ _ _ _ _)

theorem State.releaseStream_serves (i : StreamId) (s : State) : s.Serves (s.releaseStream i) :=
  (s.releaseSlots_leavesLatches i).serves.trans (State.finishClose_serves i _)

end Sys2Proof.Machine
end

section
/-! SUPPORT. The tests at a hold-set replacement (R17, R101, R115): what an unpinned poster, a detached slot and the pass over
the RETIRING surfaces leave of one entry of the surface table, and which posters join the idle list. -/

namespace Sys2Proof.Machine

variable {s t u : State} {i j id : Nat} {g : Byte} {x : Surface} {e : SurfaceEntry} {r : LayerRecord}

/-! ## One entry after a change of another -/

theorem State.CuratedTo.outputs (h : s.CuratedTo t) : t.outputs = s.outputs := by obtain ⟨_, _, _, rfl⟩ := h; rfl

/-- Entry 0 is never freed (R5). -/
theorem State.becomeFree_fallback (h : s.surfaces.entries[i]? = some ⟨g, some x⟩) (hk : x.kind = .fallback) :
    s.becomeFree i = s := by
  simp only [State.becomeFree, h, hk, if_true]

theorem State.becomeFree_cache (i : Nat) (s : State) : (s.becomeFree i).cache = s.cache := by
  unfold State.becomeFree
  split
  · split <;> rfl
  · rfl

theorem State.becomeFree_entry_ne (ne : j ≠ i) : (s.becomeFree i).surfaces.entries[j]? = s.surfaces.entries[j]? := by
  unfold State.becomeFree
  split
  · split
    · rfl
    · simp [SurfaceManager.release, Ne.symm ne]
  · rfl

theorem State.modSurface_entry_ne (ne : j ≠ i) (f : Surface → Surface) :
    (s.modSurface i f).surfaces.entries[j]? = s.surfaces.entries[j]? := by
  unfold State.modSurface SurfaceManager.modSurface
  split <;> simp [Ne.symm ne]

theorem State.modSurface_entry (h : s.surfaces.entries[i]? = some ⟨g, some x⟩) (f : Surface → Surface) :
    (s.modSurface i f).surfaces.entries[i]? = some ⟨g, some (f x)⟩ := by
  obtain ⟨lt, e⟩ := List.getElem?_eq_some_iff.mp h
  simp [State.modSurface, SurfaceManager.modSurface, lt, e]

theorem State.freePoster_entry_ne (ne : j ≠ i) : (s.freePoster i).surfaces.entries[j]? = s.surfaces.entries[j]? := by
  unfold State.freePoster
  split
  · split
    · rfl
    · split
      · exact State.becomeFree_entry_ne ne
      · unfold State.retireOrFree
        split
        · exact State.modSurface_entry_ne ne _
        · exact State.becomeFree_entry_ne ne
      · rfl
  · rfl

/-- The table of surfaces keeps its length in every common change. -/
theorem entriesLength_stable (n : Nat) : Stable (fun t => t.surfaces.entries.length = n) where
  startUp _ _ h := h
  ports _ _ h := h
  outputs _ _ h := h
  streams _ _ h := h
  cache _ _ h := h
  arbiter _ _ h := h
  freeCount _ _ h := h
  counters _ _ _ h := h
  surface s i f _ h := by
    rw [State.modSurface_surfaces, SurfaceManager.modSurface]
    split <;> simpa using h
  free s i h := by
    unfold State.becomeFree
    split
    · split
      · exact h
      · simpa [SurfaceManager.release] using h
    · exact h
  allocate _ _ _ _ _ _ _ _ _ _ _ _ h := by simpa [SurfaceManager.allocate] using h

/-! ## Posters that the latches unname (R36, R114) -/

/-- An entry that holds no RESIDENT surface is left alone when a poster is unpinned (R114). -/
theorem State.unpinEvent_entry (h : s.surfaces.entries[j]? = some ⟨g, some x⟩) (ne : x.state ≠ .resident) (i : Nat) :
    (s.unpinEvent i).surfaces.entries[j]? = some ⟨g, some x⟩ := by
  unfold State.unpinEvent
  split
  · exact h
  · split
    · next resident =>
      have other : j ≠ i := by
        rintro rfl
        refine ne ?_
        simpa [State.surfaceStateOf, State.surfaceAt, h] using resident
      split
      · split
        · exact h
        · exact h
      · split
        · exact (State.freePoster_entry_ne other).trans h
        · exact h
    · exact h

theorem State.reportUnnamed_entry (before : State) (h : s.surfaces.entries[j]? = some ⟨g, some x⟩)
    (ne : x.state ≠ .resident) : (State.reportUnnamed before s).surfaces.entries[j]? = some ⟨g, some x⟩ :=
  foldl_keeps (P := fun t => t.surfaces.entries[j]? = some ⟨g, some x⟩)
    (fun _ i ht => State.unpinEvent_entry ht ne i) _ h

/-- A cache that only put posters at the end of its idle list and took some off its stale list. -/
def PosterCache.relisted (c d : PosterCache) : Prop :=
  d = { c with idle := d.idle, stale := d.stale } ∧ c.idle <+: d.idle ∧ d.stale.Sublist c.stale

theorem PosterCache.relisted_refl (c : PosterCache) : c.relisted c := ⟨rfl, List.prefix_rfl, List.Sublist.refl _⟩

theorem PosterCache.relisted.trans {c d f : PosterCache} (h : c.relisted d) (k : d.relisted f) : c.relisted f := by
  obtain ⟨e, idle, stale⟩ := h
  obtain ⟨e', idle', stale'⟩ := k
  refine ⟨?_, idle.trans idle', stale'.trans stale⟩
  rw [e', e]

theorem State.joinIdle_relisted (i : Nat) (s : State) : s.cache.relisted (s.joinIdle i).cache := by
  rw [State.joinIdle, State.modCache_cache]
  split
  · exact s.cache.relisted_refl
  · exact ⟨rfl, List.prefix_append _ _, List.Sublist.refl _⟩

theorem State.freePoster_cache (i : Nat) (s : State) : (s.freePoster i).cache = s.cache := by
  unfold State.freePoster
  split
  · split
    · rfl
    · split
      · exact s.becomeFree_cache i
      · exact State.retireOrFree_cache i s
      · rfl
  · rfl

theorem State.unpinEvent_relisted (i : Nat) (s : State) : s.cache.relisted (s.unpinEvent i).cache := by
  unfold State.unpinEvent
  split
  · exact s.cache.relisted_refl
  · split
    · split
      · split
        · exact s.cache.relisted_refl
        · exact s.joinIdle_relisted i
      · split
        · rw [State.freePoster_cache]
          exact ⟨rfl, List.prefix_rfl, List.erase_sublist⟩
        · exact s.cache.relisted_refl
    · exact s.cache.relisted_refl

theorem State.reportUnnamed_relisted (before s : State) : s.cache.relisted (State.reportUnnamed before s).cache :=
  foldl_keeps (P := fun t => s.cache.relisted t.cache) (fun t i ht => ht.trans (t.unpinEvent_relisted i)) _
    s.cache.relisted_refl

/-! ## Surfaces that a close detaches (R106) -/

/-- Whether an entry holds the surface `x`, which a stream may have let go of since. -/
def State.Retains (i : Nat) (g : Byte) (x : Surface) (t : State) : Prop :=
  ∃ y, t.surfaces.entries[i]? = some ⟨g, some y⟩ ∧ y = { x with attached := y.attached }
    ∧ (x.attached = none → y.attached = none)

theorem State.retains_of_entry (h : s.surfaces.entries[i]? = some ⟨g, some x⟩) : State.Retains i g x s :=
  ⟨x, h, rfl, id⟩

theorem State.Retains.of_surfaces (h : State.Retains i g x s) (e : t.surfaces = s.surfaces) : State.Retains i g x t := by
  unfold State.Retains
  rw [e]
  exact h

theorem State.Retains.detachSlots (h : State.Retains i g x s) (xs : List Slot) :
    State.Retains i g x (detachSlots xs s) :=
  foldl_keeps (P := State.Retains i g x) (fun t slot ht => by
    obtain ⟨y, at', rest, none⟩ := ht
    by_cases e : i = slot.surface.index
    · exact ⟨{ y with attached := .none }, e ▸ State.modSurface_entry (e ▸ at') _, by rw [rest], fun _ => rfl⟩
    · exact ⟨y, (State.modSurface_entry_ne e _).trans at', rest, none⟩) _ h

theorem State.Retains.releaseStream (h : State.Retains i g x s) (k : StreamId) :
    State.Retains i g x (s.releaseStream k) := by
  obtain ⟨xs, closed⟩ := State.finishClose_detached k (s.slotsReleased k)
  exact ((h.of_surfaces (s.slotsReleased_streamed k).surfaces).detachSlots xs).of_surfaces closed.surfaces

/-! ## RETIRING surfaces that nothing holds (R17, R18) -/

/-- The test of R17 on one surface. -/
def State.freeIfRetired (i : Nat) (s : State) : State := if s.retired i then s.becomeFree i else s

theorem State.freeIfRetired_outputs (i : Nat) (s : State) : (s.freeIfRetired i).outputs = s.outputs := by
  unfold State.freeIfRetired
  split
  · exact (s.becomeFree_curated i).outputs
  · rfl

theorem State.freeIfRetired_cache (i : Nat) (s : State) : (s.freeIfRetired i).cache = s.cache := by
  unfold State.freeIfRetired
  split
  · exact s.becomeFree_cache i
  · rfl

theorem State.freeIfRetired_entry_ne (ne : j ≠ i) :
    (s.freeIfRetired i).surfaces.entries[j]? = s.surfaces.entries[j]? := by
  unfold State.freeIfRetired
  split
  · exact State.becomeFree_entry_ne ne
  · rfl

/-- Whether a surface is held depends on its entry and on the hold sets only (R7). -/
theorem State.held_congr (entry : t.surfaces.entries[i]? = s.surfaces.entries[i]?) (outputs : t.outputs = s.outputs) :
    t.held i = s.held i := by
  simp only [State.held, State.inHoldSets, State.surfaceAt, entry, outputs]

theorem State.retired_iff (h : s.surfaces.entries[i]? = some ⟨g, some x⟩) :
    s.retired i = true ↔ x.state = .retiring ∧ s.held i = false := by
  simp [State.retired, State.surfaceAt, h]

theorem State.retired_entry (h : s.retired i = true) :
    ∃ g x, s.surfaces.entries[i]? = some ⟨g, some x⟩ ∧ s.held i = false := by
  cases he : s.surfaces.entries[i]? with
  | none => simp [State.retired, State.surfaceAt, he] at h
  | some e =>
    obtain ⟨g, _ | x⟩ := e
    · simp [State.retired, State.surfaceAt, he] at h
    · exact ⟨g, x, rfl, ((State.retired_iff he).mp h).2⟩

theorem State.freeIfRetired_freed (h : s.surfaces.entries[i]? = some ⟨g, some x⟩) (hk : x.kind ≠ .fallback)
    (hs : x.state = .retiring) (free : s.held i = false) :
    (s.freeIfRetired i).surfaces.entries[i]? = some ⟨g + 1, none⟩ := by
  obtain ⟨lt, -⟩ := List.getElem?_eq_some_iff.mp h
  have resolves : s.resolve ⟨i, g⟩ = some x := State.resolve_eq_some.mpr h
  rw [State.freeIfRetired, if_pos ((State.retired_iff h).mpr ⟨hs, free⟩), State.becomeFree_of_resolve resolves hk]
  simp [SurfaceManager.release, lt]

theorem State.freeIfRetired_kept (h : s.retired i = false) : s.freeIfRetired i = s := by
  simp [State.freeIfRetired, h]

theorem State.freeIfRetired_congr (entry : t.surfaces.entries[i]? = s.surfaces.entries[i]?)
    (outputs : t.outputs = s.outputs) :
    (t.freeIfRetired i).surfaces.entries[i]? = (s.freeIfRetired i).surfaces.entries[i]? := by
  have same : t.retired i = s.retired i := by
    simp only [State.retired, State.surfaceAt, entry, State.held_congr entry outputs]
  cases hr : s.retired i with
  | false => rw [State.freeIfRetired_kept hr, State.freeIfRetired_kept (same.trans hr), entry]
  | true =>
    obtain ⟨g, x, he, free⟩ := State.retired_entry hr
    have hs := ((State.retired_iff he).mp hr).1
    by_cases hk : x.kind = .fallback
    · simp only [State.freeIfRetired, State.becomeFree_fallback he hk, State.becomeFree_fallback (entry.trans he) hk,
        ite_self, entry]
    · rw [State.freeIfRetired_freed he hk hs free, State.freeIfRetired_freed (entry.trans he) hk hs
        ((State.held_congr entry outputs).trans free)]

theorem State.freeRetired_eq (s : State) : s.freeRetired = surfaceIndices.foldl (fun t i => t.freeIfRetired i) s := rfl

theorem State.freeRetired_outputs (s : State) : s.freeRetired.outputs = s.outputs := s.freeRetired_curated.outputs

theorem State.freeRetired_cache (s : State) : s.freeRetired.cache = s.cache := by
  rw [State.freeRetired_eq]
  exact foldl_keeps (P := fun t => t.cache = s.cache) (fun t i ht => (t.freeIfRetired_cache i).trans ht) _ rfl

/-- The tests of a list of surfaces without `j` leave its entry alone. -/
theorem State.freeRetired_untested {js : List Nat} (out : j ∉ js) :
    (js.foldl (fun t i => t.freeIfRetired i) s).surfaces.entries[j]? = s.surfaces.entries[j]? := by
  induction js generalizing s with
  | nil => rfl
  | cons k ks ih =>
    obtain ⟨ne, out⟩ := not_or.mp (mt List.mem_cons.mpr out)
    exact (ih out).trans (State.freeIfRetired_entry_ne ne)

/-- In the pass over a list each surface is tested once, with what the pass found. -/
theorem State.freeRetired_tested {js : List Nat} (nodup : js.Nodup) (mem : j ∈ js) :
    (js.foldl (fun t i => t.freeIfRetired i) s).surfaces.entries[j]? = (s.freeIfRetired j).surfaces.entries[j]? := by
  induction js generalizing s with
  | nil => cases mem
  | cons k ks ih =>
    obtain ⟨out, nodup⟩ := List.nodup_cons.mp nodup
    by_cases e : j = k
    · subst e
      exact State.freeRetired_untested out
    · refine (ih nodup ((List.mem_cons.mp mem).resolve_left e)).trans ?_
      exact State.freeIfRetired_congr (State.freeIfRetired_entry_ne e) (s.freeIfRetired_outputs k)

theorem mem_surfaceIndices : i ∈ surfaceIndices ↔ i < 160 := by simp [surfaceIndices, Config.surfaceEntries]

theorem State.freeRetired_entry (lt : i < 160) :
    s.freeRetired.surfaces.entries[i]? = (s.freeIfRetired i).surfaces.entries[i]? := by
  rw [State.freeRetired_eq]
  exact State.freeRetired_tested List.nodup_range (mem_surfaceIndices.mpr lt)

/-- A held surface is in its entry still (R17). -/
theorem State.freeRetired_held (held : s.held i = true) :
    s.freeRetired.surfaces.entries[i]? = s.surfaces.entries[i]? := by
  have kept : s.retired i = false := Bool.eq_false_iff.mpr fun h => by
    obtain ⟨_, _, -, free⟩ := State.retired_entry h
    rw [held] at free
    cases free
  by_cases lt : i < 160
  · rw [State.freeRetired_entry lt, State.freeIfRetired_kept kept]
  · rw [State.freeRetired_eq]
    exact State.freeRetired_untested (mt mem_surfaceIndices.mp lt)

/-- No surface that is RETIRING and not held is left (R17). -/
theorem State.held_of_freeRetired (lt : i < 160) (h : s.freeRetired.surfaces.entries[i]? = some ⟨g, some x⟩)
    (hs : x.state = .retiring) (hk : x.kind ≠ .fallback) : s.freeRetired.held i = true := by
  rw [State.freeRetired_entry lt] at h
  by_contra free
  rw [Bool.not_eq_true, State.held_congr (s := s.freeIfRetired i) (State.freeRetired_entry lt)
    (s.freeRetired_outputs.trans (s.freeIfRetired_outputs i).symm)] at free
  cases hr : s.retired i with
  | false =>
    rw [State.freeIfRetired_kept hr] at h free
    rw [(State.retired_iff h).mpr ⟨hs, free⟩] at hr
    cases hr
  | true =>
    obtain ⟨g', x', he, free'⟩ := State.retired_entry hr
    by_cases hk' : x'.kind = .fallback
    · rw [State.freeIfRetired, State.becomeFree_fallback he hk', ite_self, he] at h
      cases h
      exact hk hk'
    · rw [State.freeIfRetired_freed he hk' ((State.retired_iff he).mp hr).1 free'] at h
      cases h

/-- What the pass over the RETIRING surfaces keeps: no entry gets a surface it did not hold, and the active copy of a record
stays while its source is held, where it names a surface at all (R29). -/
structure State.FreedTo (s : State) (id : Nat) (r : LayerRecord) (t : State) : Prop where
  outputs : t.outputs = s.outputs
  entries : ∀ (i : Nat) (g : Byte) (x : Surface), t.surfaces.entries[i]? = some ⟨g, some x⟩ →
    s.surfaces.entries[i]? = some ⟨g, some x⟩
  active : ∃ q, t.layers[id]? = some q ∧ q.active = r.active

theorem State.FreedTo.freeIfRetired (k : s.FreedTo id r t)
    (safe : ∀ h x, r.active.source = .surface h → s.resolve h = some x → s.held h.index = true) (i : Nat) :
    s.FreedTo id r (t.freeIfRetired i) := by
  cases hr : t.retired i with
  | false => rwa [State.freeIfRetired_kept hr]
  | true =>
    obtain ⟨g, x, he, free⟩ := State.retired_entry hr
    by_cases hk : x.kind = .fallback
    · rwa [State.freeIfRetired, State.becomeFree_fallback he hk, ite_self]
    refine ⟨(t.freeIfRetired_outputs i).trans k.outputs, fun j g' x' h => ?_, ?_⟩
    · by_cases e : j = i
      · subst e
        rw [State.freeIfRetired_freed he hk ((State.retired_iff he).mp hr).1 free] at h
        cases h
      · exact k.entries j g' x' ((State.freeIfRetired_entry_ne e).symm.trans h)
    · obtain ⟨q, hq, active⟩ := k.active
      have resolves : t.resolve ⟨i, g⟩ = some x := State.resolve_eq_some.mpr he
      have other : q.active.source ≠ .surface ⟨i, g⟩ := fun named => by
        have before := k.entries i g x he
        have held := safe ⟨i, g⟩ x (active ▸ named) (State.resolve_eq_some.mpr before)
        rw [← State.held_congr (he.trans before.symm) k.outputs, free] at held
        cases held
      refine ⟨q.forget ⟨i, g⟩, ?_, ?_⟩
      · rw [State.freeIfRetired, if_pos hr, State.becomeFree_of_resolve resolves hk]
        simp [hq]
      · rw [LayerRecord.forget, LayerCopy.forget, if_neg other, active]

theorem State.freeRetired_freedTo (hl : s.layers[id]? = some r)
    (safe : ∀ h x, r.active.source = .surface h → s.resolve h = some x → s.held h.index = true) :
    s.FreedTo id r s.freeRetired := by
  rw [State.freeRetired_eq]
  exact foldl_keeps (P := s.FreedTo id r) (fun _ i ht => ht.freeIfRetired safe i) surfaceIndices
    ⟨rfl, fun _ _ _ h => h, r, hl, rfl⟩

/-! ## Draining posters (R115) -/

/-- Whether nothing differs but the end of the idle list. -/
def State.IdlesTo (s t : State) : Prop :=
  ∃ is, t = { s with cache := { s.cache with idle := s.cache.idle ++ is } }

theorem State.idlesTo_refl (s : State) : s.IdlesTo s := ⟨[], by simp⟩

theorem State.IdlesTo.trans (h : s.IdlesTo t) (k : t.IdlesTo u) : s.IdlesTo u := by
  obtain ⟨is, rfl⟩ := h
  obtain ⟨js, rfl⟩ := k
  exact ⟨is ++ js, by simp⟩

theorem State.IdlesTo.idle (h : s.IdlesTo t) : s.cache.idle <+: t.cache.idle := by
  obtain ⟨is, rfl⟩ := h
  exact List.prefix_append _ _

theorem State.IdlesTo.relisted (h : s.IdlesTo t) : s.cache.relisted t.cache := by
  obtain ⟨is, rfl⟩ := h
  exact ⟨rfl, List.prefix_append _ _, List.Sublist.refl _⟩

theorem State.IdlesTo.map (h : s.IdlesTo t) : t.cache.map = s.cache.map := by
  obtain ⟨is, rfl⟩ := h
  rfl

theorem State.joinIdle_idles (i : Nat) (s : State) : s.IdlesTo (s.joinIdle i) := by
  by_cases h : i ∈ s.cache.idle
  · exact ⟨[], by simp [State.joinIdle, State.modCache, h]⟩
  · exact ⟨[i], by simp [State.joinIdle, State.modCache, h]⟩

/-- The test of R115 on one surface. -/
def State.idleIfDrained (i : Nat) (s : State) : State := if s.draining i && !s.inHoldSets i then s.joinIdle i else s

theorem State.idleIfDrained_idles (i : Nat) (s : State) : s.IdlesTo (s.idleIfDrained i) := by
  unfold State.idleIfDrained
  split
  · exact s.joinIdle_idles i
  · exact s.idlesTo_refl

theorem State.drainToIdle_eq (s : State) : s.drainToIdle = surfaceIndices.foldl (fun t i => t.idleIfDrained i) s := rfl

theorem State.drainToIdle_idles (s : State) : s.IdlesTo s.drainToIdle := by
  rw [State.drainToIdle_eq]
  exact foldl_keeps (P := s.IdlesTo) (fun t i ht => ht.trans (t.idleIfDrained_idles i)) surfaceIndices s.idlesTo_refl

/-- Whether a poster is unpinned and RESIDENT in the map and no hold set names it: the test of R115 but for the idle list. -/
def State.drained (s : State) (i : Nat) : Prop :=
  s.inMap i = true ∧ s.surfaceStateOf i = some .resident ∧ s.pinned i = false ∧ s.inHoldSets i = false

theorem State.IdlesTo.drained (h : s.IdlesTo t) (d : s.drained i) : t.drained i := by
  obtain ⟨is, rfl⟩ := h
  exact d

/-- A poster found drained is on the idle list after its test (R115). -/
theorem State.mem_idleIfDrained (d : s.drained i) : i ∈ (s.idleIfDrained i).cache.idle := by
  obtain ⟨inMap, resident, unpinned, unheld⟩ := d
  by_cases h : i ∈ s.cache.idle
  · exact (s.idleIfDrained_idles i).idle.mem h
  · simp [State.idleIfDrained, State.draining, State.joinIdle, inMap, resident, unpinned, unheld, h]

theorem State.mem_drainToIdle (lt : i < 160) (d : s.drained i) : i ∈ s.drainToIdle.cache.idle := by
  have tested {js : List Nat} (mem : i ∈ js) : i ∈ (js.foldl (fun t i => t.idleIfDrained i) s).cache.idle := by
    induction js generalizing s with
    | nil => cases mem
    | cons k ks ih =>
      rcases List.mem_cons.mp mem with rfl | mem
      · have later : (s.idleIfDrained i).IdlesTo (ks.foldl (fun t i => t.idleIfDrained i) (s.idleIfDrained i)) :=
          foldl_keeps (fun t i ht => ht.trans (t.idleIfDrained_idles i)) ks (State.idlesTo_refl _)
        exact later.idle.mem (State.mem_idleIfDrained d)
      · exact ih ((s.idleIfDrained_idles k).drained d) mem
  rw [State.drainToIdle_eq]
  exact tested (mem_surfaceIndices.mpr lt)

end Sys2Proof.Machine
end

section
/-! SUPPORT. The end of a teardown (R167, R169, R171): what settling one port leaves of it, and that the two ports settle apart
from each other. -/

namespace Sys2Proof.Machine

variable {s t u v : State} {p p' : Port} {n : Notice} {tag : Byte}

/-! ## Whether the five blocks are done (R169) -/

/-- The five blocks' parts are read from the outputs, the streams, the arbiter and the accounts. -/
theorem State.teardownOver_congr (outputs : ∀ o, (t.outputs.get o).internal = (s.outputs.get o).internal)
    (streams : t.streams = s.streams) (arbiter : t.arbiter = s.arbiter) (surfaces : t.surfaces = s.surfaces) :
    t.TeardownOver p ↔ s.TeardownOver p := by
  constructor
  · rintro ⟨a, b, c, d⟩
    exact ⟨fun o => outputs o ▸ a o, streams ▸ b, arbiter ▸ c, surfaces ▸ d⟩
  · rintro ⟨a, b, c, d⟩
    exact ⟨fun o => (outputs o).symm ▸ a o, streams.symm ▸ b, arbiter.symm ▸ c, surfaces.symm ▸ d⟩

theorem State.LinkedTo.teardownOver (h : s.LinkedTo t) : t.TeardownOver p ↔ s.TeardownOver p := by
  obtain ⟨_, _, rfl⟩ := h
  exact State.teardownOver_congr (fun _ => rfl) rfl rfl rfl

/-! ## One port (R169, R171) -/

/-- A port whose in-flight table is a lone DETACH has none left once it completes (R169). -/
theorem loneDetach_eq_some {es : List InFlight} (h : loneDetach es = some tag) : es = [⟨Cmd.detach.code, tag⟩] := by
  unfold loneDetach at h
  split at h
  · next e =>
    split at h
    · next code =>
      obtain rfl := Option.some.inj h
      rw [← code]
    · cases h
  · cases h

/-- An ATTACHED port that subscribes to a topic queues the notice, unless it counts it as lost (R179). -/
theorem State.told_notifyIf {x : Topic} (same : v.ports.get p = s.ports.get p)
    (subscribed : (s.ports.get p).mask.getLsbD x.bit = true) (n : Notice) : s.told (v.notifyIf x p n) p n := by
  intro attached room kept
  rw [State.notifyIf, PortState.subscribed, same, if_pos subscribed] at kept ⊢
  rcases v.notify_cases p n with ⟨away, -⟩ | ⟨-, -, e⟩ | ⟨-, -, e⟩
  · exact absurd (same ▸ attached) away
  · rw [e]
    simp
  · rw [e] at kept
    simp only [State.modCounters_ports, State.modPort_ports, PerPort.get_set, same, satSucc255, if_pos room] at kept
    omega

/-- A teardown ends with the port DETACHED, its in-flight table empty and PORT CHANGE offered to the other port (R167,
R169, R171). -/
theorem State.portChange_ended (linked : s.LinkedTo v) (finished : s.TeardownOver p)
    (detached : (v.ports.get p).status = .detached) (empty : (v.ports.get p).inFlight = [])
    (other : v.ports.get p.other = s.ports.get p.other) :
    (v.portChange p).ports.get p = v.ports.get p
      ∧ ((v.portChange p).ports.get p).status = .detached ∧ (v.portChange p).TeardownOver p
      ∧ ((v.portChange p).ports.get p).inFlight = []
      ∧ ((s.ports.get p.other).mask.getLsbD 3 = true → s.told (v.portChange p) p.other (.portChange p .detached)) := by
  have same : (v.portChange p).ports.get p = v.ports.get p := State.notifyIf_get_ne (Ne.symm p.other_ne) _ _ _
  have linked' : s.LinkedTo (v.portChange p) := linked.trans (State.notifyIf_linked _ _ _ _)
  rw [same]
  refine ⟨rfl, detached, linked'.teardownOver.mpr finished, empty, fun subscribed => ?_⟩
  rw [State.portChange, detached]
  exact State.told_notifyIf other (x := .portChange) subscribed _

/-- The state in which a DETACHING port is DETACHED and its DETACH completed (R169). -/
def State.detachEnded (p : Port) (tag : Byte) (s : State) : State :=
  (s.completeHeld p .detach tag .ok none (.detach (s.ports.get p).cancelled)).modPort p
    (fun q => { q with status := .detached, cancelled := 0 })

/-- The state in which a RESETTING port is DETACHED (R171). -/
def State.resetEnded (p : Port) (s : State) : State :=
  s.modPort p (fun q => { q with inFlight := [], status := .detached, cancelled := 0 })

theorem State.settlePort_stays (h : (s.ports.get p).status ≠ .detaching) (h' : (s.ports.get p).status ≠ .resetting) :
    s.settlePort p = s := by
  unfold State.settlePort
  dsimp only
  split
  · next e => exact absurd e h
  · next e => exact absurd e h'
  · rfl

/-- What settling a DETACHING port does (R169). -/
theorem State.settlePort_detaching (h : (s.ports.get p).status = .detaching) :
    ((loneDetach (s.ports.get p).inFlight = none ∨ ¬ s.TeardownOver p) ∧ s.settlePort p = s)
    ∨ ∃ tag, loneDetach (s.ports.get p).inFlight = some tag ∧ s.TeardownOver p
        ∧ s.settlePort p = (s.detachEnded p tag).portChange p := by
  simp only [State.settlePort, h]
  split
  · next tag lone =>
    split
    · next finished => exact .inr ⟨tag, lone, State.teardownDone_iff.mp finished, rfl⟩
    · next unfinished => exact .inl ⟨.inr (mt State.teardownDone_iff.mpr unfinished), rfl⟩
  · next lone => exact .inl ⟨.inl lone, rfl⟩

/-- What settling a RESETTING port does (R171; log 37). -/
theorem State.settlePort_resetting (h : (s.ports.get p).status = .resetting) :
    ((¬ s.TeardownOver p ∨ (s.ports.get p).inFlight ≠ []) ∧ s.settlePort p = s)
    ∨ ((s.ports.get p).resetLine = true ∧ s.settlePort p = s.modPort p (fun q => { q with inFlight := [] }))
    ∨ ((s.ports.get p).resetLine = false ∧ s.TeardownOver p ∧ s.settlePort p = (s.resetEnded p).portChange p) := by
  simp only [State.settlePort, h]
  split
  · next ends =>
    split
    · next line => exact .inr (.inl ⟨line, rfl⟩)
    · next line =>
      exact .inr (.inr ⟨Bool.eq_false_iff.mpr line, State.teardownDone_iff.mp (Bool.and_eq_true_iff.mp ends).1, rfl⟩)
  · next goesOn =>
    refine .inl ⟨?_, rfl⟩
    by_contra! ends
    refine goesOn (Bool.and_eq_true_iff.mpr ⟨State.teardownDone_iff.mpr ends.1, ?_⟩)
    rw [ends.2]
    rfl

/-- Settling a port ends its teardown or leaves it going on. -/
theorem State.settlePort_ends (p : Port) (s : State) : s.TeardownEnds (s.settlePort p) p := by
  constructor
  · intro detaching
    rcases State.settlePort_detaching detaching with ⟨goesOn, e⟩ | ⟨tag, lone, finished, e⟩ <;> rw [e]
    · exact .inr ⟨detaching, goesOn.symm⟩
    · have port : (s.detachEnded p tag).ports.get p = { ({ s.ports.get p with inFlight := [] } : PortState).join
          (.completion tag Cmd.detach.code .ok none (.detach (s.ports.get p).cancelled)) with
            owed := (s.ports.get p).owed - 1, status := .detached, cancelled := 0 } := by
        rw [State.detachEnded, State.modPort_ports, PerPort.get_set,
          State.completeHeld_get (by simp [detaching]), loneDetach_eq_some lone]
        simp
      have linked : s.LinkedTo (s.detachEnded p tag) :=
        (s.completeHeld_linked _ _ _ _ _ _).trans (State.modPort_linked p _ _)
      have other : (s.detachEnded p tag).ports.get p.other = s.ports.get p.other := by
        rw [State.detachEnded, State.modPort_ports, PerPort.get_other_set, State.completeHeld_get_ne p.other_ne]
      obtain ⟨same, ended⟩ := State.portChange_ended linked finished (by rw [port]) (by rw [port]; rfl) other
      refine .inl ⟨ended, tag, ?_⟩
      rw [same, port]
      simp [Cmd.code]
  · intro resetting
    rcases State.settlePort_resetting resetting with ⟨goesOn, e⟩ | ⟨line, e⟩ | ⟨line, finished, e⟩ <;> rw [e]
    · exact .inr ⟨resetting, .inr goesOn⟩
    · exact .inr ⟨by simpa using resetting, .inl line⟩
    · obtain ⟨-, ended⟩ := State.portChange_ended (v := s.resetEnded p) (s.modPort_linked p _) finished
        (by simp [State.resetEnded]) (by simp [State.resetEnded]) (by simp [State.resetEnded])
      exact .inl ⟨ended, line⟩

/-! ## Both ports -/

theorem Port.eq_other_of_ne (ne : p ≠ p') : p = p'.other := by
  cases p <;> cases p' <;> first | rfl | exact absurd rfl ne

/-- Settling the other port does not touch a port that is offered no notices (R179). -/
theorem State.settlePort_get_ne (ne : p ≠ p') (away : (s.ports.get p).status ≠ .attached) :
    (s.settlePort p').ports.get p = s.ports.get p := by
  obtain rfl := Port.eq_other_of_ne ne
  have told {v : State} (same : v.ports.get p'.other = s.ports.get p'.other) :
      (v.portChange p').ports.get p'.other = s.ports.get p'.other := by
    unfold State.portChange State.notifyIf
    split
    · rw [State.notify, same, if_neg away, same]
    · exact same
  cases h : (s.ports.get p').status with
  | detaching =>
    rcases State.settlePort_detaching h with ⟨-, e⟩ | ⟨tag, -, -, e⟩ <;> rw [e]
    refine told ?_
    rw [State.detachEnded, State.modPort_get_ne ne, State.completeHeld_get_ne ne]
  | resetting =>
    rcases State.settlePort_resetting h with ⟨-, e⟩ | ⟨-, e⟩ | ⟨-, -, e⟩ <;> rw [e]
    · exact State.modPort_get_ne ne _
    · exact told (State.modPort_get_ne ne _)
  | absent | detached | attached => rw [State.settlePort_stays (by simp [h]) (by simp [h])]

/-- A teardown that ends while the other port is offered no notices is read from the port alone. -/
theorem State.TeardownEnds.congr (h : s.TeardownEnds t p) (away : (u.ports.get p.other).status ≠ .attached)
    (before : u.ports.get p = s.ports.get p) (after : v.ports.get p = t.ports.get p)
    (blocks : v.TeardownOver p ↔ t.TeardownOver p) : u.TeardownEnds v p := by
  have untold (n : Notice) : u.told v p.other n := fun attached => absurd attached away
  obtain ⟨detaching, resetting⟩ := h
  unfold State.TeardownEnds
  simp only [before, after, blocks]
  refine ⟨fun e => (detaching e).imp_left ?_, fun e => (resetting e).imp_left ?_⟩
  · rintro ⟨⟨status, finished, table, -⟩, last⟩
    exact ⟨⟨status, finished, table, fun _ => untold _⟩, last⟩
  · rintro ⟨⟨status, finished, table, -⟩, line⟩
    exact ⟨⟨status, finished, table, fun _ => untold _⟩, line⟩

theorem State.settlePort_away (away : (s.ports.get p).status ≠ .attached) :
    ((s.settlePort p).ports.get p).status ≠ .attached := by
  obtain ⟨detaching, resetting⟩ := s.settlePort_ends p
  cases h : (s.ports.get p).status with
  | detaching => rcases detaching h with ⟨⟨e, -⟩, -⟩ | ⟨e, -⟩ <;> simp [e]
  | resetting => rcases resetting h with ⟨⟨e, -⟩, -⟩ | ⟨e, -⟩ <;> simp [e]
  | absent | detached | attached =>
    rw [State.settlePort_stays (by simp [h]) (by simp [h])]
    exact away

/-- Settling both ports ends the teardown of each as settling it alone does. -/
theorem State.settle_ends (p : Port) (s : State) : s.TeardownEnds s.settle p := by
  by_cases listens : (s.ports.get p.other).status = .attached
  · have alone : s.settle = s.settlePort p := by
      cases p with
      | a =>
        have still : ((s.settlePort .a).ports.get .b).status = .attached :=
          (State.settlePort_noticed .a listens).account.1.trans listens
        exact State.settlePort_stays (by simp [still]) (by simp [still])
      | b =>
        have listens : (s.ports.get .a).status = .attached := listens
        rw [State.settle, State.settlePort_stays (p := .a) (by simp [listens]) (by simp [listens])]
    rw [alone]
    exact s.settlePort_ends p
  by_cases served : (s.ports.get p).status = .attached
  · exact ⟨fun e => by simp [served] at e, fun e => by simp [served] at e⟩
  cases p with
  | a =>
    exact (s.settlePort_ends .a).congr listens rfl
      (State.settlePort_get_ne (by decide) (State.settlePort_away served)) (State.settlePort_linked .b _).teardownOver
  | b =>
    exact ((s.settlePort .a).settlePort_ends .b).congr listens
      (State.settlePort_get_ne (by decide) served).symm rfl Iff.rfl

/-- Work before a teardown ends that brings no more than notices and completions does not change how it ends. -/
theorem State.TeardownEnds.of_serves (h : t.TeardownEnds u p) (k : s.Serves t)
    (later : (t.ports.get p.other).status = .attached → (t.ports.get p.other).lost ≤ (u.ports.get p.other).lost) :
    s.TeardownEnds u p := by
  have told (n : Notice) (e : t.told u p.other n) : s.told u p.other n := fun attached room kept => by
    have listens := (k p.other).status.trans attached
    have before : (s.ports.get p.other).lost ≤ (t.ports.get p.other).lost := (k p.other).2.1
    have after := later listens
    exact e listens (by omega) (by omega)
  obtain ⟨detaching, resetting⟩ := h
  rw [(k p).status, (k p).cancelled, (k p.other).mask] at detaching
  rw [(k p).status, (k p).resetLine, (k p.other).mask] at resetting
  refine ⟨fun e => (detaching e).imp_left ?_, fun e => (resetting e).imp_left ?_⟩
  · rintro ⟨⟨status, finished, table, change⟩, last⟩
    exact ⟨⟨status, finished, table, fun subscribed => told _ (change subscribed)⟩, last⟩
  · rintro ⟨⟨status, finished, table, change⟩, line⟩
    exact ⟨⟨status, finished, table, fun subscribed => told _ (change subscribed)⟩, line⟩

/-- A change of an output that keeps its internal latches does not change how a teardown ended. -/
theorem State.TeardownEnds.modOut (h : s.TeardownEnds t p) {f : OutputState → OutputState}
    (internal : ∀ q, (f q).internal = q.internal) (o : OutputId) : s.TeardownEnds (t.modOut o f) p := by
  have blocks : (t.modOut o f).TeardownOver p ↔ t.TeardownOver p := by
    refine State.teardownOver_congr (fun k => ?_) rfl rfl rfl
    by_cases e : k = o
    · subst e
      simp [internal]
    · simp [PerOutput.get_set_ne _ _ _ _ e]
  unfold State.TeardownEnds State.told at h ⊢
  rw [blocks]
  exact h

end Sys2Proof.Machine
end

section
/-! SUPPORT. The sets of a field (R41 to R44, R50, R52): which records enter the field layer set, what the set keeps of each,
which surfaces the hold set names, and that what is frozen stays true of the field's surfaces. -/

namespace Sys2Proof.Machine

variable {s t u : State} {o : OutputId} {i id : Nat} {c : LayerCopy} {h : Handle} {x : Surface} {l : FieldLayer}

/-! ## What a field keeps of a record (R41, R42, R50, R52) -/

/-- The surface a field draws is that of the source handle, where it resolves (R41, R42). -/
theorem State.drawnSurface_eq (s : State) (c : LayerCopy) :
    s.drawnSurface c = (s.sourceHandle c).bind (fun h => if (s.resolve h).isSome then some h.index else none) := by
  unfold State.drawnSurface State.sourceHandle
  cases c.source with
  | none => rfl
  | surface h => rfl
  | stream i =>
    dsimp only
    rw [Option.bind_map]
    rfl

theorem State.freeze_id (s : State) (id : Nat) (c : LayerCopy) : (s.freeze id c).id = id := by
  unfold State.freeze
  split <;> rfl

theorem State.freeze_empty (none : ∀ h, s.sourceHandle c = some h → s.resolve h = none) (id : Nat) :
    s.freeze id c = { id := id, copy := c, source := .none } := by
  have undrawn : s.drawnSurface c = .none := by
    rw [State.drawnSurface_eq]
    cases e : s.sourceHandle c with
    | none => rfl
    | some h => simp [none h e]
  simp only [State.freeze, undrawn, Option.bind_none]

/-- The crop a field uses: clamped against the slot for a stream (R42). -/
def LayerCopy.fieldCrop (c : LayerCopy) (x : Surface) : Crop :=
  match c.source with
  | .stream _ => c.crop.clamp x.width x.height
  | _ => c.crop

theorem State.freeze_of_resolve (hs : s.sourceHandle c = some h) (hr : s.resolve h = some x) (id : Nat) :
    s.freeze id c =
      { id := id, copy := { c with crop := c.fieldCrop x }
        source := some { surface := h.index, width := x.width, height := x.height, format := x.format, pages := x.pages
                         sx := clampStep (rawStep (c.fieldCrop x).cw c.dw)
                         sy := clampStep (rawStep (c.fieldCrop x).ch c.dh)
                         clampX := stepClamped (rawStep (c.fieldCrop x).cw c.dw)
                         clampY := stepClamped (rawStep (c.fieldCrop x).ch c.dh) } } := by
  have drawn : s.drawnSurface c = some h.index := by simp [State.drawnSurface_eq, hs, hr]
  simp only [State.freeze, drawn, Option.bind_some, State.surfaceAt_of_resolve hr, Option.map_some]
  rfl

theorem clampStep_eq (n : Nat) : clampStep n = if n < 8192 then 8192 else if 262144 < n then 262144 else n := by
  unfold clampStep
  split
  · omega
  · split <;> omega

theorem stepClamped_eq (n : Nat) : stepClamped n = decide (n < 8192 ∨ 262144 < n) := by
  simp [stepClamped]

/-- The set keeps of each record what R41, R42, R50 and R52 say. -/
theorem State.froze_freeze (s : State) (id : Nat) (c : LayerCopy) : s.Froze c (s.freeze id c) := by
  constructor
  · intro none
    rw [State.freeze_empty none]
    exact ⟨rfl, rfl⟩
  · intro h x hs hr
    rw [State.freeze_of_resolve hs hr, clampStep_eq, clampStep_eq, stepClamped_eq, stepClamped_eq]
    exact ⟨rfl, rfl⟩

/-- A source in the set is a surface that its handle resolves to (R50). -/
theorem State.freeze_source {y : ResolvedSource} (e : (s.freeze id c).source = some y) :
    ∃ h x, s.sourceHandle c = some h ∧ s.resolve h = some x ∧ y.surface = h.index := by
  by_cases none : ∀ h, s.sourceHandle c = some h → s.resolve h = none
  · rw [State.freeze_empty none] at e
    cases e
  · push Not at none
    obtain ⟨h, hs, hr⟩ := none
    obtain ⟨x, hr⟩ := Option.ne_none_iff_exists'.mp hr
    rw [State.freeze_of_resolve hs hr] at e
    obtain rfl := Option.some.inj e
    exact ⟨h, x, hs, hr, rfl⟩

/-- What is frozen of a copy depends on its source handle and what that resolves to only. -/
theorem State.Froze.congr (k : s.Froze c l) (handle : t.sourceHandle c = s.sourceHandle c)
    (resolves : ∀ h, s.sourceHandle c = some h → t.resolve h = s.resolve h) : t.Froze c l := by
  obtain ⟨empty, full⟩ := k
  unfold State.Froze
  rw [handle]
  exact ⟨fun none => empty fun h hs => resolves h hs ▸ none h hs, fun h x hs hr => full h x hs (resolves h hs ▸ hr)⟩

/-! ## The field layer set (R41) -/

/-- Whether the active copy of a record enters the field layer set of an output (R41). -/
def drawsOn (ls : List LayerRecord) (o : OutputId) (id : Nat) : Bool :=
  (ls[id]?.map (fun r => r.active.drawnOn o)).getD false

/-- The records of the set are those drawn on the output, in ascending order. -/
theorem State.fieldLayers_ids (o : OutputId) (s : State) :
    (s.fieldLayers o).map (·.id) = (List.range s.layers.length).filter (drawsOn s.layers o) := by
  have drawn : s.layers.zipIdx.filter (fun r => r.1.active.drawnOn o)
      = s.layers.zipIdx.filter (drawsOn s.layers o ∘ Prod.snd) := by
    refine List.filter_congr fun r mem => ?_
    simp [drawsOn, List.mem_zipIdx_iff_getElem?.mp mem]
  have ids : (fun l : FieldLayer => l.id) ∘ (fun r : LayerRecord × Nat => s.freeze r.2 r.1.active) = Prod.snd :=
    funext fun r => s.freeze_id r.2 r.1.active
  rw [State.fieldLayers, List.map_map, ids, drawn, ← List.filter_map, List.zipIdx_map_snd, List.range_eq_range']

/-- A member of the set is what the field keeps of a record. -/
theorem State.mem_fieldLayers (mem : l ∈ s.fieldLayers o) :
    ∃ r, s.layers[l.id]? = some r ∧ l = s.freeze l.id r.active := by
  obtain ⟨⟨r, id⟩, drawn, rfl⟩ := List.mem_map.mp mem
  have at' := List.mem_zipIdx_iff_getElem?.mp (List.mem_filter.mp drawn).1
  exact ⟨r, by rw [State.freeze_id]; exact at', by rw [State.freeze_id]⟩

/-- A source that R29 takes later does not change which records are drawn. -/
theorem State.LayersFrom.drawsOn {ls : List LayerRecord} (k : State.LayersFrom ls t) (o : OutputId) :
    Machine.drawsOn t.layers o = Machine.drawsOn ls o := by
  funext id
  unfold Machine.drawsOn
  cases e : ls[id]? with
  | none =>
    have out : t.layers[id]? = none := by
      rw [List.getElem?_eq_none_iff] at e ⊢
      rw [k.length]
      exact e
    rw [out]
  | some r =>
    obtain ⟨r', hr', active, -⟩ := k.getElem? e
    rw [hr']
    rcases active with same | same <;> simp [same, LayerCopy.drawnOn]

/-- The field layer set of the field that begins: empty unless the output is ACTIVE and not under FORCED BLANK (R44). -/
def State.fieldSet (o : OutputId) (s : State) : List FieldLayer :=
  if (s.outputs.get o).panel = .active ∧ (s.outputs.get o).forcedBlank = false then s.fieldLayers o else []

theorem State.mem_fieldSet (mem : l ∈ s.fieldSet o) : ∃ r, s.layers[l.id]? = some r ∧ l = s.freeze l.id r.active := by
  unfold State.fieldSet at mem
  split at mem
  · exact State.mem_fieldLayers mem
  · cases mem

/-! ## The hold set (R43) -/

theorem holdSetOf_pairwise (ls : List FieldLayer) : (holdSetOf ls).Pairwise (· < ·) :=
  List.pairwise_lt_range.filter _

theorem mem_holdSetOf {ls : List FieldLayer} :
    i ∈ holdSetOf ls ↔ i < 160 ∧ ∃ l ∈ ls, ∃ y, l.source = some y ∧ y.surface = i := by
  simp [holdSetOf, surfaceIndices, Config.surfaceEntries]

/-- The hold set names the resolved sources of the set (R43). -/
theorem State.mem_fieldHoldSet (len : s.surfaces.entries.length = 160) :
    i ∈ holdSetOf (s.fieldSet o) ↔ ∃ l ∈ s.fieldSet o, ∃ y, l.source = some y ∧ y.surface = i := by
  rw [mem_holdSetOf, and_iff_right_iff_imp]
  rintro ⟨l, mem, y, source, rfl⟩
  obtain ⟨r, -, frozen⟩ := State.mem_fieldSet mem
  rw [frozen] at source
  obtain ⟨h, x, -, hr, index⟩ := State.freeze_source source
  obtain ⟨lt, -⟩ := List.getElem?_eq_some_iff.mp (State.resolve_eq_some.mp hr)
  omega

/-- A surface that a record of the set resolves to is in the hold set (R43). -/
theorem State.holds_source (len : s.surfaces.entries.length = 160) {r : LayerRecord} (mem : l ∈ s.fieldSet o)
    (frozen : l = s.freeze l.id r.active) (hs : s.sourceHandle r.active = some h) (hr : s.resolve h = some x) :
    h.index ∈ holdSetOf (s.fieldSet o) := by
  refine (State.mem_fieldHoldSet len).mpr ⟨l, mem, ?_⟩
  rw [frozen, State.freeze_of_resolve hs hr]
  exact ⟨_, rfl, rfl⟩

end Sys2Proof.Machine
end

section
/-! SUPPORT. The report of a hold-set replacement (R43, R44): what its five tests leave of the outputs, the surfaces, the
posters and the teardowns, and of the sources of a field while no stream is CLOSING. -/

namespace Sys2Proof.Machine

variable {s t u : State} {o : OutputId} {p : Port} {i id : Nat} {g : Byte} {x : Surface} {c : LayerCopy} {r : LayerRecord}

/-! ## What a field start changes at all (R75) -/

/-- Whether nothing differs but the surfaces, the layer records, the outputs, the streams, the poster cache, the ports, and the
counters of streams and ports. -/
def State.FieldTo (s t : State) : Prop := ∃ m ls os st c ps k k',
  t = { s with
        surfaces := m, layers := ls, outputs := os, streams := st, cache := c, ports := ps
        counters := { s.counters with stream := k, port := k' } }

theorem State.FieldTo.trans (h : s.FieldTo t) (k : t.FieldTo u) : s.FieldTo u := by
  obtain ⟨_, _, _, _, _, _, _, _, rfl⟩ := h
  obtain ⟨_, _, _, _, _, _, _, _, rfl⟩ := k
  exact ⟨_, _, _, _, _, _, _, _, rfl⟩

theorem State.CuratedTo.field (h : s.CuratedTo t) : s.FieldTo t := by
  obtain ⟨_, _, _, rfl⟩ := h
  exact ⟨_, _, _, _, _, _, _, _, rfl⟩

theorem State.StreamedTo.field (h : s.StreamedTo t) : s.FieldTo t := by
  obtain ⟨_, _, _, _, rfl⟩ := h
  exact ⟨_, _, _, _, _, _, _, _, rfl⟩

theorem State.modOut_field (o : OutputId) (f : OutputState → OutputState) (s : State) : s.FieldTo (s.modOut o f) :=
  ⟨_, _, _, _, _, _, _, _, rfl⟩

theorem State.FieldTo.eq (h : s.FieldTo t) : t =
    { s with
      surfaces := t.surfaces, layers := t.layers, outputs := t.outputs, streams := t.streams, cache := t.cache
      ports := t.ports, counters := { s.counters with stream := t.counters.stream, port := t.counters.port } } := by
  obtain ⟨_, _, _, _, _, _, _, _, rfl⟩ := h
  rfl

theorem State.drawn_congr (holdSet : ∀ o, (t.outputs.get o).holdSet = (s.outputs.get o).holdSet) :
    t.drawn i ↔ s.drawn i := by
  have h0 := holdSet .o0
  have h1 := holdSet .o1
  simp only [PerOutput.get] at h0 h1
  rw [State.drawn, State.drawn, h0, h1]

theorem State.drawn_of_outputs (e : t.outputs = s.outputs) : t.drawn i ↔ s.drawn i :=
  State.drawn_congr fun _ => by rw [e]

theorem State.drawn_of_mem (h : i ∈ (s.outputs.get o).holdSet) : s.drawn i := by
  cases o with
  | o0 => exact .inl h
  | o1 => exact .inr h

/-! ## The slots of both streams (R101, R106) -/

/-- The state in which the release tests of both streams are done. -/
def State.slotsTested (s : State) : State := (s.releaseStream .s0).releaseStream .s1

theorem State.reportHoldSets_eq (s : State) : s.reportHoldSets = s.slotsTested.freeRetired.drainToIdle.settle := rfl

theorem State.releaseStream_field (k : StreamId) (s : State) : s.FieldTo (s.releaseStream k) := by
  obtain ⟨xs, closed⟩ := State.finishClose_detached k (s.slotsReleased k)
  exact ((s.slotsReleased_streamed k).field.trans (State.detachSlots_curated xs _).field).trans closed.field

theorem State.releaseStream_outputs (k : StreamId) (s : State) : (s.releaseStream k).outputs = s.outputs := by
  obtain ⟨xs, closed⟩ := State.finishClose_detached k (s.slotsReleased k)
  exact closed.outputs.trans ((State.detachSlots_curated xs _).outputs.trans (s.slotsReleased_streamed k).outputs)

theorem detachSlots_cache (xs : List Slot) (s : State) : (detachSlots xs s).cache = s.cache := by
  unfold detachSlots
  refine foldl_keeps (P := fun t => t.cache = s.cache) ?_ xs rfl
  exact fun _ _ ht => ht

theorem State.releaseStream_cache (k : StreamId) (s : State) : (s.releaseStream k).cache = s.cache := by
  obtain ⟨xs, closed⟩ := State.finishClose_detached k (s.slotsReleased k)
  exact closed.cache.trans ((detachSlots_cache xs _).trans (s.slotsReleased_streamed k).cache)

theorem State.slotsTested_outputs (s : State) : s.slotsTested.outputs = s.outputs :=
  (State.releaseStream_outputs .s1 _).trans (s.releaseStream_outputs .s0)

theorem State.slotsTested_cache (s : State) : s.slotsTested.cache = s.cache :=
  (State.releaseStream_cache .s1 _).trans (s.releaseStream_cache .s0)

theorem State.slotsTested_serves (s : State) : s.Serves s.slotsTested :=
  (s.releaseStream_serves .s0).trans (State.releaseStream_serves .s1 _)

/-! ## Sources of a field while no stream is CLOSING (R42) -/

/-- The handle of a stream's current slot (R42). -/
def StreamRecord.currentHandle (r : StreamRecord) : Option Handle :=
  (r.current.bind (fun k => r.slots[k]?)).map (·.surface)

theorem State.sourceHandle_congr
    (same : ∀ i, (t.streams.get i).currentHandle = (s.streams.get i).currentHandle) (c : LayerCopy) :
    t.sourceHandle c = s.sourceHandle c := by
  unfold State.sourceHandle
  cases c.source with
  | none => rfl
  | surface h => rfl
  | stream i => exact same i

/-- A slot that changes its state keeps its surface. -/
theorem StreamRecord.modSlot_currentHandle (r : StreamRecord) (k : Nat) {f : Slot → Slot}
    (keeps : ∀ x, (f x).surface = x.surface) : (r.modSlot k f).currentHandle = r.currentHandle := by
  unfold StreamRecord.modSlot StreamRecord.currentHandle
  split
  · next x at' =>
    dsimp only
    cases r.current with
    | none => rfl
    | some j =>
      obtain ⟨lt, rfl⟩ := List.getElem?_eq_some_iff.mp at'
      by_cases e : k = j
      · subst e; simp [lt, keeps]
      · simp [e]
  · rfl

theorem State.emptySlot_currentHandle (k : StreamId) (j : Nat) (s : State) (i : StreamId) :
    ((s.emptySlot k j).streams.get i).currentHandle = (s.streams.get i).currentHandle := by
  have streams : (s.emptySlot k j).streams
      = (s.modStream k (fun r => r.modSlot j (fun x => { x with state := .empty, stamp := none }))).streams := by
    obtain ⟨_, _, e⟩ := State.slotFreed_linked k j
      (s.modStream k (fun r => r.modSlot j (fun x => { x with state := .empty, stamp := none })))
    rw [State.emptySlot, e]
  rw [streams, State.modStream_streams]
  by_cases e : i = k
  · subst e
    rw [PerStream.get_set]
    exact StreamRecord.modSlot_currentHandle _ _ (fun _ => rfl)
  · rw [PerStream.get_set_ne _ _ _ _ e]

theorem State.slotsReleased_currentHandle (k : StreamId) (s : State) (i : StreamId) :
    ((s.slotsReleased k).streams.get i).currentHandle = (s.streams.get i).currentHandle :=
  foldl_keeps (P := fun t => (t.streams.get i).currentHandle = (s.streams.get i).currentHandle)
    (fun t j ht => (t.emptySlot_currentHandle k j i).trans ht) _ rfl

theorem State.releaseStream_of_ne {k : StreamId} (h : (s.streams.get k).state ≠ .closing) :
    s.releaseStream k = s.slotsReleased k := by
  rw [State.releaseStream_eq]
  exact State.finishClose_of_ne (fun e => h ((s.releaseSlots_leavesLatches k).closing k e))

/-- Without a CLOSING stream the release tests change no more than slots and ports. -/
theorem State.slotsTested_streamed (noneCloses : ∀ i, (s.streams.get i).state ≠ .closing) :
    s.StreamedTo s.slotsTested
      ∧ ∀ i, (s.slotsTested.streams.get i).currentHandle = (s.streams.get i).currentHandle := by
  have first := State.releaseStream_of_ne (noneCloses .s0)
  have still : ((s.slotsReleased .s0).streams.get .s1).state ≠ .closing :=
    mt ((s.releaseSlots_leavesLatches .s0).closing .s1) (noneCloses .s1)
  rw [State.slotsTested, first, State.releaseStream_of_ne still]
  exact ⟨(s.slotsReleased_streamed .s0).trans (State.slotsReleased_streamed .s1 _),
    fun i => (State.slotsReleased_currentHandle .s1 _ i).trans (s.slotsReleased_currentHandle .s0 i)⟩

/-! ## The report (R43) -/

/-- The last two tests change no more than the idle list, the ports and their counters (R115, R169). -/
theorem State.drained_settled (s : State) :
    s.drainToIdle.settle.surfaces = s.surfaces ∧ s.drainToIdle.settle.layers = s.layers
      ∧ s.drainToIdle.settle.outputs = s.outputs ∧ s.drainToIdle.settle.streams = s.streams
      ∧ s.drainToIdle.settle.cache = s.drainToIdle.cache := by
  obtain ⟨_, _, settled⟩ := s.drainToIdle.settle_linked
  obtain ⟨_, drained⟩ := s.drainToIdle_idles
  rw [settled, drained]
  exact ⟨rfl, rfl, rfl, rfl, rfl⟩

theorem State.reportHoldSets_rest (s : State) :
    s.reportHoldSets.surfaces = s.slotsTested.freeRetired.surfaces
      ∧ s.reportHoldSets.layers = s.slotsTested.freeRetired.layers
      ∧ s.reportHoldSets.outputs = s.slotsTested.freeRetired.outputs
      ∧ s.reportHoldSets.streams = s.slotsTested.freeRetired.streams
      ∧ s.reportHoldSets.cache = s.slotsTested.freeRetired.drainToIdle.cache := by
  rw [State.reportHoldSets_eq]
  exact State.drained_settled _

theorem State.reportHoldSets_outputs (s : State) : s.reportHoldSets.outputs = s.outputs := by
  obtain ⟨-, -, outputs, -, -⟩ := s.reportHoldSets_rest
  exact outputs.trans (s.slotsTested.freeRetired_outputs.trans s.slotsTested_outputs)

theorem State.reportHoldSets_field (s : State) : s.FieldTo s.reportHoldSets := by
  rw [State.reportHoldSets_eq]
  exact ((((s.releaseStream_field .s0).trans (State.releaseStream_field .s1 _)).trans
    (State.freeRetired_curated _).field).trans (State.drainToIdle_curated _).field).trans
      (State.settle_linked _).streamed.field

theorem State.reportHoldSets_relisted (s : State) : s.cache.relisted s.reportHoldSets.cache := by
  obtain ⟨-, -, -, -, cache⟩ := s.reportHoldSets_rest
  rw [cache, ← s.slotsTested_cache, ← State.freeRetired_cache]
  exact (State.drainToIdle_idles _).relisted

theorem State.reportHoldSets_drawn : s.reportHoldSets.drawn i ↔ s.drawn i :=
  State.drawn_of_outputs s.reportHoldSets_outputs

theorem State.slotsTested_retains (h : s.surfaces.entries[i]? = some ⟨g, some x⟩) :
    State.Retains i g x s.slotsTested :=
  ((State.retains_of_entry h).releaseStream .s0).releaseStream .s1

/-- A surface is held where a hold set names it or a stream holds it (R7). -/
theorem State.held_iff_of_entry (h : s.surfaces.entries[i]? = some ⟨g, some x⟩) :
    s.held i = true ↔ s.drawn i ∨ x.attached ≠ none := by
  have resolves : s.resolve ⟨i, g⟩ = some x := State.resolve_eq_some.mpr h
  exact State.held_iff_drawn resolves

theorem State.slotsTested_drawn : s.slotsTested.drawn i ↔ s.drawn i :=
  State.drawn_of_outputs s.slotsTested_outputs

theorem State.entry_of_surfaceAt (h : s.surfaceAt i = some x) : ∃ g, s.surfaces.entries[i]? = some ⟨g, some x⟩ := by
  unfold State.surfaceAt at h
  obtain ⟨⟨g, b⟩, entry, rfl⟩ := Option.bind_eq_some_iff.mp h
  exact ⟨g, entry⟩

/-- The tests of surfaces and posters in the report (R17, R115). -/
theorem State.reportHoldSets_tested (s : State) : s.SetsTested s.reportHoldSets := by
  obtain ⟨surfaces, layers, outputs, -, cache⟩ := s.reportHoldSets_rest
  refine ⟨?_, ?_, ?_⟩
  · rintro i ⟨g, b⟩ x lt entry rfl retiring kind undrawn free
    obtain ⟨y, after, rest, loose⟩ := State.slotsTested_retains entry
    have unheld : s.slotsTested.held i = false := Bool.eq_false_iff.mpr fun held => by
      rcases (State.held_iff_of_entry after).mp held with drawn | attached
      · exact undrawn (State.reportHoldSets_drawn.mpr (State.slotsTested_drawn.mp drawn))
      · exact attached (loose free)
    rw [surfaces, State.freeRetired_entry lt]
    exact State.freeIfRetired_freed after (by rw [rest]; exact kind) (by rw [rest]; exact retiring) unheld
  · intro i x lt at' retiring kind
    obtain ⟨g, entry⟩ := State.entry_of_surfaceAt at'
    rw [surfaces] at entry
    have held := State.held_of_freeRetired lt entry retiring kind
    refine ((State.held_iff_of_entry entry).mp held).imp_left fun drawn => ?_
    exact (State.drawn_of_outputs outputs).mpr drawn
  · intro m mem lt x at' resident unpinned undrawn
    rw [cache] at mem ⊢
    refine State.mem_drainToIdle lt ⟨?_, ?_, ?_, ?_⟩
    · exact State.inMap_iff.mpr ⟨m, (State.drainToIdle_idles _).map ▸ mem, rfl⟩
    · obtain ⟨g, entry⟩ := State.entry_of_surfaceAt at'
      rw [surfaces] at entry
      simp [State.surfaceStateOf, State.surfaceAt, entry, resident]
    · rw [← unpinned]
      simp only [State.pinned, State.referenced, State.namedByLayers, State.copyNames, State.surfaceAt, State.resolve,
        surfaces, layers]
    · refine Bool.eq_false_iff.mpr fun held => undrawn ?_
      exact (State.drawn_of_outputs outputs).mpr (State.drawn_iff.mp held)

/-- A RETIRING surface that a hold set names stays, but for a stream that let go of it (R17). -/
theorem State.reportHoldSets_retains (h : s.surfaces.entries[i]? = some ⟨g, some x⟩) (drawn : s.drawn i) :
    State.Retains i g x s.reportHoldSets := by
  obtain ⟨surfaces, -⟩ := s.reportHoldSets_rest
  obtain ⟨y, after, rest⟩ := State.slotsTested_retains h
  have held := (State.held_iff_of_entry after).mpr (.inl (State.slotsTested_drawn.mpr drawn))
  refine ⟨y, ?_, rest⟩
  rw [surfaces, State.freeRetired_held held]
  exact after

/-- A port that is offered notices loses count of none in the report (R179). -/
theorem State.reportHoldSets_lost (listens : (s.ports.get p).status = .attached) :
    (s.ports.get p).lost ≤ (s.reportHoldSets.ports.get p).lost := by
  rw [State.reportHoldSets_eq]
  have curated := (State.freeRetired_curated s.slotsTested).trans (State.drainToIdle_curated _)
  have served := s.slotsTested_serves.trans (State.serves_of_ports curated.ports)
  exact (served p).2.1.trans (State.settle_noticed ((served p).status.trans listens)).2.1

/-- The teardowns that the report ends (R169, R171). -/
theorem State.reportHoldSets_ends (p : Port) (s : State) : s.TeardownEnds s.reportHoldSets p := by
  rw [State.reportHoldSets_eq]
  have curated := (State.freeRetired_curated s.slotsTested).trans (State.drainToIdle_curated _)
  exact (State.settle_ends p _).of_serves (s.slotsTested_serves.trans (State.serves_of_ports curated.ports))
    fun listens => (State.settle_noticed listens).2.1

/-- While no stream is CLOSING, a record whose source is held or resolves to nothing keeps its active copy in the report,
and what its source draws. -/
theorem State.reportHoldSets_source (noneCloses : ∀ i, (s.streams.get i).state ≠ .closing) (hl : s.layers[id]? = some r)
    (held : ∀ h x, s.sourceHandle r.active = some h → s.resolve h = some x → s.drawn h.index) :
    (∃ q, s.reportHoldSets.layers[id]? = some q ∧ q.active = r.active)
      ∧ s.reportHoldSets.sourceHandle r.active = s.sourceHandle r.active
      ∧ ∀ h, s.sourceHandle r.active = some h → s.reportHoldSets.resolve h = s.resolve h := by
  obtain ⟨surfaces, layers, -, streams, -⟩ := s.reportHoldSets_rest
  obtain ⟨tested, slots⟩ := State.slotsTested_streamed noneCloses
  have resolves (h : Handle) : s.slotsTested.resolve h = s.resolve h := by
    simp only [State.resolve, tested.surfaces]
  have heldThen (h : Handle) (x : Surface) (hs : s.sourceHandle r.active = some h)
      (hr : s.slotsTested.resolve h = some x) : s.slotsTested.held h.index = true :=
    (State.held_iff_drawn hr).mpr (.inl (State.slotsTested_drawn.mpr (held h x hs (resolves h ▸ hr))))
  have freed := State.freeRetired_freedTo (s := s.slotsTested) (id := id) (r := r) (by rw [tested.layers]; exact hl)
    fun h x source hr => heldThen h x (by simp [State.sourceHandle, source]) hr
  refine ⟨by rw [layers]; exact freed.active, ?_, fun h hs => ?_⟩
  · refine State.sourceHandle_congr (fun i => ?_) r.active
    rw [streams, (State.freeRetired_curated _).streams]
    exact slots i
  · cases hr : s.slotsTested.resolve h with
    | some x =>
      have entry := State.resolve_eq_some.mp hr
      rw [← resolves, hr, State.resolve_eq_some, surfaces, State.freeRetired_held (heldThen h x hs hr), entry]
    | none =>
      rw [← resolves, hr, Option.eq_none_iff_forall_ne_some]
      intro x hx
      rw [State.resolve_eq_some, surfaces] at hx
      rw [State.resolve_eq_some.mpr (freed.entries _ _ _ hx)] at hr
      cases hr

end Sys2Proof.Machine
end

section
/-! SUPPORT. The field start of an output as a whole (R75 to R77, R82 to R84): the output and the notices of the field that
begins, what the latches leave of surfaces, posters and ports, and the sets formed from them. -/

namespace Sys2Proof.Machine

variable {s t u : State} {o : OutputId} {p : Port} {i : Nat} {g : Byte} {x : Surface} {q : OutputState}

/-! ## The output of the field that begins (R77, R82) -/

/-- Table 4-5 by the target. -/
theorem settlePanel_eq (held : PanelState) (target : Wish) (count wake : Nat) : settlePanel held target count wake =
    if target = .asleep then .asleep
    else if target = .blanked then .blanked
    else if held = .waking ∧ count ≤ wake then .waking else .active := by
  cases target with
  | asleep => cases held <;> rfl
  | blanked => cases held <;> rfl
  | active => cases held <;> simp [settlePanel]

/-- Step 2 of R75 at an output (R82). -/
def OutputState.settled (q : OutputState) : OutputState :=
  { q with panel := settlePanel q.panel (panelTarget q.wishes) q.fieldCount.toNat q.timing.wakeFields }

/-- An output once its field has begun: steps 1 and 2 of R75. -/
def OutputState.begun (q : OutputState) : OutputState := q.advance.settled

/-- The state after step 1 of R75. -/
def State.fieldAdvanced (o : OutputId) (s : State) : State :=
  (s.modOut o OutputState.advance).modCounters (fun c => c.onOutput o (fun k => { k with fields := satSucc k.fields }))

/-- The state in which the field is counted and the panel state settled, the notices apart. -/
def State.fieldCounted (o : OutputId) (s : State) : State :=
  (s.modOut o OutputState.begun).modCounters (fun c => c.onOutput o (fun k => { k with fields := satSucc k.fields }))

theorem State.settleOutput_cases (o : OutputId) (s : State) :
    ((s.outputs.get o).settled = s.outputs.get o ∧ s.settleOutput o = s)
    ∨ s.settleOutput o = (s.modOut o OutputState.settled).panelNotice o := by
  unfold State.settleOutput
  dsimp only
  split
  · next same => exact .inl ⟨by rw [OutputState.settled, same], rfl⟩
  · exact .inr rfl

theorem State.settleOutput_linked (o : OutputId) (s : State) :
    (s.modOut o OutputState.settled).LinkedTo (s.settleOutput o) := by
  rcases s.settleOutput_cases o with ⟨same, e⟩ | e <;> rw [e]
  · rw [State.modOut, same, PerOutput.set_get]
    exact s.linkedTo_refl
  · exact State.publish_linked _ _ _

theorem State.fieldBegun_eq (o : OutputId) (s : State) : s.fieldBegun o =
    State.streamField .s1 o (s.outputs.get o).fieldAdvance (State.streamField .s0 o (s.outputs.get o).fieldAdvance
      (((s.fieldAdvanced o).settleOutput o).fieldNotice o)) := rfl

theorem State.fieldBegun_streamed (o : OutputId) (s : State) : (s.fieldCounted o).StreamedTo (s.fieldBegun o) := by
  have counted : (s.fieldAdvanced o).modOut o OutputState.settled = s.fieldCounted o := by
    simp [State.fieldCounted, State.fieldAdvanced, State.modOut, State.modCounters, OutputState.begun]
  rw [← counted, State.fieldBegun_eq]
  exact (((State.settleOutput_linked o _).trans (State.publish_linked _ _ _)).streamed.trans
    (State.streamField_streamed .s0 o _ _)).trans (State.streamField_streamed .s1 o _ _)

theorem State.fieldBegun_serves (o : OutputId) (s : State) : s.Serves (s.fieldBegun o) :=
  (s.fieldBegun_leavesLatches o).serves

theorem State.fieldBegun_outputs (o : OutputId) (s : State) :
    (s.fieldBegun o).outputs = s.outputs.set o (s.outputs.get o).begun := (s.fieldBegun_streamed o).outputs

/-! ## The notices of the field that begins (R76, R84) -/

theorem State.notifyIf_of_off {x : Topic} (off : ¬ (s.ports.get p).mask.getLsbD x.bit = true) (n : Notice) :
    s.notifyIf x p n = s := by
  rw [State.notifyIf, PortState.subscribed, if_neg off]

theorem State.publish_get_of_off {x : Topic} (off : ¬ (s.ports.get p).mask.getLsbD x.bit = true) (n : Notice) :
    (s.publish x n).ports.get p = s.ports.get p := by
  unfold State.publish
  cases p with
  | a => rw [State.notifyIf_get_ne (by decide), State.notifyIf_of_off off]
  | b =>
    have same := s.notifyIf_get_ne (p := .a) (p' := .b) (by decide) x n
    rw [State.notifyIf_of_off (by rw [same]; exact off), same]

/-- A notice takes at most one of the places a port has left (R179). -/
theorem State.publish_hears {bit k : Nat} (h : (s.ports.get p).hears bit (k + 1)) (x : Topic) (n : Notice) :
    ((s.publish x n).ports.get p).hears bit k := by
  obtain ⟨attached, subscribed, room⟩ := h
  by_cases listens : (s.ports.get p).mask.getLsbD x.bit = true
  · rw [State.publish_get ⟨attached, listens, by omega⟩]
    exact ⟨attached, subscribed, by simp; omega⟩
  · rw [State.publish_get_of_off listens]
    exact ⟨attached, subscribed, by omega⟩

theorem State.mem_publish {x : Topic} (h : (s.ports.get p).hears x.bit 1) (n : Notice) :
    n ∈ ((s.publish x n).ports.get p).notices := by
  rw [State.publish_get h]
  simp

/-- The notices of steps 2 and 3 stay in the queues (R75). -/
theorem State.fieldBegun_keepsNotices (o : OutputId) (s : State) :
    ((s.fieldAdvanced o).settleOutput o).KeepsNotices (s.fieldBegun o)
      ∧ (((s.fieldAdvanced o).settleOutput o).fieldNotice o).KeepsNotices (s.fieldBegun o) := by
  rw [State.fieldBegun_eq]
  have streams (u : State) (n : Nat) : u.LeavesLatches (State.streamField .s1 o n (State.streamField .s0 o n u)) :=
    (u.leavesLatches_refl.streamField .s0 o n).streamField .s1 o n
  exact ⟨((State.leavesLatches_refl _).publish _ _ |>.trans (streams _ _)).keepsNotices, (streams _ _).keepsNotices⟩

/-- A port that hears FIELD START and has room for two notices is told of the field (R76). -/
theorem State.fieldStart_mem_fieldBegun (h : (s.ports.get p).hears (outputNum o) 2) :
    .fieldStart o ((s.outputs.get o).fieldCount + 1) ∈ ((s.fieldBegun o).ports.get p).notices := by
  obtain ⟨-, keeps⟩ := s.fieldBegun_keepsNotices o
  refine (keeps p).mem ?_
  have bit : outputNum o = (Topic.fieldStart o).bit := by cases o <;> rfl
  have room : (((s.fieldAdvanced o).settleOutput o).ports.get p).hears (Topic.fieldStart o).bit 1 := by
    rw [← bit]
    rcases (s.fieldAdvanced o).settleOutput_cases o with ⟨-, e⟩ | e <;> rw [e]
    · obtain ⟨attached, subscribed, room⟩ := h
      exact ⟨attached, subscribed, Nat.le_of_succ_le room⟩
    · exact State.publish_hears (s := (s.fieldAdvanced o).modOut o OutputState.settled) h _ _
  have count : (((s.fieldAdvanced o).settleOutput o).outputs.get o).fieldCount = (s.outputs.get o).fieldCount + 1 := by
    obtain ⟨_, _, e⟩ := (s.fieldAdvanced o).settleOutput_linked o
    rw [e]
    simp [State.fieldAdvanced, OutputState.settled, OutputState.advance]
  have told := State.mem_publish room (.fieldStart o (((s.fieldAdvanced o).settleOutput o).outputs.get o).fieldCount)
  rw [count] at told
  rw [State.fieldNotice, count]
  exact told

/-- A port that hears PANEL STATE and has room is told of a change of the panel state (R84). -/
theorem State.panelState_mem_fieldBegun (changes : (s.outputs.get o).begun.panel ≠ (s.outputs.get o).panel)
    (h : (s.ports.get p).hears 2 1) : .panelState o (s.outputs.get o).begun.panel (s.outputs.get o).forcedBlank
      ((s.outputs.get o).fieldCount + 1) ∈ ((s.fieldBegun o).ports.get p).notices := by
  obtain ⟨keeps, -⟩ := s.fieldBegun_keepsNotices o
  refine (keeps p).mem ?_
  have advanced : (s.fieldAdvanced o).outputs.get o = (s.outputs.get o).advance := by simp [State.fieldAdvanced]
  rcases (s.fieldAdvanced o).settleOutput_cases o with ⟨same, -⟩ | e
  · rw [advanced] at same
    exact absurd (congrArg OutputState.panel same) changes
  · rw [e, State.panelNotice, State.modOut_outputs, PerOutput.get_set, advanced]
    exact State.mem_publish (x := .panelState) (s := (s.fieldAdvanced o).modOut o OutputState.settled) h _

/-! ## The latches (R38) -/

theorem State.takeLatches_outputs (o : OutputId) (s : State) : (s.takeLatches o).outputs =
    s.outputs.set o { s.outputs.get o with latches := [], internal := ⟨false, false⟩ } := by
  rw [State.takeLatches_eq, (State.reportUnnamed_curated _ _).outputs]
  exact (completeLatches_linked _ _ _ _).streamed.outputs

theorem State.takeLatches_field (o : OutputId) (s : State) : s.FieldTo (s.takeLatches o) := by
  have written : s.FieldTo (s.latchesWritten o) := ⟨_, _, _, _, _, _, _, _, rfl⟩
  rw [State.takeLatches_eq]
  exact (written.trans (completeLatches_linked _ _ _ _).streamed.field).trans (State.reportUnnamed_curated _ _).field

theorem State.takeLatches_serves (o : OutputId) (s : State) : s.Serves (s.takeLatches o) := fun p => by
  rw [s.takeLatches_ports]
  exact completeLatches_serves o _ _ (s.latchesWritten o) p

theorem State.takeLatches_relisted (o : OutputId) (s : State) : s.cache.relisted (s.takeLatches o).cache := by
  have completed := (completeLatches_linked o (s.outputs.get o).fieldCount (s.outputs.get o).latches
    (s.latchesWritten o)).streamed.cache
  have listed := State.reportUnnamed_relisted s
    (completeLatches o (s.outputs.get o).fieldCount (s.outputs.get o).latches (s.latchesWritten o))
  rw [completed] at listed
  exact listed

theorem State.takeLatches_entry (h : s.surfaces.entries[i]? = some ⟨g, some x⟩) (ne : x.state ≠ .resident) :
    (s.takeLatches o).surfaces.entries[i]? = some ⟨g, some x⟩ := by
  rw [State.takeLatches_eq]
  refine State.reportUnnamed_entry s ?_ ne
  rw [(completeLatches_linked _ _ _ _).streamed.surfaces]
  exact h

theorem State.takeLatches_entriesLength (o : OutputId) (s : State) :
    (s.takeLatches o).surfaces.entries.length = s.surfaces.entries.length :=
  (entriesLength_stable _).takeLatches (fun _ _ _ h => h) o rfl

/-! ## The field start as a whole -/

/-- The state once the sets of the field are formed, before their report (R41 to R44). -/
def State.setsFormed (o : OutputId) (s : State) : State :=
  s.modOut o (fun q =>
    { q with
      layers := s.fieldSet o, holdSet := holdSetOf (s.fieldSet o), nextLine := 0, work := none, ahead := [], line := []
      leadIn := false })

theorem State.fieldEnded_eq (o : OutputId) (s : State) :
    s.fieldEnded o = (s.setsFormed o).reportHoldSets.modOut o OutputState.fallAsleep := by
  have formed : (s.formSets o).modOut o (fun q =>
      { q with nextLine := 0, work := none, ahead := [], line := [], leadIn := false }) = s.setsFormed o := by
    simp only [State.formSets, State.modOut_modOut]
    rfl
  rw [State.fieldEnded, formed]

/-- The state in which the sets of a field start are formed. -/
def State.fieldFormed (o : OutputId) (s : State) : State := ((s.fieldBegun o).takeLatches o).setsFormed o

theorem State.fieldStart_formed (o : OutputId) (s : State) :
    s.fieldStart o = (s.fieldFormed o).reportHoldSets.modOut o OutputState.fallAsleep := by
  rw [State.fieldStart_eq, State.fieldEnded_eq]
  rfl

theorem State.fieldFormed_serves (o : OutputId) (s : State) : s.Serves (s.fieldFormed o) :=
  ((s.fieldBegun_serves o).trans (State.takeLatches_serves o _)).trans (State.serves_of_ports rfl)

theorem State.fieldFormed_relisted (o : OutputId) (s : State) : s.cache.relisted (s.fieldFormed o).cache := by
  have begun : (s.fieldBegun o).cache = s.cache := (s.fieldBegun_streamed o).cache
  have listed := (s.fieldBegun o).takeLatches_relisted o
  rw [begun] at listed
  exact listed

theorem State.fieldFormed_entry (h : s.surfaces.entries[i]? = some ⟨g, some x⟩) (ne : x.state ≠ .resident) :
    (s.fieldFormed o).surfaces.entries[i]? = some ⟨g, some x⟩ := by
  refine State.takeLatches_entry (s := s.fieldBegun o) ?_ ne
  rw [(s.fieldBegun_streamed o).surfaces]
  exact h

/-- The output once its field start is done, with the field layer set `ls`. -/
def OutputState.started (q : OutputState) (ls : List FieldLayer) : OutputState :=
  OutputState.fallAsleep
    { q.begun with
      latches := [], internal := ⟨false, false⟩, layers := ls, holdSet := holdSetOf ls, nextLine := 0, work := none
      ahead := [], line := [], leadIn := false }

theorem OutputState.fallAsleep_eq (q : OutputState) : q.fallAsleep =
    { q with
      running := if q.panel = .asleep then false else q.running
      pen := if q.panel = .asleep then false else q.pen } := by
  unfold OutputState.fallAsleep
  split <;> rfl

theorem State.fieldStart_outputs (o : OutputId) (s : State) : (s.fieldStart o).outputs =
    s.outputs.set o ((s.outputs.get o).started (((s.fieldBegun o).takeLatches o).fieldSet o)) := by
  rw [State.fieldStart_formed, State.modOut_outputs, State.reportHoldSets_outputs, State.fieldFormed, State.setsFormed,
    State.modOut_outputs, State.takeLatches_outputs, State.fieldBegun_outputs]
  simp [OutputState.started]

theorem State.setsFormed_field (o : OutputId) (s : State) : s.FieldTo (s.setsFormed o) := s.modOut_field o _

/-- A field start changes no more than the output it is of, its fields counter, and what `State.FieldTo` names. -/
theorem State.fieldStart_field (o : OutputId) (s : State) : (s.fieldCounted o).FieldTo (s.fieldStart o) := by
  have formed : (s.fieldCounted o).FieldTo (s.fieldFormed o) :=
    ((s.fieldBegun_streamed o).field.trans (State.takeLatches_field o _)).trans (State.setsFormed_field o _)
  rw [State.fieldStart_formed]
  exact (formed.trans (State.reportHoldSets_field _)).trans (State.modOut_field o _ _)

theorem State.fieldStart_drawn : (s.fieldStart o).drawn i ↔ (s.fieldFormed o).reportHoldSets.drawn i := by
  rw [State.fieldStart_formed]
  refine State.drawn_congr fun k => ?_
  by_cases e : k = o
  · subst e
    simp [OutputState.fallAsleep_eq]
  · simp [PerOutput.get_set_ne _ _ _ _ e]

end Sys2Proof.Machine
end

section
/-! SUPPORT. FIELD START settled (O42): the parts of the statement, each from the state in which the sets are formed and the
report that follows. -/

namespace Sys2Proof.Machine

variable {s : State} {o : OutputId} {p : Port} {i : Nat} {g : Byte} {x : Surface} {q : OutputState} {l : FieldLayer}

/-! ## From the report to the field start (R83) -/

theorem State.fieldStart_rest (o : OutputId) (s : State) :
    (s.fieldStart o).surfaces = (s.fieldFormed o).reportHoldSets.surfaces
      ∧ (s.fieldStart o).layers = (s.fieldFormed o).reportHoldSets.layers
      ∧ (s.fieldStart o).streams = (s.fieldFormed o).reportHoldSets.streams
      ∧ (s.fieldStart o).cache = (s.fieldFormed o).reportHoldSets.cache
      ∧ (s.fieldStart o).ports = (s.fieldFormed o).reportHoldSets.ports := by
  rw [State.fieldStart_formed]
  exact ⟨State.modOut_surfaces .., State.modOut_layers .., State.modOut_streams .., State.modOut_cache ..,
    State.modOut_ports ..⟩

/-- No notice of the field leaves its queue again (R75). -/
theorem State.fieldStart_keepsNotices (o : OutputId) (s : State) : (s.fieldBegun o).KeepsNotices (s.fieldStart o) := by
  rw [State.fieldStart_eq]
  have taken : (s.fieldBegun o).KeepsNotices ((s.fieldBegun o).takeLatches o) := fun p =>
    (State.takeLatches_serves o (s.fieldBegun o) p).1
  exact taken.trans (State.fieldEnded_keepsNotices o _)

theorem State.fieldStart_relisted (o : OutputId) (s : State) : s.cache.relisted (s.fieldStart o).cache := by
  obtain ⟨-, -, -, cache, -⟩ := s.fieldStart_rest o
  rw [cache]
  exact (s.fieldFormed_relisted o).trans (s.fieldFormed o).reportHoldSets_relisted

/-- The tests of R17 and R115 at the new hold sets. -/
theorem State.fieldStart_tested (o : OutputId) (s : State) : s.SetsTested (s.fieldStart o) := by
  obtain ⟨surfaces, layers, -, cache, -⟩ := s.fieldStart_rest o
  obtain ⟨freed, left, idle⟩ := (s.fieldFormed o).reportHoldSets_tested
  have surfaceAt (i : Nat) : (s.fieldStart o).surfaceAt i = (s.fieldFormed o).reportHoldSets.surfaceAt i := by
    rw [State.surfaceAt, State.surfaceAt, surfaces]
  have pinned (i : Nat) : (s.fieldStart o).pinned i = (s.fieldFormed o).reportHoldSets.pinned i := by
    simp only [State.pinned, State.referenced, State.namedByLayers, State.copyNames, State.resolve, surfaceAt, surfaces,
      layers]
  refine ⟨?_, fun i x lt at' retiring kind => ?_, fun m mem lt x at' resident unpinned undrawn => ?_⟩
  · rintro i ⟨g, b⟩ x lt entry rfl retiring kind undrawn free
    rw [surfaces]
    exact freed i _ x lt (s.fieldFormed_entry entry (by simp [retiring])) rfl retiring kind
      (mt State.fieldStart_drawn.mpr undrawn) free
  · rw [State.fieldStart_drawn]
    exact left i x lt (surfaceAt i ▸ at') retiring kind
  · rw [cache] at mem ⊢
    exact idle m mem lt x (surfaceAt m.surface ▸ at') resident (pinned m.surface ▸ unpinned)
      (mt State.fieldStart_drawn.mpr undrawn)

/-- A RETIRING surface that a hold set names stays (R17). -/
theorem State.fieldStart_retains (entry : s.surfaces.entries[i]? = some ⟨g, some x⟩) (retiring : x.state = .retiring)
    (drawn : (s.fieldStart o).drawn i) : State.Retains i g x (s.fieldStart o) := by
  obtain ⟨surfaces, -⟩ := s.fieldStart_rest o
  have held : (s.fieldFormed o).drawn i := State.reportHoldSets_drawn.mp (State.fieldStart_drawn.mp drawn)
  exact (State.reportHoldSets_retains (s.fieldFormed_entry entry (by simp [retiring])) held).of_surfaces surfaces

/-- The teardowns that the field start ends (R169, R171). -/
theorem State.fieldStart_ends (o : OutputId) (p : Port) (s : State) : s.TeardownEnds (s.fieldStart o) p := by
  have ends := ((s.fieldFormed o).reportHoldSets_ends p).of_serves (s.fieldFormed_serves o) State.reportHoldSets_lost
  rw [State.fieldStart_formed]
  exact ends.modOut (fun q => by rw [OutputState.fallAsleep_eq]) o

/-! ## The sets of the field (R41 to R44) -/

theorem State.fieldTaken_output (o : OutputId) (s : State) :
    (((s.fieldBegun o).takeLatches o).outputs.get o).panel = (s.outputs.get o).begun.panel
      ∧ (((s.fieldBegun o).takeLatches o).outputs.get o).forcedBlank = (s.outputs.get o).forcedBlank := by
  rw [State.takeLatches_outputs, State.fieldBegun_outputs]
  simp [OutputState.begun, OutputState.settled, OutputState.advance]

theorem State.fieldTaken_entriesLength (o : OutputId) (s : State) :
    ((s.fieldBegun o).takeLatches o).surfaces.entries.length = s.surfaces.entries.length := by
  rw [State.takeLatches_entriesLength, (s.fieldBegun_streamed o).surfaces]
  rfl

theorem State.fieldStart_layersFrom_taken (o : OutputId) (s : State) :
    State.LayersFrom ((s.fieldBegun o).takeLatches o).layers (s.fieldStart o) :=
  State.fieldEnded_layersFrom o (State.layersFrom_self _)

/-- What the field keeps of a record is true of the state after the field start (R41, R42, R50, R52). -/
theorem State.fieldStart_froze (len : s.surfaces.entries.length = 160)
    (noneCloses : ∀ i, (s.streams.get i).state ≠ .closing)
    (mem : l ∈ ((s.fieldBegun o).takeLatches o).fieldSet o) {r : LayerRecord}
    (at' : (s.fieldStart o).layers[l.id]? = some r) : (s.fieldStart o).Froze r.active l := by
  obtain ⟨surfaces, layers, streams, -, -⟩ := s.fieldStart_rest o
  obtain ⟨r₀, before, frozen⟩ := State.mem_fieldSet mem
  have formedCloses (i : StreamId) : ((s.fieldFormed o).streams.get i).state ≠ .closing := by
    have taken : ((s.fieldFormed o).streams) = (s.fieldBegun o).streams := State.takeLatches_streams o _
    rw [taken]
    exact mt ((s.fieldBegun_leavesLatches o).closing i) (noneCloses i)
  have held (h : Handle) (x : Surface) (hs : ((s.fieldBegun o).takeLatches o).sourceHandle r₀.active = some h)
      (hr : ((s.fieldBegun o).takeLatches o).resolve h = some x) : (s.fieldFormed o).drawn h.index := by
    refine State.drawn_of_mem (o := o) ?_
    rw [State.fieldFormed, State.setsFormed, State.modOut_outputs, PerOutput.get_set]
    exact State.holds_source ((s.fieldTaken_entriesLength o).trans len) mem frozen hs hr
  obtain ⟨⟨q, after, active⟩, handle, resolves⟩ :=
    State.reportHoldSets_source (s := s.fieldFormed o) formedCloses before held
  rw [layers, after] at at'
  obtain rfl := Option.some.inj at'
  rw [active, frozen]
  refine (State.froze_freeze _ l.id r₀.active).congr ?_ fun h hs => ?_
  · refine Eq.trans ?_ handle
    exact State.sourceHandle_congr (fun i => by rw [streams]) _
  · refine Eq.trans ?_ (resolves h hs)
    rw [State.resolve, State.resolve, surfaces]

/-! ## The output (R77, R82, R83) -/

theorem OutputState.started_eq (running : q.running = true) (ls : List FieldLayer) : q.started ls =
    { q with
      running := q.begun.panel != .asleep, leadIn := false, fieldCount := q.fieldCount + 1
      acc := (q.acc + q.timing.advanceN) % q.timing.advanceD, panel := q.begun.panel
      pen := if q.begun.panel = .asleep then false else q.pen, latches := [], internal := ⟨false, false⟩, layers := ls
      holdSet := holdSetOf ls, nextLine := 0, work := none, ahead := [], line := [] } := by
  have runs : (if q.begun.panel = .asleep then false else q.running) = (q.begun.panel != .asleep) := by
    rw [running]
    cases q.begun.panel <;> rfl
  rw [OutputState.started, OutputState.fallAsleep_eq]
  simp only [← runs]
  simp only [OutputState.begun, OutputState.settled, OutputState.advance_eq]

theorem OutputState.begun_panel (q : OutputState) : q.begun.panel =
    if panelTarget q.wishes = .asleep then .asleep
    else if panelTarget q.wishes = .blanked then .blanked
    else if q.panel = .waking ∧ (q.fieldCount + 1).toNat ≤ q.timing.wakeFields then .waking else .active :=
  settlePanel_eq ..

/-- Settles O42: the output and the notices come from the field that begins, the sets from the records once the latches are
taken, and the rest from the report of the new hold sets. -/
theorem fieldStartTaken : Obligations.FieldStartTaken := by
  intro s o awake on running
  refine ⟨_, execFieldStart_running awake on running, ?_⟩
  intro q r k count target panel
  let u := (s.fieldBegun o).takeLatches o
  let ls := u.fieldSet o
  have shown : q.begun.panel = panel := q.begun_panel
  have outputs : (s.fieldStart o).outputs = s.outputs.set o (q.started ls) := s.fieldStart_outputs o
  have output : r = q.started ls := by
    show (s.fieldStart o).outputs.get o = _
    rw [outputs, PerOutput.get_set]
  have started := OutputState.started_eq running ls
  rw [shown] at started
  have layers : r.layers = ls := by rw [output, started]
  have holdSet : r.holdSet = holdSetOf ls := by rw [output, started]
  obtain ⟨blanks, draws⟩ := s.fieldTaken_output o
  have len := s.fieldTaken_entriesLength o
  obtain ⟨relisted, idle, stale⟩ := s.fieldStart_relisted o
  refine ⟨?_, ?_, fun dark => ?_, fun shines lit => ⟨?_, fun full noneCloses l mem x at' => ?_⟩, fun full i => ?_, ?_,
    fun p => ⟨fun hears => ?_, fun changes hears => ?_, s.fieldStart_tested o, ?_, relisted, idle, stale,
      fun p => s.fieldStart_ends o p⟩⟩
  · refine (s.fieldStart_field o).eq.trans ?_
    rw [output, outputs]
    rfl
  · rw [layers, holdSet, output, started]
    rfl
  · have empty : ls = [] := if_neg fun lit => ?_
    · rw [layers, holdSet, empty]
      exact ⟨rfl, List.filter_eq_nil_iff.mpr (by simp)⟩
    · rw [blanks, draws, shown] at lit
      rcases dark with other | forced
      · exact other lit.1
      · rw [lit.2] at forced
        cases forced
  · have full : ls = u.fieldLayers o := if_pos ⟨blanks.trans (shown.trans shines), draws.trans lit⟩
    rw [layers, full, State.fieldLayers_ids, ← (s.fieldStart_layersFrom_taken o).drawsOn,
      ← (s.fieldStart_layersFrom_taken o).length]
    refine List.filter_congr fun id _ => ?_
    rw [drawsOn]
    cases (s.fieldStart o).layers[id]? <;> rfl
  · have mem : l ∈ ls := layers ▸ mem
    exact State.fieldStart_froze full noneCloses mem at'
  · rw [holdSet, layers]
    exact State.mem_fieldHoldSet (len.trans full)
  · rw [holdSet]
    exact holdSetOf_pairwise ls
  · exact (s.fieldStart_keepsNotices o p).mem (State.fieldStart_mem_fieldBegun hears)
  · rw [← shown] at changes ⊢
    exact (s.fieldStart_keepsNotices o p).mem (State.panelState_mem_fieldBegun changes hears)
  · rintro i ⟨g, b⟩ x lt entry rfl retiring kind drawn
    obtain ⟨y, after, rest, -⟩ := State.fieldStart_retains entry retiring drawn
    exact ⟨y, after, rest⟩

end Sys2Proof.Machine
end

section
/-! SUPPORT. The commands on an open stream (R93, R107): the checks of R93, what the notice and the report of a stream leave, and
START, PAUSE, RESUME STREAM and FRAME READY by their owning block (R94, R96, R97, R103). -/

namespace Sys2Proof.Machine

variable {s t u : State} {p : Port} {c : Cmd} {f : Frame} {rest : List Frame} {i : StreamId} {r : StreamRecord}

/-! ## The checks of R93 -/

@[simp] theorem State.dequeued_streams : (s.dequeued p rest).streams = s.streams := rfl

theorem streamOfCode_streamNum (i : StreamId) : streamOfCode (streamNum i) = some i := by cases i <;> rfl

theorem streamOfCode_eq_none {n : Nat} (bad : 2 ≤ n) : streamOfCode n = none := by
  obtain ⟨k, rfl⟩ : ∃ k, n = k + 2 := ⟨n - 2, by omega⟩
  rfl

theorem State.ownStream_unknown {n : Nat} (bad : 2 ≤ n) : u.ownStream p n = .error .badHandle := by
  simp only [State.ownStream, streamOfCode_eq_none bad]

theorem State.ownStream_closed (closed : (u.streams.get i).state = .idleClosed) :
    u.ownStream p (streamNum i) = .error .wrongState := by
  simp only [State.ownStream, streamOfCode_streamNum, closed, if_true]

theorem State.ownStream_notOwner (isOpen : (u.streams.get i).state ≠ .idleClosed)
    (other : (u.streams.get i).owner ≠ some p) : u.ownStream p (streamNum i) = .error .notOwner := by
  simp only [State.ownStream, streamOfCode_streamNum, isOpen, if_false]
  exact if_pos other

theorem State.ownStream_owner (isOpen : (u.streams.get i).state ≠ .idleClosed)
    (owner : (u.streams.get i).owner = some p) : u.ownStream p (streamNum i) = .ok i := by
  simp only [State.ownStream, streamOfCode_streamNum, isOpen, if_false]
  exact if_neg (not_not_intro owner)

section
variable {body : StreamId → State → State}

theorem State.onStream_refused {st : Status} (refused : u.ownStream p (u8 f.payload 0) = .error st) :
    u.onStream p f body = u.complete p f st .none := by
  simp only [State.onStream, refused]

theorem State.onStream_owner (number : u8 f.payload 0 = streamNum i) (isOpen : (u.streams.get i).state ≠ .idleClosed)
    (owner : (u.streams.get i).owner = some p) : u.onStream p f body = body i u := by
  simp only [State.onStream, number, State.ownStream_owner isOpen owner]

end

/-- The six commands on an open stream begin with the checks of R93. -/
theorem exec_streamCommand
    (six : c ∈ [Cmd.startStream, .frameReady, .pauseStream, .resumeStream, .stopStream, .closeStream]) :
    ∃ body : Frame → StreamId → State → State,
      exec (c.instr p) s = .next (s.taking p c (fun f => State.onStream p f (body f))) := by
  simp only [List.mem_cons, List.not_mem_nil, or_false] at six
  rcases six with rfl | rfl | rfl | rfl | rfl | rfl <;> exact ⟨_, rfl⟩

/-! ## The notice and the report of a stream (R93, R107) -/

theorem State.LinkedTo.eq (h : s.LinkedTo t) :
    t = { s with ports := t.ports, counters := { s.counters with port := t.counters.port } } := by
  obtain ⟨_, _, rfl⟩ := h
  rfl

theorem State.LinkedTo.streams (h : s.LinkedTo t) : t.streams = s.streams := by obtain ⟨_, _, rfl⟩ := h; rfl

theorem State.LinkedTo.streamReport (h : s.LinkedTo t) : t.streamReport i = s.streamReport i := by
  rw [State.streamReport, State.streamReport, h.streams]

theorem State.streamNotice_linked (i : StreamId) (s : State) : s.LinkedTo (s.streamNotice i) := State.publish_linked _ _ _

/-- A stream command that ends with STREAM STATE and the stream report, after work that gave the ports no more than notices. -/
theorem Takes.reports (h : Takes s p c f rest) (told : ∀ q, ((s.dequeued p rest).ports.get q).noticed (u.ports.get q)) :
    let t := (u.streamNotice i).completeStream p f i
    u.LinkedTo t
      ∧ (s.ports.get p).completed (t.ports.get p) rest (.completion f.tag f.code .ok none (.stream (u.streamReport i)))
      ∧ (s.ports.get p.other).noticed (t.ports.get p.other) := by
  intro t
  have linked := u.streamNotice_linked i
  have ports (q : Port) : ((s.dequeued p rest).ports.get q).noticed ((u.streamNotice i).ports.get q) :=
    (told q).trans ((u.leavesLatches_refl.publish _ _).ports q)
  have here : (s.dequeued p rest).ports.get p = { s.ports.get p with queue := rest } := by simp [State.dequeued]
  have there : (s.dequeued p rest).ports.get p.other = s.ports.get p.other := by simp [State.dequeued]
  have alive : ((u.streamNotice i).ports.get p).status ≠ .resetting := by
    rw [(ports p).account.1, here]
    exact h.ne_resetting
  refine ⟨linked.trans (State.deliver_linked p _ _), ?_⟩
  simp only [t, State.completeStream, State.complete, State.deliver_of_ne _ alive, linked.streamReport,
    State.modPort_ports, PerPort.get_set, PerPort.get_other_set]
  exact ⟨PortState.noticed.answered (here ▸ ports p) _, there ▸ ports p.other⟩

/-- The other port has STREAM STATE as its last notice where it hears it (R107). -/
theorem State.streamNotice_last (same : u.ports.get p.other = s.ports.get p.other)
    (hears : (s.ports.get p.other).hears 4 1) :
    (((u.streamNotice i).completeStream p f i).ports.get p.other).notices.getLast? =
      some (.streamState i (u.streams.get i).state (u.streams.get i).owner (u.streams.get i).clockOutput
        (u.streams.get i).clock) := by
  have joined : (u.streamNotice i).ports.get p.other = (u.ports.get p.other).join _ :=
    State.publish_get (x := .streamState) (same.symm ▸ hears) _
  have untouched : ((u.streamNotice i).completeStream p f i).ports.get p.other = (u.streamNotice i).ports.get p.other := by
    unfold State.completeStream State.complete State.deliver
    split <;> simp
  rw [untouched, joined]
  simp

/-- A command that replaces the record of its stream, offers STREAM STATE and reports the stream. -/
theorem Takes.replaces (h : Takes s p c f rest) (owner : r.owner = some p)
    (run : exec (c.instr p) s =
      .next ((((s.dequeued p rest).modStream i (fun _ => r)).streamNotice i).completeStream p f i)) :
    ∃ t, exec (c.instr p) s = .next t
      ∧ t = { s with
              streams := s.streams.set i r, ports := t.ports
              counters := { s.counters with port := t.counters.port } }
      ∧ (s.ports.get p).completed (t.ports.get p) rest (.completion f.tag f.code .ok none (.stream
          { stream := i, state := r.state, owner := some p, clockOutput := r.clockOutput, slots := r.slots.map (·.state)
            readyLength := r.ready.length, clock := r.clock }))
      ∧ (s.ports.get p.other).noticed (t.ports.get p.other)
      ∧ ((s.ports.get p.other).hears 4 1 → (t.ports.get p.other).notices.getLast? =
          some (.streamState i r.state (some p) r.clockOutput r.clock)) := by
  let u := (s.dequeued p rest).modStream i (fun _ => r)
  have record : u.streams.get i = r := PerStream.get_set ..
  have report : u.streamReport i = { stream := i, state := r.state, owner := some p, clockOutput := r.clockOutput
                                     slots := r.slots.map (·.state), readyLength := r.ready.length, clock := r.clock } := by
    rw [State.streamReport, record, owner]
  obtain ⟨linked, completed, noticed⟩ := h.reports (u := u) (i := i) fun _ => PortState.noticed_refl _
  refine ⟨_, run, linked.eq, report ▸ completed, noticed, fun hears => ?_⟩
  have last := State.streamNotice_last (u := u) (i := i) (f := f) (by simp [u, State.dequeued]) hears
  rw [record, owner] at last
  exact last

/-! ## START, PAUSE and RESUME STREAM (R94, R103) -/

/-- A field that begins where a payload's head ends. -/
theorem u32_append (head bs : List Byte) : u32 (head ++ bs) head.length = u32 bs 0 := by
  simp [u32, u16, u8, Nat.add_assoc, List.getElem?_append_right]

/-- The stamp at the end of a payload. -/
theorem u32_b32 (head : List Byte) (x : Word32) : BitVec.ofNat 32 (u32 (head ++ b32 x.toNat) head.length) = x := by
  refine BitVec.eq_of_toNat_eq ?_
  rw [u32_append]
  simp only [u32, u16, u8, b32, List.getD_cons_zero, List.getD_cons_succ, BitVec.toNat_ofNat]
  have := x.isLt
  omega

/-- The number of a stream at the head of a payload. -/
theorem u8_streamNum (i : StreamId) (bs : List Byte) : u8 (b8 (streamNum i) ++ bs) 0 = streamNum i := by cases i <;> rfl

section
variable (number : u8 f.payload 0 = streamNum i) (isOpen : (u.streams.get i).state ≠ .idleClosed)
  (owner : (u.streams.get i).owner = some p)
include number isOpen owner

theorem startStream_wrongState (other : (u.streams.get i).state ≠ .opened) :
    startStream p f u = u.complete p f .wrongState .none :=
  (State.onStream_owner number isOpen owner).trans (if_pos other)

theorem startStream_accepted {x : Word32} (opened : (u.streams.get i).state = .opened)
    (stamp : BitVec.ofNat 32 (u32 f.payload 1) = x) : startStream p f u =
      ((u.modStream i (fun _ => { u.streams.get i with state := .primed, startStamp := some x })).streamNotice i
        ).completeStream p f i := by
  refine (State.onStream_owner number isOpen owner).trans ((if_neg (not_not_intro opened)).trans ?_)
  rw [stamp]
  rfl

theorem shiftStream_wrongState {held new : StreamState} (other : (u.streams.get i).state ≠ held) :
    shiftStream p f held new u = u.complete p f .wrongState .none :=
  (State.onStream_owner number isOpen owner).trans (if_pos other)

theorem shiftStream_accepted {held new : StreamState} (here : (u.streams.get i).state = held) :
    shiftStream p f held new u =
      ((u.modStream i (fun _ => { u.streams.get i with state := new })).streamNotice i).completeStream p f i :=
  (State.onStream_owner number isOpen owner).trans (if_neg (not_not_intro here))

end

/-- Settles O50: the six commands begin with the checks of R93, and a shift replaces no more than the record. -/
theorem streamShiftsTaken : Obligations.StreamShiftsTaken := by
  constructor
  · intro s p c f rest six takes refused
    obtain ⟨body, run⟩ := exec_streamCommand (p := p) (s := s) six
    have refuses {st : Status} (check : (s.dequeued p rest).ownStream p (u8 f.payload 0) = .error st) : refused st :=
      run.trans (congrArg Host.Outcome.next (takes.answers (State.onStream_refused check)))
    refine ⟨fun bad => refuses (State.ownStream_unknown bad), fun i number => ⟨fun closed => ?_, fun isOpen other => ?_⟩⟩
    · exact refuses (number ▸ State.ownStream_closed closed)
    · exact refuses (number ▸ State.ownStream_notOwner isOpen other)
  · intro s p f rest i r shift isOpen owner
    refine ⟨fun x payload takes => ?_, fun payload => ⟨fun takes => ?_, fun takes => ?_⟩⟩
    · have number : u8 f.payload 0 = streamNum i := payload ▸ u8_streamNum i _
      have stamp : BitVec.ofNat 32 (u32 f.payload 1) = x := payload ▸ u32_b32 (b8 (streamNum i)) x
      refine ⟨fun other => ?_, fun opened => takes.replaces owner ?_⟩
      · exact congrArg Host.Outcome.next (takes.answers
          (startStream_wrongState (u := s.dequeued p rest) number isOpen owner other))
      · exact congrArg Host.Outcome.next ((takes.taking _).trans
          (startStream_accepted (u := s.dequeued p rest) number isOpen owner opened stamp))
    all_goals
      have number : u8 f.payload 0 = streamNum i := payload ▸ u8_streamNum i []
      refine ⟨fun other => ?_, fun here => takes.replaces owner ?_⟩
      · exact congrArg Host.Outcome.next (takes.answers
          (shiftStream_wrongState (u := s.dequeued p rest) number isOpen owner other))
      · exact congrArg Host.Outcome.next ((takes.taking _).trans
          (shiftStream_accepted (u := s.dequeued p rest) number isOpen owner here))

/-! ## FRAME READY (R96, R97) -/

/-- The stamp that a stamp window is measured from (R96). -/
theorem StreamRecord.reference_eq (r : StreamRecord) : r.reference =
    match r.current, r.ready with
    | some j, _ => (r.slots[j]?).bind (·.stamp)
    | none, j :: _ => (r.slots[j]?).bind (·.stamp)
    | none, [] => r.lastStamp := by
  unfold StreamRecord.reference
  cases r.current <;> cases r.ready <;> rfl

theorem StreamRecord.inWindow_iff {x x₀ last : Word32} (reference : r.reference = some x₀)
    (lastStamp : r.lastStamp = some last) :
    r.inWindow x = true ↔ (last - x₀).toNat < (x - x₀).toNat ∧ (x - x₀).toNat < 2147483648 := by
  simp only [StreamRecord.inWindow, reference, lastStamp, Option.getD_some]
  exact Bool.and_eq_true_iff.trans (and_congr decide_eq_true_iff decide_eq_true_iff)

theorem StreamRecord.inWindow_of_none (x : Word32) (reference : r.reference = none) : r.inWindow x = true := by
  simp only [StreamRecord.inWindow, reference]

/-- The checks of R96 in their order. -/
theorem StreamRecord.frameRefusal_of_slot {k : Nat} {x : Word32} {slot : Slot} (isOpen : r.state ≠ .closing)
    (at' : r.slots[k]? = some slot) : r.frameRefusal k x =
      if slot.state ≠ .empty then some .slotBusy else if !r.inWindow x then some .stampOrder else none := by
  simp only [StreamRecord.frameRefusal, isOpen, if_false, at']

section
variable {k : Nat} {x : Word32} (number : u8 f.payload 0 = streamNum i) (index : u8 f.payload 1 = k)
  (stamp : BitVec.ofNat 32 (u32 f.payload 2) = x) (isOpen : (u.streams.get i).state ≠ .idleClosed)
  (owner : (u.streams.get i).owner = some p)
include number index stamp isOpen owner

theorem frameReady_refused {st : Status} (refused : (u.streams.get i).frameRefusal k x = some st) :
    frameReady p f u = u.complete p f st .none := by
  refine (State.onStream_owner number isOpen owner).trans ?_
  simp only [index, stamp, refused]

theorem frameReady_accepted {slot : Slot} (accepted : (u.streams.get i).frameRefusal k x = none)
    (at' : (u.streams.get i).slots[k]? = some slot) : frameReady p f u =
      (u.modStream i (fun r =>
        { r with
          slots := r.slots.set k { slot with state := .ready, stamp := some x }, ready := r.ready ++ [k]
          lastStamp := some x })).completeStream p f i := by
  refine (State.onStream_owner number isOpen owner).trans ?_
  simp only [index, stamp, accepted, State.modStream, StreamRecord.modSlot, at']

end

/-- Settles O51: the checks of R96 in their order, and the record of the accepted frame. -/
theorem frameReadyTaken : Obligations.FrameReadyTaken := by
  intro s p f rest i k x takes payload r refused stampOf reference inWindow isOpen owner
  have number : u8 f.payload 0 = streamNum i := by rw [payload, List.append_assoc]; exact u8_streamNum i _
  have index : u8 f.payload 1 = k.toNat := by rw [payload]; rfl
  have stamp : BitVec.ofNat 32 (u32 f.payload 2) = x := payload ▸ u32_b32 (b8 (streamNum i) ++ [k]) x
  have refuses {st : Status} (check : r.frameRefusal k.toNat x = some st) : refused st :=
    congrArg Host.Outcome.next (takes.answers
      (frameReady_refused (u := s.dequeued p rest) number index stamp isOpen owner check))
  have base : r.reference = reference := r.reference_eq
  refine ⟨fun closing => refuses (if_pos closing), fun still beyond => refuses ?_, fun slot still at' =>
    ⟨fun busy => refuses ?_, fun empty => ⟨fun x₀ last origin lastStamp outside => refuses ?_, fun inside => ?_⟩⟩⟩
  · simp only [StreamRecord.frameRefusal, still, if_false, List.getElem?_eq_none beyond]
  · rw [StreamRecord.frameRefusal_of_slot still at', if_pos busy]
  · have late : r.inWindow x = false :=
      Bool.eq_false_iff.mpr (mt (StreamRecord.inWindow_iff (base.trans origin) lastStamp).mp outside)
    rw [StreamRecord.frameRefusal_of_slot still at', if_neg (not_not_intro empty), late]
    rfl
  · have timely : r.inWindow x = true := by
      rcases inside with absent | ⟨x₀, last, origin, lastStamp, within⟩
      · exact StreamRecord.inWindow_of_none x (base.trans absent)
      · exact (StreamRecord.inWindow_iff (base.trans origin) lastStamp).mpr within
    have accepted : r.frameRefusal k.toNat x = none := by
      rw [StreamRecord.frameRefusal_of_slot still at', if_neg (not_not_intro empty), timely]
      rfl
    have taken := takes.completes (frameReady_accepted (u := s.dequeued p rest) number index stamp isOpen owner accepted at')
      rfl
    refine congrArg Host.Outcome.next (taken.trans ?_)
    simp only [State.streamReport, State.modStream_streams, State.dequeued_streams, PerStream.get_set, List.length_append,
      List.length_singleton]
    rw [show (s.streams.get i).owner = some p from owner]
    rfl

end Sys2Proof.Machine
end

section
/-! SUPPORT. OPEN STREAM by its owning block (R91, R92): the handles of its payload, the first of them that fails, the size and
format they agree in, and the slot surfaces attached to the stream. -/

namespace Sys2Proof.Machine

variable {s u : State} {p : Port} {f : Frame} {rest : List Frame} {i : StreamId} {o : OutputId} {h : Handle} {x y : Surface}
  {k : Nat} {hs earlier : List Handle} {st : Status} {b : List Byte}

/-! ## The handles of a payload (Table 10-10) -/

/-- The handle of slot `k`, at its place in the payload. -/
def slotHandle (b : List Byte) (k : Nat) : Handle := ⟨u8 b (3 + 2 * k), b.getD (4 + 2 * k) 0⟩

theorem openHandles_eq (b : List Byte) : openHandles b = (List.range (u8 b 2)).map (slotHandle b) := by
  refine List.map_congr_left fun k _ => ?_
  rw [handleAt, slotHandle, show 3 + 2 * k + 1 = 4 + 2 * k by omega]

theorem openHandles_getElem? (lt : k < u8 b 2) : (openHandles b)[k]? = some (slotHandle b k) := by
  simp [openHandles_eq, lt]

theorem length_openHandles (b : List Byte) : (openHandles b).length = u8 b 2 := by simp [openHandles_eq]

theorem mem_openHandles : h ∈ openHandles b ↔ ∃ j < u8 b 2, slotHandle b j = h := by simp [openHandles_eq]

theorem mem_take_openHandles (le : k ≤ u8 b 2) : h ∈ (openHandles b).take k ↔ ∃ j < k, slotHandle b j = h := by
  simp [openHandles_eq, ← List.map_take, List.take_range, le]

/-! ## The checks of a handle (R91) -/

theorem State.slotRefusal_unresolved (hr : s.resolve h = none) : s.slotRefusal p earlier h = some .badHandle := by
  simp only [State.slotRefusal, hr]

theorem State.slotRefusal_resolved (hr : s.resolve h = some x) : s.slotRefusal p earlier h =
    if x.kind ≠ .port ∨ x.owner ≠ accountOf p then some .notOwner
    else if x.state = .retiring then some .wrongState
    else if x.attached ≠ none ∨ ∃ e ∈ earlier, e.index = h.index then some .attached
    else none := by
  have taken : (x.attached.isSome || earlier.any (fun e => e.index == h.index)) = true ↔
      x.attached ≠ none ∨ ∃ e ∈ earlier, e.index = h.index := by
    simp [Option.isSome_iff_ne_none]
  simp only [State.slotRefusal, hr, taken]

/-- A slot surface that passes: a PORT surface of the port, not RETIRING, in no slot and not among the earlier handles. -/
theorem State.slotRefusal_eq_none (hr : s.resolve h = some x) (kind : x.kind = .port) (owner : x.owner = accountOf p)
    (state : x.state ≠ .retiring) (free : x.attached = none) (fresh : ∀ e ∈ earlier, e.index ≠ h.index) :
    s.slotRefusal p earlier h = none := by
  rw [State.slotRefusal_resolved hr, if_neg (by simp [kind, owner]), if_neg state, if_neg (by simp [free]; exact fresh)]

/-- The first handle that fails, with its position (R91; log 39). -/
theorem State.slotsRefusal_eq_some (lt : k < hs.length)
    (before : ∀ j < k, ∀ g, hs[j]? = some g → s.slotRefusal p (earlier ++ hs.take j) g = none)
    (fails : ∀ g, hs[k]? = some g → s.slotRefusal p (earlier ++ hs.take k) g = some st) :
    s.slotsRefusal p earlier hs = some (st, earlier.length + k) := by
  induction hs generalizing earlier k with
  | nil => cases lt
  | cons g gs ih =>
    cases k with
    | zero =>
      have first : s.slotRefusal p earlier g = some st := by simpa using fails g rfl
      simp only [State.slotsRefusal, first]
      rfl
    | succ k =>
      have first : s.slotRefusal p earlier g = none := by simpa using before 0 (Nat.succ_pos k) g rfl
      have later := ih (earlier := earlier ++ [g]) (Nat.lt_of_succ_lt_succ lt)
        (fun j hj g' at' => by simpa using before (j + 1) (Nat.succ_lt_succ hj) g' at')
        (fun g' at' => by simpa using fails g' at')
      simp only [State.slotsRefusal, first, later, List.length_append, List.length_singleton, Nat.add_assoc, Nat.add_comm 1]

/-- Where no handle fails there is none to report. -/
theorem State.slotsRefusal_eq_none
    (pass : ∀ j g, hs[j]? = some g → s.slotRefusal p (earlier ++ hs.take j) g = none) :
    s.slotsRefusal p earlier hs = none := by
  induction hs generalizing earlier with
  | nil => rfl
  | cons g gs ih =>
    have first : s.slotRefusal p earlier g = none := by simpa using pass 0 g rfl
    simp only [State.slotsRefusal, first]
    exact ih fun j g' at' => by simpa using pass (j + 1) g' at'

/-! ## The handles of a payload, one by one (R91; log 39) -/

/-- Whether the handle of slot `k` passes the checks of a handle (R91). -/
def State.PassesSlot (s : State) (p : Port) (b : List Byte) (k : Nat) : Prop :=
  ∃ x, s.resolve (slotHandle b k) = some x ∧ x.kind = .port ∧ x.owner = accountOf p ∧ x.state ≠ .retiring
    ∧ x.attached = none ∧ ∀ j < k, (slotHandle b j).index ≠ (slotHandle b k).index

theorem State.PassesSlot.slotRefusal (ok : s.PassesSlot p b k) (lt : k < u8 b 2) :
    s.slotRefusal p ((openHandles b).take k) (slotHandle b k) = none := by
  obtain ⟨x, hr, kind, owner, state, free, fresh⟩ := ok
  refine State.slotRefusal_eq_none hr kind owner state free fun e mem => ?_
  obtain ⟨j, hj, rfl⟩ := (mem_take_openHandles (Nat.le_of_lt lt)).mp mem
  exact fresh j hj

theorem State.openHandles_refused (lt : k < u8 b 2) (before : ∀ j < k, s.PassesSlot p b j)
    (fails : s.slotRefusal p ((openHandles b).take k) (slotHandle b k) = some st) :
    s.slotsRefusal p [] (openHandles b) = some (st, k) := by
  have named {j : Nat} {g : Handle} (hj : j < u8 b 2) (at' : (openHandles b)[j]? = some g) : slotHandle b j = g :=
    Option.some.inj ((openHandles_getElem? hj).symm.trans at')
  have first := State.slotsRefusal_eq_some (s := s) (p := p) (earlier := []) (hs := openHandles b) (k := k) (st := st)
    (by rw [length_openHandles]; exact lt)
    (fun j hj g at' => by
      obtain rfl := named (hj.trans lt) at'
      exact (before j hj).slotRefusal (hj.trans lt))
    (fun g at' => by
      obtain rfl := named lt at'
      exact fails)
  rwa [List.length_nil, Nat.zero_add] at first

theorem State.openHandles_pass (all : ∀ j < u8 b 2, s.PassesSlot p b j) : s.slotsRefusal p [] (openHandles b) = none :=
  State.slotsRefusal_eq_none fun j g at' => by
    have lt : j < u8 b 2 := (List.getElem?_eq_some_iff.mp at').1.trans_eq (length_openHandles b)
    obtain rfl := Option.some.inj ((openHandles_getElem? lt).symm.trans at')
    exact (all j lt).slotRefusal lt

theorem State.openHandles_distinct (all : ∀ j < u8 b 2, s.PassesSlot p b j) :
    (openHandles b).Pairwise (fun g h => g.index ≠ h.index) := by
  rw [openHandles_eq, List.pairwise_map]
  refine List.pairwise_lt_range.imp_of_mem fun {j k} _ mem lt => ?_
  obtain ⟨_, -, -, -, -, -, fresh⟩ := all k (List.mem_range.mp mem)
  exact fresh j lt

/-- Whether two surfaces agree in width, height and format (R91). -/
def Surface.sameImage (x y : Surface) : Prop := y.width = x.width ∧ y.height = x.height ∧ y.format = x.format

theorem State.slotsAgree_iff (first : hs[0]? = some h) (hr : s.resolve h = some x) : s.slotsAgree hs = true ↔
    x.format ≠ .a8 ∧ ∀ g ∈ hs, ∃ y, s.resolve g = some y ∧ x.sameImage y := by
  obtain ⟨gs, rfl⟩ : ∃ gs, hs = h :: gs := by
    cases hs with
    | nil => cases first
    | cons g gs => exact ⟨gs, by rw [show g = h from Option.some.inj first]⟩
  simp only [State.slotsAgree, hr, Bool.and_eq_true, bne_iff_ne, List.all_eq_true]
  refine and_congr_right fun _ => forall₂_congr fun g _ => ?_
  cases s.resolve g <;> simp [Surface.sameImage, and_assoc]

/-! ## Slot surfaces attached to a stream (R21, R92) -/

/-- Attaching changes no more than entries of the surface table. -/
theorem attachSlots_frame (i : StreamId) (k : Nat) (hs : List Handle) (s : State) :
    ∃ es, attachSlots i k hs s = { s with surfaces := { s.surfaces with entries := es } } := by
  induction hs generalizing k s with
  | nil => exact ⟨_, rfl⟩
  | cons h hs ih =>
    obtain ⟨es, one⟩ : ∃ es, s.modSurface h.index (fun x => { x with attached := some (i, k) })
        = { s with surfaces := { s.surfaces with entries := es } } := by
      unfold State.modSurface SurfaceManager.modSurface
      split <;> exact ⟨_, rfl⟩
    obtain ⟨es', rest⟩ := ih (k + 1) (s.modSurface h.index (fun x => { x with attached := some (i, k) }))
    exact ⟨es', by rw [attachSlots, rest, one]⟩

theorem attachSlots_entry_ne {j : Nat} (other : ∀ h ∈ hs, h.index ≠ j) :
    (attachSlots i k hs s).surfaces.entries[j]? = s.surfaces.entries[j]? := by
  induction hs generalizing k s with
  | nil => rfl
  | cons h hs ih =>
    obtain ⟨ne, other⟩ := List.forall_mem_cons.mp other
    exact (ih other).trans (State.modSurface_entry_ne (Ne.symm ne) _)

/-- A slot surface is attached with its place in the list, where each surface is named once. -/
theorem attachSlots_resolve (distinct : hs.Pairwise (fun g h => g.index ≠ h.index)) {j : Nat} (at' : hs[j]? = some h)
    (hr : s.resolve h = some x) : (attachSlots i k hs s).resolve h = some { x with attached := some (i, k + j) } := by
  induction hs generalizing k s j with
  | nil => cases at'
  | cons g gs ih =>
    obtain ⟨apart, distinct⟩ := List.pairwise_cons.mp distinct
    rw [State.resolve_eq_some] at hr ⊢
    cases j with
    | zero =>
      obtain rfl : g = h := Option.some.inj at'
      rw [attachSlots, attachSlots_entry_ne fun e mem => (apart e mem).symm]
      exact State.modSurface_entry hr _
    | succ j =>
      have at' : gs[j]? = some h := at'
      have ne : h.index ≠ g.index := (apart h (List.mem_of_getElem? at')).symm
      have later := ih (k := k + 1) (s := s.modSurface g.index (fun x => { x with attached := some (i, k) })) distinct at'
        (State.resolve_eq_some.mpr ((State.modSurface_entry_ne ne _).trans hr))
      rw [State.resolve_eq_some, Nat.add_assoc, Nat.add_comm 1] at later
      exact later

/-! ## OPEN STREAM (R91, R92) -/

theorem openStream_badCommand
    (bad : u8 f.payload 2 < 2 ∨ 6 < u8 f.payload 2 ∨ f.payload.length ≠ 3 + 2 * u8 f.payload 2) :
    openStream p f u = u.complete p f .badCommand .none := if_pos bad

/-- The record of a stream that a port opens on an output with some slot surfaces (R92). -/
def StreamRecord.openedBy (p : Port) (o : OutputId) (hs : List Handle) : StreamRecord :=
  { state := .opened, owner := some p, clockOutput := some o
    slots := hs.map (fun h => { surface := h, state := .empty, stamp := none }), current := none, ready := [], clock := 0
    startStamp := none, lastStamp := none, closeTag := none }

section
variable (size : ¬ (u8 f.payload 2 < 2 ∨ 6 < u8 f.payload 2 ∨ f.payload.length ≠ 3 + 2 * u8 f.payload 2))
include size

theorem openStream_badHandle (bad : 2 ≤ u8 f.payload 0) : openStream p f u = u.complete p f .badHandle .none := by
  simp only [openStream, size, if_false, streamOfCode_eq_none bad]

variable (number : u8 f.payload 0 = streamNum i)
include number

theorem openStream_busy (busy : (u.streams.get i).state ≠ .idleClosed) :
    openStream p f u = u.complete p f .busy .none := by
  simp only [openStream, size, if_false, number, streamOfCode_streamNum]
  exact if_pos busy

variable (closed : (u.streams.get i).state = .idleClosed)
include closed

theorem openStream_noOutput (off : u.enabledOutput (u8 f.payload 1) = none) :
    openStream p f u = u.complete p f .noOutput .none := by
  simp only [openStream, size, number, streamOfCode_streamNum, closed, ne_eq, not_true_eq_false, if_false, off]

variable (output : u.enabledOutput (u8 f.payload 1) = some o)
include output

theorem openStream_slotRefused (refused : u.slotsRefusal p [] (openHandles f.payload) = some (st, k)) :
    openStream p f u = u.complete p f st (.position k) := by
  simp only [openStream, size, number, streamOfCode_streamNum, closed, ne_eq, not_true_eq_false, if_false, output, refused]

variable (pass : u.slotsRefusal p [] (openHandles f.payload) = none)
include pass

theorem openStream_badGeometry (differ : u.slotsAgree (openHandles f.payload) = false) :
    openStream p f u = u.complete p f .badGeometry .none := by
  simp only [openStream, size, number, streamOfCode_streamNum, closed, ne_eq, not_true_eq_false, if_false, output, pass,
    differ, Bool.not_false, if_true]

theorem openStream_accepted (agree : u.slotsAgree (openHandles f.payload) = true) : openStream p f u =
    (((attachSlots i 0 (openHandles f.payload) u).modStream i (fun _ =>
      StreamRecord.openedBy p o (openHandles f.payload))).streamNotice i).completeStream p f i := by
  simp only [openStream, size, number, streamOfCode_streamNum, closed, ne_eq, not_true_eq_false, if_false, output, pass,
    agree, Bool.not_true, Bool.false_eq_true, State.completeStream, StreamRecord.openedBy]

end

/-- An accepted OPEN STREAM sets the record, attaches the slot surfaces, offers STREAM STATE and reports the stream (R92). -/
theorem Takes.opens (takes : Takes s p .openStream f rest) (distinct : hs.Pairwise (fun g h => g.index ≠ h.index))
    (run : openStream p f (s.dequeued p rest) = (((attachSlots i 0 hs (s.dequeued p rest)).modStream i (fun _ =>
      StreamRecord.openedBy p o hs)).streamNotice i).completeStream p f i) :
    ∃ t, exec (.openStream p) s = .next t
      ∧ t = { s with
              surfaces := { s.surfaces with entries := t.surfaces.entries }
              streams := s.streams.set i (StreamRecord.openedBy p o hs), ports := t.ports
              counters := { s.counters with port := t.counters.port } }
      ∧ (∀ (k : Nat) (h : Handle) (y : Surface), hs[k]? = some h → s.resolve h = some y →
          t.resolve h = some { y with attached := some (i, k) })
      ∧ (∀ j, (∀ h ∈ hs, h.index ≠ j) → t.surfaces.entries[j]? = s.surfaces.entries[j]?)
      ∧ (s.ports.get p).completed (t.ports.get p) rest (.completion f.tag f.code .ok none (.stream
          { stream := i, state := .opened, owner := some p, clockOutput := some o
            slots := List.replicate hs.length .empty, readyLength := 0, clock := 0 }))
      ∧ (s.ports.get p.other).noticed (t.ports.get p.other)
      ∧ ((s.ports.get p.other).hears 4 1 → (t.ports.get p.other).notices.getLast? =
          some (.streamState i .opened (some p) (some o) 0)) := by
  obtain ⟨es, attached⟩ := attachSlots_frame i 0 hs (s.dequeued p rest)
  have resolves (k : Nat) (h : Handle) (y : Surface) (at' : hs[k]? = some h) (hr : s.resolve h = some y) :=
    attachSlots_resolve (i := i) (k := 0) (s := s.dequeued p rest) distinct at' hr
  have kept (j : Nat) (other : ∀ h ∈ hs, h.index ≠ j) :=
    attachSlots_entry_ne (i := i) (k := 0) (s := s.dequeued p rest) other
  simp only [attached, Nat.zero_add] at run resolves kept
  set u : State := State.modStream _ i _ with hu
  have record : u.streams.get i = StreamRecord.openedBy p o hs := by simp [hu]
  have report : u.streamReport i =
      { stream := i, state := .opened, owner := some p, clockOutput := some o
        slots := List.replicate hs.length .empty, readyLength := 0, clock := 0 } := by
    rw [State.streamReport, record]
    simp [StreamRecord.openedBy, Function.comp_def]
  obtain ⟨linked, completed, noticed⟩ := takes.reports (u := u) (i := i) fun _ => PortState.noticed_refl _
  have surfaces := linked.streamed.surfaces
  refine ⟨_, congrArg Host.Outcome.next ((takes.taking _).trans run), ?_, fun k h y at' hr => ?_, fun j other => ?_,
    report ▸ completed, noticed, fun hears => ?_⟩
  · refine linked.eq.trans ?_
    rw [surfaces]
    rfl
  · rw [State.resolve, surfaces]
    exact resolves k h y at' hr
  · rw [surfaces]
    exact kept j other
  · have last := State.streamNotice_last (u := u) (i := i) (f := f) (by simp [hu, State.dequeued]) hears
    rw [record] at last
    exact last

/-- Settles O49: the checks of R91 come in their order, the handles one by one, and then the record is set and the surfaces are
attached. -/
theorem openStreamTaken : Obligations.OpenStreamTaken := by
  intro s p f rest takes b n refused h good same
  let v := s.dequeued p rest
  have refuses {st : Status} {res : Result} (check : openStream p f v = v.complete p f st res) : refused st res :=
    congrArg Host.Outcome.next (takes.answers check)
  refine ⟨fun bad => refuses (openStream_badCommand bad), fun low high len => ?_⟩
  have size : ¬ (n < 2 ∨ 6 < n ∨ b.length ≠ 3 + 2 * n) := by omega
  refine ⟨fun bad => refuses (openStream_badHandle size bad), fun i number =>
    ⟨fun busy => refuses (openStream_busy size number busy), fun closed =>
      ⟨fun off => refuses (openStream_noOutput size number closed (State.enabledOutput_eq_none off)),
        fun o output on => ?_⟩⟩⟩
  have output : v.enabledOutput (u8 b 1) = some o := output ▸ State.enabledOutput_outputNum on
  refine ⟨fun k lt before => ?_, fun allGood x hr => ?_⟩
  · have fails {st : Status} (check : v.slotRefusal p ((openHandles b).take k) (h k) = some st) :
        refused st (.position k) :=
      refuses (openStream_slotRefused size number closed output (State.openHandles_refused lt before check))
    refine ⟨fun unresolved => fails (State.slotRefusal_unresolved unresolved), fun x hr =>
      ⟨fun other => fails ?_, fun kind owner retiring => fails ?_, fun kind owner state taken => fails ?_⟩⟩
    all_goals rw [State.slotRefusal_resolved (s := v) hr]
    · rw [if_pos other]
    · rw [if_neg (by simp [kind, owner]), if_pos retiring]
    · rw [if_neg (by simp [kind, owner]), if_neg state, if_pos]
      refine taken.imp_right fun ⟨j, hj, index⟩ => ?_
      exact ⟨h j, (mem_take_openHandles (Nat.le_of_lt lt)).mpr ⟨j, hj, rfl⟩, index⟩
  have passes : ∀ j < n, v.PassesSlot p b j := allGood
  have pass := State.openHandles_pass passes
  have agrees := State.slotsAgree_iff (s := v) (openHandles_getElem? (k := 0) (b := b) (by omega)) hr
  refine ⟨fun differ => refuses (openStream_badGeometry size number closed output pass ?_), fun format alike => ?_⟩
  · refine Bool.eq_false_iff.mpr fun agree => ?_
    obtain ⟨format, alike⟩ := agrees.mp agree
    rcases differ with a8 | ⟨k, lt, y, hy, unlike⟩
    · exact format a8
    · obtain ⟨y', hy', like⟩ := alike (h k) (mem_openHandles.mpr ⟨k, lt, rfl⟩)
      obtain rfl := Option.some.inj (hy.symm.trans hy')
      exact unlike like
  · have agree : v.slotsAgree (openHandles b) = true := agrees.mpr ⟨format, fun g mem => by
      obtain ⟨k, lt, rfl⟩ := mem_openHandles.mp mem
      obtain ⟨y, hy, -⟩ := allGood k lt
      exact ⟨y, hy, alike k lt y hy⟩⟩
    obtain ⟨t, run, frame, attached, kept, completed, noticed, last⟩ := takes.opens (State.openHandles_distinct passes)
      (openStream_accepted (u := v) size number closed output pass agree)
    refine ⟨t, run, frame.trans ?_, fun k lt y hy => attached k _ y (openHandles_getElem? lt) hy,
      fun j other => kept j fun g mem => ?_, ?_, noticed, last⟩
    · rw [StreamRecord.openedBy, openHandles_eq, List.map_map]
      rfl
    · obtain ⟨k, lt, rfl⟩ := mem_openHandles.mp mem
      exact other k lt
    · rw [length_openHandles] at completed
      exact completed

end Sys2Proof.Machine
end

section
/-! SUPPORT. Slots that leave (R89, R101, R102, R104): what a loop of releases leaves of a stream's record, and the SLOT FREED
notices it gives the owner. -/

namespace Sys2Proof.Machine

variable {s t u : State} {p : Port} {i : StreamId} {r : StreamRecord} {x : Slot} {k j : Nat} {ks : List Nat}
  {g : Slot → Slot}

/-! ## Some slots of a record -/

/-- Updates the slots of a list. -/
def StreamRecord.modSlots (r : StreamRecord) (ks : List Nat) (g : Slot → Slot) : StreamRecord :=
  { r with slots := r.slots.mapIdx (fun j x => if j ∈ ks then g x else x) }

theorem StreamRecord.modSlots_getElem? (at' : r.slots[j]? = some x) :
    (r.modSlots ks g).slots[j]? = some (if j ∈ ks then g x else x) := by
  simp [StreamRecord.modSlots, at']

@[simp] theorem StreamRecord.length_modSlots (r : StreamRecord) (ks : List Nat) (g : Slot → Slot) :
    (r.modSlots ks g).slots.length = r.slots.length := by simp [StreamRecord.modSlots]

theorem StreamRecord.modSlots_nil (r : StreamRecord) (g : Slot → Slot) : r.modSlots [] g = r := by
  have same : r.slots.mapIdx (fun _ x => x) = r.slots := List.ext_getElem? fun j => by simp
  simp [StreamRecord.modSlots, same]

/-- One slot and then a list of them are one list, for a change that is done once. -/
theorem StreamRecord.modSlots_modSlot (idem : ∀ x, g (g x) = g x) (r : StreamRecord) (k : Nat) (ks : List Nat) :
    (r.modSlot k g).modSlots ks g = r.modSlots (k :: ks) g := by
  have slots : (r.modSlot k g).slots = r.slots.mapIdx (fun j x => if j = k then g x else x) := by
    refine List.ext_getElem? fun j => ?_
    unfold StreamRecord.modSlot
    split
    · next x at' =>
      obtain ⟨lt, rfl⟩ := List.getElem?_eq_some_iff.mp at'
      by_cases e : k = j
      · subst e; simp [lt]
      · simp [e, Ne.symm e]
    · next out =>
      rw [List.getElem?_mapIdx]
      cases at' : r.slots[j]? with
      | none => rfl
      | some x =>
        have ne : j ≠ k := by rintro rfl; rw [at'] at out; cases out
        simp [ne]
  have rest : (r.modSlot k g).modSlots ks g = { r with slots := ((r.modSlot k g).modSlots ks g).slots } := by
    unfold StreamRecord.modSlots StreamRecord.modSlot
    split <;> rfl
  have both : ((r.modSlot k g).modSlots ks g).slots = (r.modSlots (k :: ks) g).slots := by
    simp only [StreamRecord.modSlots, slots, List.mapIdx_mapIdx]
    congr 1
    funext j x
    by_cases e : j = k <;> by_cases mem : j ∈ ks <;> simp [e, mem, idem]
  rw [rest, both]
  rfl

theorem StreamRecord.modSlots_surfaces (keeps : ∀ x, (g x).surface = x.surface) (r : StreamRecord) (ks : List Nat) :
    (r.modSlots ks g).slots.map (·.surface) = r.slots.map (·.surface) := by
  refine List.ext_getElem? fun j => ?_
  cases at' : r.slots[j]? with
  | none => simp [StreamRecord.modSlots, at']
  | some x => by_cases mem : j ∈ ks <;> simp [StreamRecord.modSlots, at', mem, keeps]

/-! ## Slots that a stream releases (R89) -/

/-- A slot that is EMPTY (R89). -/
def Slot.emptied (x : Slot) : Slot := { x with state := .empty, stamp := none }

/-- A slot that left: RELEASING while its surface is in a hold set, EMPTY otherwise (R89). -/
def State.leaving (s : State) (x : Slot) : Slot :=
  if s.inHoldSets x.surface.index then { x with state := .releasing, stamp := none } else x.emptied

theorem State.leaving_held (h : s.drawn x.surface.index) : s.leaving x = { x with state := .releasing, stamp := none } :=
  if_pos (State.drawn_iff.mpr h)

theorem State.leaving_unheld (h : ¬ s.drawn x.surface.index) : s.leaving x = x.emptied :=
  if_neg (mt State.drawn_iff.mp h)

theorem State.leaving_surface (s : State) (x : Slot) : (s.leaving x).surface = x.surface := by
  unfold State.leaving
  split <;> rfl

theorem State.leaving_leaving (s : State) (x : Slot) : s.leaving (s.leaving x) = s.leaving x := by
  by_cases h : s.inHoldSets x.surface.index = true <;> simp [State.leaving, Slot.emptied, h]

theorem State.leaving_congr (outputs : t.outputs = s.outputs) : t.leaving = s.leaving := by
  funext x
  have same : t.inHoldSets x.surface.index = s.inHoldSets x.surface.index := by simp only [State.inHoldSets, outputs]
  rw [State.leaving, State.leaving, same]

theorem State.LinkedTo.modStream (h : s.LinkedTo t) (i : StreamId) (f : StreamRecord → StreamRecord) :
    (s.modStream i f).LinkedTo (t.modStream i f) := by
  obtain ⟨_, _, rfl⟩ := h
  exact ⟨_, _, rfl⟩

theorem State.emptySlot_linked (i : StreamId) (k : Nat) (s : State) :
    (s.modStream i (fun r => r.modSlot k Slot.emptied)).LinkedTo (s.emptySlot i k) := State.slotFreed_linked i k _

theorem State.releaseSlot_linked (i : StreamId) (k : Nat) (s : State) :
    (s.modStream i (fun r => r.modSlot k s.leaving)).LinkedTo (s.releaseSlot i k) := by
  unfold State.releaseSlot
  split
  · next x at' =>
    have one (g : Slot → Slot) (e : s.leaving x = g x) :
        s.modStream i (fun r => r.modSlot k s.leaving) = s.modStream i (fun r => r.modSlot k g) := by
      simp only [State.modStream, StreamRecord.modSlot, at', e]
    split
    · next held =>
      rw [one (fun x => { x with state := .releasing, stamp := none }) (if_pos held)]
      exact State.linkedTo_refl _
    · next unheld =>
      rw [one Slot.emptied (if_neg unheld)]
      exact s.emptySlot_linked i k
  · next out =>
    have still : s.modStream i (fun r => r.modSlot k s.leaving) = s := by
      simp [State.modStream, StreamRecord.modSlot, out]
    rw [still]
    exact s.linkedTo_refl

/-- A loop of changes of single slots changes the slots of its list. -/
theorem State.foldl_modSlots {F : State → Nat → State} (idem : ∀ x, g (g x) = g x)
    (step : ∀ (t : State) (k : Nat), t.outputs = s.outputs → (t.modStream i (fun r => r.modSlot k g)).LinkedTo (F t k))
    (ks : List Nat) :
    (s.modStream i (fun r => r.modSlots ks g)).LinkedTo (ks.foldl F s) := by
  suffices loop : ∀ t : State, t.outputs = s.outputs →
      (t.modStream i (fun r => r.modSlots ks g)).LinkedTo (ks.foldl F t) from loop s rfl
  induction ks with
  | nil =>
    intro t _
    simp only [StreamRecord.modSlots_nil, State.modStream, PerStream.set_get]
    exact t.linkedTo_refl
  | cons k ks ih =>
    intro t outputs
    have first := step t k outputs
    have later := (first.modStream i (fun r => r.modSlots ks g)).trans
      (ih (F t k) (first.streamed.outputs.trans outputs))
    simp only [State.modStream_modStream, StreamRecord.modSlots_modSlot idem] at later
    exact later

/-- What a loop of releases leaves (R89). -/
theorem State.releaseLoop_linked (i : StreamId) (ks : List Nat) (s : State) :
    (s.modStream i (fun r => r.modSlots ks s.leaving)).LinkedTo (ks.foldl (fun t k => t.releaseSlot i k) s) :=
  State.foldl_modSlots s.leaving_leaving (fun t k outputs => State.leaving_congr outputs ▸ t.releaseSlot_linked i k) ks

theorem State.emptyLoop_linked (i : StreamId) (ks : List Nat) (s : State) :
    (s.modStream i (fun r => r.modSlots ks Slot.emptied)).LinkedTo (ks.foldl (fun t k => t.emptySlot i k) s) :=
  State.foldl_modSlots (g := Slot.emptied) (fun _ => rfl) (fun t k _ => t.emptySlot_linked i k) ks

/-! ## SLOT FREED (R102, R179) -/

theorem State.slotFreed_owner (owner : (s.streams.get i).owner = some p) (k : Nat) :
    s.slotFreed i k = s.notify p (.slotFreed i k) := by
  simp only [State.slotFreed, owner]

theorem State.emptySlot_owner (owner : (s.streams.get i).owner = some p) (k : Nat) : s.emptySlot i k =
    (s.modStream i (fun r => r.modSlot k Slot.emptied)).notify p (.slotFreed i k) := by
  refine State.slotFreed_owner ?_ k
  rw [State.modStream_streams, PerStream.get_set, ← owner]
  unfold StreamRecord.modSlot
  split <;> rfl

/-- A port with room queues a notice it is offered. -/
theorem State.mem_notify (attached : (s.ports.get p).status = .attached)
    (room : (s.ports.get p).notices.length + (s.ports.get p).owed < 32) (n : Notice) :
    n ∈ ((s.notify p n).ports.get p).notices := by
  rcases s.notify_cases p n with ⟨away, -⟩ | ⟨-, -, e⟩ | ⟨-, full, -⟩
  · exact absurd attached away
  · rw [e]; simp
  · omega

/-- A notice takes at most one place of a queue. -/
theorem State.notify_length (p q : Port) (n : Notice) (s : State) :
    ((s.notify p n).ports.get q).notices.length ≤ (s.ports.get q).notices.length + 1 := by
  by_cases e : q = p
  · subst e
    rcases s.notify_cases q n with ⟨-, e⟩ | ⟨-, -, e⟩ | ⟨-, -, e⟩ <;> rw [e] <;> simp
  · rcases s.notify_cases p n with ⟨-, e'⟩ | ⟨-, -, e'⟩ | ⟨-, -, e'⟩ <;> rw [e'] <;> simp [PerPort.get_set_ne _ _ _ _ e]

theorem State.releaseSlot_length (i : StreamId) (k : Nat) (q : Port) (s : State) :
    ((s.releaseSlot i k).ports.get q).notices.length ≤ (s.ports.get q).notices.length + 1 := by
  unfold State.releaseSlot State.emptySlot State.slotFreed
  split
  · split
    · exact Nat.le_succ _
    · split
      · exact State.notify_length _ _ _ _
      · exact Nat.le_succ _
  · exact Nat.le_succ _

theorem State.releaseLoop_length (i : StreamId) (ks : List Nat) (q : Port) (s : State) :
    ((ks.foldl (fun t k => t.releaseSlot i k) s).ports.get q).notices.length
      ≤ (s.ports.get q).notices.length + ks.length := by
  induction ks generalizing s with
  | nil => exact Nat.le_refl _
  | cons k ks ih =>
    have first := s.releaseSlot_length i k q
    have later := ih (s.releaseSlot i k)
    rw [List.length_cons]
    exact later.trans (by omega)

theorem State.releaseLoop_leavesLatches (i : StreamId) (ks : List Nat) (s : State) :
    s.LeavesLatches (ks.foldl (fun t k => t.releaseSlot i k) s) :=
  s.leavesLatches_refl.foldl (fun _ k h => h.releaseSlot i k) ks

theorem StreamRecord.modSlots_owner (r : StreamRecord) (ks : List Nat) (g : Slot → Slot) :
    (r.modSlots ks g).owner = r.owner := rfl

/-- The moment of a loop of releases at which a slot that no hold set names is released: its owner is offered SLOT FREED, and
what comes before and after it in the loop gives the ports no more than notices. -/
theorem State.releaseLoop_frees (mem : k ∈ ks) (at' : (s.streams.get i).slots[k]? = some x)
    (unheld : ¬ s.drawn x.surface.index) (owner : (s.streams.get i).owner = some p) :
    ∃ t, s.LeavesLatches t ∧ (t.ports.get p).notices.length + 1 ≤ (s.ports.get p).notices.length + ks.length
      ∧ (t.notify p (.slotFreed i k)).LeavesLatches (ks.foldl (fun t k => t.releaseSlot i k) s) := by
  obtain ⟨before, after, rfl⟩ := List.append_of_mem mem
  rw [List.foldl_append, List.foldl_cons]
  have earlier := s.releaseLoop_leavesLatches i before
  have linked := s.releaseLoop_linked i before
  have count := s.releaseLoop_length i before p
  set t := before.foldl (fun t k => t.releaseSlot i k) s
  have record : t.streams.get i = (s.streams.get i).modSlots before s.leaving := by
    rw [linked.streams]; simp
  have outputs : t.outputs = s.outputs := linked.streamed.outputs
  obtain ⟨y, slot, surface⟩ : ∃ y, (t.streams.get i).slots[k]? = some y ∧ y.surface = x.surface := by
    refine ⟨_, record ▸ StreamRecord.modSlots_getElem? at', ?_⟩
    split
    · exact s.leaving_surface x
    · rfl
  have unheld : ¬ t.drawn y.surface.index := by rw [State.drawn_of_outputs outputs, surface]; exact unheld
  have empties : t.releaseSlot i k = t.emptySlot i k := by
    simp only [State.releaseSlot, slot, mt State.drawn_iff.mp unheld]
    rfl
  have owned : (t.streams.get i).owner = some p := by rw [record]; exact owner
  refine ⟨t.modStream i (fun r => r.modSlot k Slot.emptied), earlier.modStream (by simp), ?_, ?_⟩
  · rw [List.length_append, List.length_cons]
    exact (Nat.add_le_add_right count 1).trans (by omega)
  · rw [empties, State.emptySlot_owner owned]
    exact State.releaseLoop_leavesLatches i after _

end Sys2Proof.Machine
end

section
/-! SUPPORT. STOP STREAM and CLOSE STREAM by their owning block (R104 to R106): the record of a halted stream, the end of a close,
and what both leave of the owner's port and of the surfaces. -/

namespace Sys2Proof.Machine

variable {s t u v : State} {p : Port} {f : Frame} {rest : List Frame} {i : StreamId} {r : StreamRecord} {x : Slot}
  {k j idx : Nat} {y : Surface} {tag : Byte}

/-! ## Halting (R104) -/

/-- The slots that leave a stream as it halts: those of the ready list and the current one. -/
def StreamRecord.leavers (r : StreamRecord) : List Nat := r.ready ++ r.current.toList

theorem StreamRecord.mem_leavers : j ∈ r.leavers ↔ j ∈ r.ready ∨ r.current = some j := by
  simp [StreamRecord.leavers]

/-- The record of a stream once its frames left (R104). -/
def State.haltedRecord (s : State) (r : StreamRecord) : StreamRecord :=
  { r.modSlots r.leavers s.leaving with current := none, ready := [], startStamp := none, lastStamp := none }

theorem State.halted_haltedRecord (s : State) (r : StreamRecord) : s.halted r (s.haltedRecord r).slots := by
  refine ⟨StreamRecord.length_modSlots .., fun j x at' => ?_⟩
  have slot := StreamRecord.modSlots_getElem? (ks := r.leavers) (g := s.leaving) at'
  refine ⟨fun leaves held => ?_, fun leaves unheld => ?_, fun stays => ?_⟩
  · rw [if_pos (StreamRecord.mem_leavers.mpr leaves), State.leaving_held held] at slot
    exact slot
  · rw [if_pos (StreamRecord.mem_leavers.mpr leaves), State.leaving_unheld unheld] at slot
    exact slot
  · rw [if_neg (mt StreamRecord.mem_leavers.mp stays)] at slot
    exact slot

/-- Halting is one loop of releases, between two changes of the record. -/
theorem State.haltStream_eq (i : StreamId) (s : State) : s.haltStream i =
    ((s.streams.get i).leavers.foldl (fun t k => t.releaseSlot i k)
      (s.modStream i (fun r => { r with ready := [] }))).modStream i
        (fun r => { r with current := none, lastStamp := none, startStamp := none }) := by
  rw [State.haltStream, StreamRecord.leavers, List.foldl_append]
  cases (s.streams.get i).current <;> rfl

theorem State.haltStream_linked (i : StreamId) (s : State) :
    (s.modStream i s.haltedRecord).LinkedTo (s.haltStream i) := by
  have loop := State.releaseLoop_linked i (s.streams.get i).leavers (s.modStream i (fun r => { r with ready := [] }))
  have halted := loop.modStream i (fun r => { r with current := none, lastStamp := none, startStamp := none })
  rw [← State.haltStream_eq, State.modStream_modStream, State.modStream_modStream] at halted
  exact halted

theorem State.haltStream_leavesLatches (i : StreamId) (s : State) : s.LeavesLatches (s.haltStream i) := by
  rw [State.haltStream_eq]
  exact ((s.leavesLatches_refl.modStream id).trans (State.releaseLoop_leavesLatches ..)).modStream id

/-- The owner is offered SLOT FREED for each slot that leaves and that no hold set names, and queues it where it has room for
all of them (R102). -/
theorem State.slotFreed_mem_haltStream (leaves : j ∈ (s.streams.get i).leavers)
    (at' : (s.streams.get i).slots[j]? = some x) (unheld : ¬ s.drawn x.surface.index)
    (owner : (s.streams.get i).owner = some p) (attached : (s.ports.get p).status = .attached)
    (room : (s.ports.get p).notices.length + (s.ports.get p).owed + (s.streams.get i).ready.length < 32) :
    .slotFreed i j ∈ ((s.haltStream i).ports.get p).notices := by
  rw [State.haltStream_eq]
  have slot : ((s.modStream i (fun r => { r with ready := [] })).streams.get i).slots[j]? = some x := by simpa using at'
  have owned : ((s.modStream i (fun r => { r with ready := [] })).streams.get i).owner = some p := by simpa using owner
  obtain ⟨t, before, count, after⟩ := State.releaseLoop_frees leaves slot unheld owned
  have few : (s.streams.get i).leavers.length ≤ (s.streams.get i).ready.length + 1 := by
    rw [StreamRecord.leavers, List.length_append]
    cases (s.streams.get i).current <;> simp
  obtain ⟨status, -, owed⟩ := (before.ports p).account
  refine (after.keepsNotices p).mem (State.mem_notify (status.trans attached) ?_ _)
  rw [owed]
  simp only [State.modStream_ports] at count ⊢
  omega

/-! ## The end of a close (R106) -/

theorem State.finishClose_stays (some' : ∃ x ∈ (s.streams.get i).slots, x.state ≠ .empty) : s.finishClose i = s := by
  refine if_neg fun ⟨_, all⟩ => ?_
  obtain ⟨x, mem, full⟩ := some'
  exact full (by simpa using List.all_eq_true.mp all x mem)

section
variable (closing : (s.streams.get i).state = .closing) (empty : ∀ x ∈ (s.streams.get i).slots, x.state = .empty)
include closing empty

/-- The end of a close that completes a CLOSE STREAM. -/
theorem State.finishClose_completes (owner : (s.streams.get i).owner = some p)
    (closeTag : (s.streams.get i).closeTag = some tag) :
    s.finishClose i = (s.streamClosed i).completeHeld p .closeStream tag .ok none (.closed i) := by
  have ends : (s.streams.get i).state = .closing ∧ (s.streams.get i).slots.all (fun x => x.state == .empty) = true :=
    ⟨closing, List.all_eq_true.mpr fun x mem => by simp [empty x mem]⟩
  simp only [State.finishClose, ends, owner, closeTag, and_self, if_true]
  rfl

theorem State.finishClose_linked : (s.streamClosed i).LinkedTo (s.finishClose i) := by
  have ends : (s.streams.get i).state = .closing ∧ (s.streams.get i).slots.all (fun x => x.state == .empty) = true :=
    ⟨closing, List.all_eq_true.mpr fun x mem => by simp [empty x mem]⟩
  simp only [State.finishClose, ends, and_self, if_true]
  split
  · exact State.completeHeld_linked ..
  · exact State.linkedTo_refl _

end

/-- A stream whose close ended is cleared but for its clock, and the others are as they were. -/
theorem State.streamClosed_streams (i : StreamId) (s : State) :
    (s.streamClosed i).streams = s.streams.set i (s.streams.get i).closed := by
  have detached := (s.detachSlots_curated (s.streams.get i).slots).streams
  rw [State.streamClosed, (State.streamNotice_linked i _).streams, State.modStream_streams, detached]
  rfl

theorem State.finishClose_streams_ne {i' : StreamId} (ne : i' ≠ i) :
    (s.finishClose i).streams.get i' = s.streams.get i' := by
  have closed : (s.streamClosed i).streams.get i' = s.streams.get i' := by
    rw [State.streamClosed_streams, PerStream.get_set_ne _ _ _ _ ne]
  rcases s.finishClose_cases i with e | e | ⟨p, tag, e⟩ <;> rw [e]
  · exact closed
  · rw [State.completeHeld_streams, closed]

theorem State.streamClosed_surfaces (i : StreamId) (s : State) :
    (s.streamClosed i).surfaces = (detachSlots (s.streams.get i).slots s).surfaces := by
  rw [State.streamClosed, (State.streamNotice_linked i _).streamed.surfaces]
  rfl

/-- A surface is detached where a slot names it, and stays as it was elsewhere (R21, R106). -/
theorem detachSlots_surfaceAt (xs : List Slot) (at' : s.surfaceAt idx = some y) : (detachSlots xs s).surfaceAt idx =
    some (if ∃ x ∈ xs, x.surface.index = idx then { y with attached := none } else y) := by
  induction xs generalizing s y with
  | nil => exact at'.trans (by simp)
  | cons x xs ih =>
    obtain ⟨g, entry⟩ := State.entry_of_surfaceAt at'
    rw [show detachSlots (x :: xs) s = detachSlots xs (s.modSurface x.surface.index _) from rfl]
    by_cases e : x.surface.index = idx
    · subst e
      rw [ih (y := { y with attached := none }) (by rw [State.surfaceAt, State.modSurface_entry entry]; rfl)]
      simp
    · rw [ih (y := y) (by rw [State.surfaceAt, State.modSurface_entry_ne (Ne.symm e), entry]; rfl)]
      simp [e]

/-- A surface that is not RETIRING passes the test of R17. -/
theorem State.freeRetired_surfaceAt (at' : s.surfaceAt idx = some y) (ne : y.state ≠ .retiring) :
    s.freeRetired.surfaceAt idx = some y := by
  obtain ⟨g, entry⟩ := State.entry_of_surfaceAt at'
  have kept : s.retired idx = false := Bool.eq_false_iff.mpr fun h => ne ((State.retired_iff entry).mp h).1
  have same : s.freeRetired.surfaces.entries[idx]? = s.surfaces.entries[idx]? := by
    by_cases lt : idx < 160
    · rw [State.freeRetired_entry lt, State.freeIfRetired_kept kept]
    · rw [State.freeRetired_eq]
      exact State.freeRetired_untested (mt mem_surfaceIndices.mp lt)
  rw [State.surfaceAt, same]
  exact at'

/-! ## STOP STREAM (R104) -/

theorem State.KeepsNotices.settle (h : s.KeepsNotices t) : s.KeepsNotices t.settle := by
  rw [State.settle]
  exact (h.settlePort .a).settlePort .b

theorem State.KeepsNotices.deliver (h : s.KeepsNotices t) (p : Port) (n : Notice) : s.KeepsNotices (t.deliver p n) := by
  unfold State.deliver
  split
  · exact h
  · exact h.modPort (List.prefix_append _ _)

theorem StreamState.started_iff (st : StreamState) : st.started = true ↔ st = .primed ∨ st = .running ∨ st = .paused := by
  cases st <;> decide

section
variable (number : u8 f.payload 0 = streamNum i) (isOpen : (u.streams.get i).state ≠ .idleClosed)
  (owner : (u.streams.get i).owner = some p)
include number isOpen owner

theorem stopStream_wrongState (still : (u.streams.get i).state.started = false) :
    stopStream p f u = u.complete p f .wrongState .none :=
  (State.onStream_owner number isOpen owner).trans (if_pos (by simp [still]))

theorem stopStream_accepted (started : (u.streams.get i).state.started = true) : stopStream p f u =
    (((u.haltStream i).modStream i (fun r => { r with state := .opened })).streamNotice i).completeStream p f i :=
  (State.onStream_owner number isOpen owner).trans (if_neg (by simp [started]))

theorem closeStream_wrongState (closing : (u.streams.get i).state = .closing) :
    closeStream p f u = u.complete p f .wrongState .none :=
  (State.onStream_owner number isOpen owner).trans (if_pos closing)

theorem closeStream_accepted (going : (u.streams.get i).state ≠ .closing) : closeStream p f u =
    ((u.enter p f).beginClose i (some f.tag)).freeRetired.settle :=
  (State.onStream_owner number isOpen owner).trans (if_neg going)

end

/-- An accepted STOP STREAM halts the stream, leaves it OPEN and reports it (R104). -/
theorem Takes.stops (takes : Takes s p .stopStream f rest) (owner : (s.streams.get i).owner = some p)
    (run : stopStream p f (s.dequeued p rest) = ((((s.dequeued p rest).haltStream i).modStream i
      (fun r => { r with state := .opened })).streamNotice i).completeStream p f i) :
    let r := s.streams.get i
    let slots := (s.haltedRecord r).slots
    ∃ t, exec (.stopStream p) s = .next t
      ∧ ((s.dequeued p rest).haltStream i).KeepsNotices t
      ∧ t = { s with
              streams := s.streams.set i
                { r with
                  state := .opened, slots := slots, current := none, ready := [], startStamp := none, lastStamp := none }
              ports := t.ports, counters := { s.counters with port := t.counters.port } }
      ∧ (s.ports.get p).completed (t.ports.get p) rest (.completion f.tag f.code .ok none (.stream
          { stream := i, state := .opened, owner := some p, clockOutput := r.clockOutput, slots := slots.map (·.state)
            readyLength := 0, clock := r.clock }))
      ∧ (s.ports.get p.other).noticed (t.ports.get p.other) := by
  intro r slots
  let v := s.dequeued p rest
  have halts := (v.haltStream_linked i).modStream i (fun r => { r with state := .opened })
  rw [State.modStream_modStream] at halts
  set u := (v.haltStream i).modStream i (fun r => { r with state := .opened })
  have record : u.streams.get i = { s.haltedRecord r with state := .opened } := by
    rw [halts.streams]
    exact PerStream.get_set ..
  have report : u.streamReport i =
      { stream := i, state := .opened, owner := some p, clockOutput := r.clockOutput, slots := slots.map (·.state)
        readyLength := 0, clock := r.clock } := by
    rw [State.streamReport, record]
    simp only [State.haltedRecord, StreamRecord.modSlots, List.length_nil]
    rw [show r.owner = some p from owner]
    rfl
  obtain ⟨linked, completed, noticed⟩ := takes.reports (u := u) (i := i)
    ((v.haltStream_leavesLatches i).modStream (f := fun r => { r with state := .opened }) (by simp)).ports
  refine ⟨_, congrArg Host.Outcome.next ((takes.taking _).trans run), ?_, (halts.trans linked).eq, report ▸ completed,
    noticed⟩
  exact ((((v.haltStream i).keepsNotices_refl.modStream i _).streamNotice i).deliver p _)

/-! ## CLOSE STREAM (R105, R106) -/

/-- Whether nothing differs but the surfaces, the layer records, the streams, the ports and the counters of the ports. -/
def State.ReleasedTo (s t : State) : Prop := ∃ m ls st ps k,
  t = { s with surfaces := m, layers := ls, streams := st, ports := ps, counters := { s.counters with port := k } }

theorem State.ReleasedTo.trans (h : s.ReleasedTo t) (k : t.ReleasedTo u) : s.ReleasedTo u := by
  obtain ⟨_, _, _, _, _, rfl⟩ := h
  obtain ⟨_, _, _, _, _, rfl⟩ := k
  exact ⟨_, _, _, _, _, rfl⟩

theorem State.LinkedTo.released (h : s.LinkedTo t) : s.ReleasedTo t := by
  obtain ⟨_, _, rfl⟩ := h
  exact ⟨_, _, _, _, _, rfl⟩

theorem State.ReleasedTo.eq (h : s.ReleasedTo t) : t = { s with
    surfaces := t.surfaces, layers := t.layers, streams := t.streams, ports := t.ports
    counters := { s.counters with port := t.counters.port } } := by
  obtain ⟨_, _, _, _, _, rfl⟩ := h
  rfl

/-- A change of surfaces and layers that leaves the poster cache as it is. -/
theorem State.CuratedTo.released (h : s.CuratedTo t) (cache : t.cache = s.cache) : s.ReleasedTo t := by
  obtain ⟨m, ls, c, rfl⟩ := h
  obtain rfl : c = s.cache := cache
  exact ⟨_, _, _, _, _, rfl⟩

theorem State.modStream_released (i : StreamId) (g : StreamRecord → StreamRecord) (s : State) :
    s.ReleasedTo (s.modStream i g) := ⟨_, _, _, _, _, rfl⟩

theorem State.finishClose_released (i : StreamId) (s : State) : s.ReleasedTo (s.finishClose i) := by
  have closed : s.ReleasedTo (s.streamClosed i) :=
    (((s.detachSlots_curated _).released (detachSlots_cache _ s)).trans (State.modStream_released i _ _)).trans
      (State.streamNotice_linked i _).released
  rcases s.finishClose_cases i with e | e | ⟨p, tag, e⟩ <;> rw [e]
  · exact s.linkedTo_refl.released
  · exact closed
  · exact closed.trans (State.completeHeld_linked ..).released

/-- The state in which a stream is CLOSING, its close not yet ended (R105, R107). -/
def State.closingStream (i : StreamId) (tag : Option Byte) (s : State) : State :=
  ((s.haltStream i).modStream i (fun r => { r with state := .closing, closeTag := tag })).streamNotice i

theorem State.beginClose_eq (i : StreamId) (tag : Option Byte) (s : State) :
    s.beginClose i tag = (s.closingStream i tag).finishClose i := rfl

/-- The record of a stream that is CLOSING (R105). -/
def State.closingRecord (s : State) (tag : Option Byte) (r : StreamRecord) : StreamRecord :=
  { s.haltedRecord r with state := .closing, closeTag := tag }

theorem State.closingStream_linked (i : StreamId) (tag : Option Byte) (s : State) :
    (s.modStream i (s.closingRecord tag)).LinkedTo (s.closingStream i tag) := by
  have halts := (s.haltStream_linked i).modStream i (fun r => { r with state := .closing, closeTag := tag })
  rw [State.modStream_modStream] at halts
  exact halts.trans (State.streamNotice_linked i _)

theorem State.closingStream_record (i : StreamId) (tag : Option Byte) (s : State) :
    (s.closingStream i tag).streams.get i = s.closingRecord tag (s.streams.get i) := by
  rw [(s.closingStream_linked i tag).streams]
  exact PerStream.get_set ..

theorem State.streamNotice_noticed (i : StreamId) (q : Port) (s : State) :
    (s.ports.get q).noticed ((s.streamNotice i).ports.get q) := (s.leavesLatches_refl.publish _ _).ports q

theorem State.closingStream_noticed (i : StreamId) (tag : Option Byte) (q : Port) (s : State) :
    (s.ports.get q).noticed ((s.closingStream i tag).ports.get q) :=
  ((s.haltStream_leavesLatches i).ports q).trans (State.streamNotice_noticed i q
    ((s.haltStream i).modStream i (fun r => { r with state := .closing, closeTag := tag })))

theorem State.streamClosed_noticed (i : StreamId) (q : Port) (s : State) :
    (s.ports.get q).noticed ((s.streamClosed i).ports.get q) := by
  have told := State.streamNotice_noticed i q ((detachSlots (s.streams.get i).slots s).modStream i
    (fun _ => { StreamRecord.reset with clock := (s.streams.get i).clock }))
  rw [State.modStream_ports, (s.detachSlots_curated _).ports] at told
  exact told

/-- The tests of R17 and R169 after the end of a close leave the streams as they are, and a port in service no more than
notices. -/
theorem State.closeTested (s : State) :
    s.ReleasedTo s.freeRetired.settle ∧ s.freeRetired.settle.streams = s.streams
      ∧ ((s.ports.get p).status = .attached → (s.ports.get p).noticed (s.freeRetired.settle.ports.get p)) := by
  have settled := s.freeRetired.settle_linked
  refine ⟨(s.freeRetired_curated.released s.freeRetired_cache).trans settled.released,
    settled.streams.trans s.freeRetired_curated.streams, fun attached => ?_⟩
  have same := s.freeRetired_curated.ports
  rw [← same] at attached ⊢
  exact State.settle_noticed attached

theorem State.closeTested_surfaceAt (at' : s.surfaceAt idx = some y) (ne : y.state ≠ .retiring) :
    s.freeRetired.settle.surfaceAt idx = some y := by
  rw [State.surfaceAt, s.freeRetired.settle_linked.streamed.surfaces]
  exact State.freeRetired_surfaceAt at' ne

theorem PortState.served.queue {q r : PortState} (h : q.served r) : r.queue = q.queue := by rw [h.2.2]

theorem Cmd.code_of_ofCode {b : Byte} {c : Cmd} (h : Cmd.ofCode b = some c) : c.code = b := by
  unfold Cmd.ofCode at h
  split at h
  case h_30 => cases h
  all_goals
    next e =>
    cases h
    exact (BitVec.eq_of_toNat_eq e).symm

/-- The code of a frame that holds a command is that of the command (Table 10-10). -/
theorem Frame.code_of_cmd? {c : Cmd} (h : f.cmd? = some c) : f.code = c.code := by
  unfold Frame.cmd? at h
  split at h
  · next d known =>
    split at h
    · cases h
      exact (Cmd.code_of_ofCode known).symm
    · cases h
  · cases h

/-- The halted slots name the surfaces they named before. -/
theorem State.haltedRecord_names (s : State) (r : StreamRecord) (idx : Nat) :
    (∃ x ∈ (s.haltedRecord r).slots, x.surface.index = idx) ↔ ∃ x ∈ r.slots, x.surface.index = idx := by
  have named (xs : List Slot) : (∃ x ∈ xs, x.surface.index = idx) ↔ ∃ h ∈ xs.map (·.surface), h.index = idx := by simp
  rw [named, named, ← r.modSlots_surfaces s.leaving_surface r.leavers]
  rfl

/-- What CLOSE STREAM leaves where every slot is EMPTY at once: the close has ended and the command is complete (R106). -/
structure State.ClosedAtOnce (s t : State) (p : Port) (i : StreamId) (e : InFlight) : Prop where
  record : t.streams.get i = (s.streams.get i).closed
  surfaces : ∀ idx y, s.surfaceAt idx = some y → y.state ≠ .retiring →
    ((∃ x ∈ (s.streams.get i).slots, x.surface.index = idx) → t.surfaceAt idx = some { y with attached := none })
    ∧ ((∀ x ∈ (s.streams.get i).slots, x.surface.index ≠ idx) → t.surfaceAt idx = some y)
  inFlight : (t.ports.get p).inFlight = ((s.ports.get p).inFlight ++ [e]).erase e
  owed : (t.ports.get p).owed = (s.ports.get p).owed - 1
  completed : Notice.completion e.tag e.code .ok none (.closed i) ∈ (t.ports.get p).notices

theorem State.dispatched_port (s : State) (p : Port) (f : Frame) (rest : List Frame) :
    (s.dispatched p f rest).ports.get p =
      { s.ports.get p with queue := rest, inFlight := (s.ports.get p).inFlight ++ [⟨f.code, f.tag⟩] } := PerPort.get_set ..

section
variable (takes : Takes s p .closeStream f rest)
include takes

/-- The close that ends at once. -/
theorem Takes.closes_empty (owner : (s.streams.get i).owner = some p)
    (empty : ∀ x ∈ (s.haltedRecord (s.streams.get i)).slots, x.state = .empty) :
    s.ClosedAtOnce ((s.dispatched p f rest).beginClose i (some f.tag)).freeRetired.settle p i ⟨f.code, f.tag⟩ := by
  let v := s.dispatched p f rest
  let w := v.closingStream i (some f.tag)
  have record : w.streams.get i = s.closingRecord (some f.tag) (s.streams.get i) := v.closingStream_record i _
  have port := (v.closingStream_noticed i (some f.tag) p).trans (w.streamClosed_noticed i p)
  obtain ⟨status, inFlight, owed⟩ := port.account
  rw [State.dispatched_port] at status inFlight owed
  have ends : v.beginClose i (some f.tag) = (w.streamClosed i).completeHeld p .closeStream f.tag .ok none (.closed i) := by
    rw [State.beginClose_eq]
    refine State.finishClose_completes ?_ ?_ ?_ ?_ <;> rw [record]
    · rfl
    · exact empty
    · exact owner
    · rfl
  have code : Cmd.code .closeStream = f.code := (Frame.code_of_cmd? takes.head.command).symm
  have completed := State.completeHeld_get (c := .closeStream) (tag := f.tag) (st := .ok) (reason := none)
    (res := .closed i) (s := w.streamClosed i) (p := p) (by rw [status]; simp [takes.attached])
  rw [← ends, code] at completed
  have attached : ((v.beginClose i (some f.tag)).ports.get p).status = .attached := by
    rw [completed]
    exact status.trans takes.attached
  obtain ⟨-, streams, noticed⟩ := (v.beginClose i (some f.tag)).closeTested (p := p)
  have noticed := noticed attached
  obtain ⟨-, inFlight', owed'⟩ := noticed.account
  have detached : (v.beginClose i (some f.tag)).surfaces = (detachSlots (w.streams.get i).slots w).surfaces := by
    rw [ends, (State.completeHeld_linked ..).streamed.surfaces, State.streamClosed_surfaces]
  have same : w.surfaces = s.surfaces := (v.closingStream_linked i _).streamed.surfaces
  constructor
  · rw [streams, ends, State.completeHeld_streams, State.streamClosed_streams, PerStream.get_set, record]
    rfl
  · intro idx y at' ne
    have before : w.surfaceAt idx = some y := by
      rw [State.surfaceAt, same]
      exact at'
    have after := detachSlots_surfaceAt (w.streams.get i).slots before
    rw [State.surfaceAt, ← detached] at after
    have kept := State.closeTested_surfaceAt (s := v.beginClose i (some f.tag)) after (by split <;> exact ne)
    have names : (∃ x ∈ (w.streams.get i).slots, x.surface.index = idx)
        ↔ ∃ x ∈ (s.streams.get i).slots, x.surface.index = idx := by
      rw [record]
      exact s.haltedRecord_names _ idx
    refine ⟨fun named => ?_, fun others => ?_⟩
    · rw [kept, if_pos (names.mpr named)]
    · rw [kept, if_neg (mt names.mp fun ⟨x, mem, e⟩ => others x mem e)]
  · rw [inFlight', completed]
    exact congrArg (List.erase · _) inFlight
  · rw [owed', completed]
    exact congrArg (· - 1) owed
  · refine noticed.1.mem ?_
    rw [completed]
    simp

/-- The close that waits for a slot: the stream is CLOSING (R105). -/
theorem Takes.closes_waiting (full : ∃ x ∈ (s.haltedRecord (s.streams.get i)).slots, x.state ≠ .empty) :
    let t := ((s.dispatched p f rest).beginClose i (some f.tag)).freeRetired.settle
    t.streams.get i = s.closingRecord (some f.tag) (s.streams.get i)
      ∧ (∀ idx y, s.surfaceAt idx = some y → y.state ≠ .retiring → t.surfaceAt idx = some y)
      ∧ (t.ports.get p).inFlight = (s.ports.get p).inFlight ++ [⟨f.code, f.tag⟩]
      ∧ (t.ports.get p).owed = (s.ports.get p).owed := by
  let v := s.dispatched p f rest
  let w := v.closingStream i (some f.tag)
  have record : w.streams.get i = s.closingRecord (some f.tag) (s.streams.get i) := v.closingStream_record i _
  have waits : v.beginClose i (some f.tag) = w := by
    rw [State.beginClose_eq]
    refine State.finishClose_stays ?_
    rw [record]
    exact full
  rw [waits]
  have port := v.closingStream_noticed i (some f.tag) p
  rw [State.dispatched_port] at port
  obtain ⟨-, streams, noticed⟩ := w.closeTested (p := p)
  obtain ⟨-, inFlight, owed⟩ := (port.trans (noticed (port.account.1.trans takes.attached))).account
  refine ⟨?_, fun idx y at' ne => State.closeTested_surfaceAt ?_ ne, inFlight, owed⟩
  · rw [streams]
    exact record
  · rw [State.surfaceAt, (v.closingStream_linked i _).streamed.surfaces]
    exact at'

/-- What CLOSE STREAM leaves of the part in either case. -/
theorem Takes.closes_frame :
    let t := ((s.dispatched p f rest).beginClose i (some f.tag)).freeRetired.settle
    t = { s with
          surfaces := t.surfaces, layers := t.layers, streams := t.streams, ports := t.ports
          counters := { s.counters with port := t.counters.port } }
      ∧ (∀ j, j ≠ i → t.streams.get j = s.streams.get j)
      ∧ (t.ports.get p).status = .attached ∧ (t.ports.get p).queue = rest
      ∧ (s.ports.get p).notices <+: (t.ports.get p).notices
      ∧ ((s.dispatched p f rest).haltStream i).KeepsNotices t := by
  let v := s.dispatched p f rest
  let w := v.closingStream i (some f.tag)
  let z := w.finishClose i
  obtain ⟨released, streams, noticed⟩ := z.closeTested (p := p)
  have closing : s.ReleasedTo w := ((s.modPort_linked p _).released.trans (State.modStream_released i _ v)).trans
    (v.closingStream_linked i _).released
  have served := (v.closingStream_noticed i (some f.tag) p).served.trans (w.finishClose_serves i p)
  rw [State.dispatched_port] at served
  have after := served.trans (noticed (served.status.trans takes.attached)).served
  have keeps : (v.haltStream i).KeepsNotices z :=
    (((v.haltStream i).keepsNotices_refl.modStream i _).streamNotice i).finishClose i
  have ends : v.beginClose i (some f.tag) = z := v.beginClose_eq ..
  rw [ends]
  refine ⟨((closing.trans (w.finishClose_released i)).trans released).eq, fun j ne => ?_, after.status.trans takes.attached,
    after.queue, after.1, ?_⟩
  · refine (congrArg (PerStream.get · j) streams).trans ?_
    rw [State.finishClose_streams_ne ne, (v.closingStream_linked i _).streams]
    exact PerStream.get_set_ne _ _ _ _ ne
  · exact (keeps.of_ports z.freeRetired_curated.ports).settle

end

/-- Settles O52: both commands halt the stream; a stream that stops is OPEN, and one that closes is cleared as soon as its
slots are EMPTY. -/
theorem stopAndCloseStreamTaken : Obligations.StopAndCloseStreamTaken := by
  intro s p f rest i r freed e payload isOpen owner
  have number : u8 f.payload 0 = streamNum i := payload ▸ u8_streamNum i []
  have frees {u t : State} (record : u.streams.get i = r) (drawn : ∀ j, u.drawn j ↔ s.drawn j)
      (attached : (u.ports.get p).status = .attached) (notices : (u.ports.get p).notices = (s.ports.get p).notices)
      (owed : (u.ports.get p).owed = (s.ports.get p).owed) (keeps : (u.haltStream i).KeepsNotices t) : freed t := by
    intro room j x at' leaves unheld
    refine (keeps p).mem (State.slotFreed_mem_haltStream ?_ (record ▸ at') (mt (drawn _).mp unheld) (record ▸ owner)
      attached ?_)
    · rw [record]
      exact StreamRecord.mem_leavers.mpr leaves
    · rw [record, notices, owed]
      exact room
  constructor
  · intro takes
    refine ⟨fun still => ?_, fun started => ?_⟩
    · refine congrArg Host.Outcome.next (takes.answers
        (stopStream_wrongState (u := s.dequeued p rest) number isOpen owner ?_))
      rcases still with e | e <;> exact congrArg StreamState.started e
    · have accepted := stopStream_accepted (u := s.dequeued p rest) number isOpen owner
        ((StreamState.started_iff _).mpr started)
      obtain ⟨t, run, keeps, frame, completed, noticed⟩ := takes.stops owner accepted
      have port : (s.dequeued p rest).ports.get p = { s.ports.get p with queue := rest } := PerPort.get_set ..
      refine ⟨t, _, run, s.halted_haltedRecord r, frees (u := s.dequeued p rest) rfl (fun _ => Iff.rfl) ?_ ?_ ?_ keeps, frame,
        completed, noticed⟩ <;> rw [port]
      exact takes.attached
  · intro takes
    refine ⟨fun closing => congrArg Host.Outcome.next (takes.answers
      (closeStream_wrongState (u := s.dequeued p rest) number isOpen owner closing)), fun going => ?_⟩
    have accepted := closeStream_accepted (u := s.dequeued p rest) number isOpen owner going
    rw [State.dequeued, State.enter_taken] at accepted
    obtain ⟨frame, others, attached, queue, notices, keeps⟩ := takes.closes_frame (i := i)
    refine ⟨_, (s.haltedRecord r).slots, congrArg Host.Outcome.next ((takes.taking _).trans accepted),
      s.halted_haltedRecord r, frees (u := s.dispatched p f rest) rfl (fun _ => Iff.rfl) ?_ ?_ ?_ keeps, frame, others,
      attached, queue, notices, fun empty => ?_, fun full => takes.closes_waiting full⟩
    all_goals try rw [State.dispatched_port]
    · exact takes.attached
    · obtain ⟨record, surfaces, inFlight, owed, completed⟩ := takes.closes_empty owner empty
      exact ⟨record, surfaces, inFlight, owed, completed⟩

end Sys2Proof.Machine
end

section
/-! SUPPORT. The frames of a stream at a field start (R87, R95, R98 to R100): the clock, the run of frames at or before it, the
record the selection leaves, and the SLOT FREED notices of the slots that leave. -/

namespace Sys2Proof.Machine

variable {s t u v : State} {p : Port} {o : OutputId} {i i' : StreamId} {r : StreamRecord} {x : Slot} {k j advance : Nat}
  {n : Notice} {leave : Slot → Slot}

/-! ## Notices that a port is told (R179) -/

/-- An ATTACHED port queues the notice it is offered, unless it counts it as lost. -/
theorem State.told_notify (p : Port) (n : Notice) (s : State) : s.told (s.notify p n) p n := by
  intro attached room kept
  rcases s.notify_cases p n with ⟨away, -⟩ | ⟨-, -, e⟩ | ⟨-, -, e⟩
  · exact absurd attached away
  · rw [e]
    simp
  · rw [e] at kept
    simp only [State.modCounters_ports, State.modPort_ports, PerPort.get_set, satSucc255, if_pos room] at kept
    omega

/-- What a port is told in the middle of some work it is told by the whole of it, where no notice leaves its queue after. -/
theorem State.told.extend (h : u.told v p n) (before : (s.ports.get p).served (u.ports.get p))
    (mid : (u.ports.get p).served (v.ports.get p)) (notices : (v.ports.get p).notices <+: (t.ports.get p).notices)
    (lost : (v.ports.get p).status = .attached → (v.ports.get p).lost ≤ (t.ports.get p).lost) : s.told t p n := by
  intro attached room kept
  have listens : (u.ports.get p).status = .attached := before.status.trans attached
  have first : (s.ports.get p).lost ≤ (u.ports.get p).lost := before.2.1
  have second : (u.ports.get p).lost ≤ (v.ports.get p).lost := mid.2.1
  have third := lost (mid.status.trans listens)
  exact notices.mem (h listens (by omega) (by omega))

/-! ## The clock of the field (R87, R95, R98) -/

/-- Whether a field start of an output selects a frame of a stream: its clock output is that one, and it is PRIMED, RUNNING or
PAUSED (R95, R98). -/
def StreamRecord.selects (r : StreamRecord) (o : OutputId) : Prop :=
  r.clockOutput = some o ∧ (r.state = .primed ∨ r.state = .running ∨ r.state = .paused)

/-- The clock of a stream that selects a frame, with the field advance (R95, R98). -/
def StreamRecord.fieldClock (r : StreamRecord) (advance : Nat) : Word32 :=
  if r.state = .primed then r.startStamp.getD r.clock
  else if r.state = .running then r.clock + BitVec.ofNat 32 advance else r.clock

/-- The record of a stream that selects a frame, once its clock has moved. -/
def StreamRecord.clocked (r : StreamRecord) (advance : Nat) : StreamRecord :=
  { r with
    state := if r.state = .primed then .running else r.state
    startStamp := if r.state = .primed then none else r.startStamp, clock := r.fieldClock advance }

theorem StreamRecord.clocked_paused (e : r.state = .paused) : r.clocked advance = r := by
  cases r
  cases e
  rfl

/-! ## The record a selection leaves (R99, R100) -/

/-- A slot that is CURRENT (R100). -/
def Slot.shown (x : Slot) : Slot := { x with state := .current }

/-- The slots that leave at a selection with a candidate: the candidates but the last, and the slot that was current. -/
def StreamRecord.passed (r : StreamRecord) : List Nat := r.candidates.dropLast ++ r.current.toList

/-- The record a selection leaves: the last candidate is current. -/
def StreamRecord.selected (r : StreamRecord) (leave : Slot → Slot) : StreamRecord :=
  match r.candidates.getLast? with
  | none => r
  | some k =>
    { (r.modSlots [k] Slot.shown).modSlots r.passed leave with
      current := some k, ready := r.ready.drop r.candidates.length }

theorem StreamRecord.selected_none (none : r.candidates = []) : r.selected leave = r := by
  simp [StreamRecord.selected, none]

theorem StreamRecord.selected_some (last : r.candidates.getLast? = some k) : r.selected leave =
    { (r.modSlots [k] Slot.shown).modSlots r.passed leave with
      current := some k, ready := r.ready.drop r.candidates.length } := by
  simp only [StreamRecord.selected, last]

/-- What a selection changes of a record. -/
theorem StreamRecord.selected_eq (r : StreamRecord) (leave : Slot → Slot) : r.selected leave =
    { r with
      current := r.candidates.getLast?.or r.current, ready := r.ready.drop r.candidates.length
      slots := (r.selected leave).slots } := by
  cases last : r.candidates.getLast? with
  | none =>
    have empty := List.getLast?_eq_none_iff.mp last
    rw [StreamRecord.selected_none empty, empty]
    rfl
  | some k =>
    rw [StreamRecord.selected_some last]
    rfl

theorem StreamRecord.selected_getElem? (last : r.candidates.getLast? = some k) (at' : r.slots[j]? = some x) :
    (r.selected leave).slots[j]? =
      some (if j ∈ r.passed then leave (if j = k then x.shown else x) else if j = k then x.shown else x) := by
  rw [StreamRecord.selected_some last]
  have first := StreamRecord.modSlots_getElem? (ks := [k]) (g := Slot.shown) at'
  simp only [List.mem_singleton] at first
  exact StreamRecord.modSlots_getElem? first

theorem StreamRecord.selected_surfaces (keeps : ∀ x, (leave x).surface = x.surface) (r : StreamRecord) :
    (r.selected leave).slots.map (·.surface) = r.slots.map (·.surface) := by
  cases last : r.candidates.getLast? with
  | none => rw [StreamRecord.selected_none (List.getLast?_eq_none_iff.mp last)]
  | some k =>
    rw [StreamRecord.selected_some last]
    exact (StreamRecord.modSlots_surfaces keeps _ _).trans
      (StreamRecord.modSlots_surfaces (g := Slot.shown) (fun _ => rfl) r [k])

/-! ## Selection (R99, R100) -/

theorem StreamRecord.modSlot_eq {g : Slot → Slot} (idem : ∀ x, g (g x) = g x) (r : StreamRecord) (k : Nat) :
    r.modSlot k g = r.modSlots [k] g := by
  rw [← StreamRecord.modSlots_modSlot idem, StreamRecord.modSlots_nil]

theorem State.modStream_congr {f g : StreamRecord → StreamRecord} (h : f (s.streams.get i) = g (s.streams.get i)) :
    s.modStream i f = s.modStream i g := by
  simp only [State.modStream, h]

/-- The state with the counters of a selection, before a frame is selected. -/
def State.selectionCounted (i : StreamId) (s : State) : State :=
  s.modCounters (fun c => c.onStream i (selectionCounters (s.streams.get i)))

/-- The state with the last candidate current, before the other slots leave. -/
def State.frameShown (i : StreamId) (k : Nat) (s : State) : State :=
  (s.selectionCounted i).modStream i (fun r =>
    { r.modSlot k Slot.shown with current := some k, ready := r.ready.drop (s.streams.get i).candidates.length })

/-- A selection with a candidate is one loop of releases. -/
theorem State.selectFrame_some (last : (s.streams.get i).candidates.getLast? = some k) : s.selectFrame i =
    (s.streams.get i).passed.foldl (fun t k => t.releaseSlot i k) (s.frameShown i k) := by
  rw [StreamRecord.passed, List.foldl_append]
  simp only [State.selectFrame, last]
  cases (s.streams.get i).current <;> rfl

theorem State.selectFrame_none (none : (s.streams.get i).candidates = []) : s.selectFrame i = s.selectionCounted i := by
  simp only [State.selectFrame, none]
  rfl

theorem State.selectFrame_linked (i : StreamId) (s : State) :
    ((s.selectionCounted i).modStream i (fun r => r.selected s.leaving)).LinkedTo (s.selectFrame i) := by
  cases last : (s.streams.get i).candidates.getLast? with
  | none =>
    have empty := List.getLast?_eq_none_iff.mp last
    have still : (s.selectionCounted i).modStream i (fun r => r.selected s.leaving) = s.selectionCounted i := by
      have same : (s.streams.get i).selected s.leaving = s.streams.get i := StreamRecord.selected_none empty
      simp [State.selectionCounted, State.modStream, State.modCounters, same]
    rw [still, State.selectFrame_none empty]
    exact State.linkedTo_refl _
  | some k =>
    have loop := State.releaseLoop_linked i (s.streams.get i).passed (s.frameShown i k)
    rw [← State.selectFrame_some last, State.frameShown, State.modStream_modStream] at loop
    refine (State.modStream_congr ?_ : (s.selectionCounted i).modStream i _ = _) ▸ loop
    show _ = (s.streams.get i).selected s.leaving
    rw [StreamRecord.selected_some last, StreamRecord.modSlot_eq (g := Slot.shown) fun _ => rfl]
    rfl

/-- The owner is told of each slot that leaves and that no hold set names (R102). -/
theorem State.told_selectFrame (last : (s.streams.get i).candidates.getLast? = some k) (mem : j ∈ (s.streams.get i).passed)
    (at' : (s.streams.get i).slots[j]? = some x) (unheld : ¬ s.drawn x.surface.index)
    (owner : (s.streams.get i).owner = some p) : s.told (s.selectFrame i) p (.slotFreed i j) := by
  have record : (s.frameShown i k).streams.get i = { (s.streams.get i).modSlot k Slot.shown with
      current := some k, ready := (s.streams.get i).ready.drop (s.streams.get i).candidates.length } := PerStream.get_set ..
  rw [StreamRecord.modSlot_eq (g := Slot.shown) fun _ => rfl] at record
  obtain ⟨y, slot, surface⟩ : ∃ y, ((s.frameShown i k).streams.get i).slots[j]? = some y ∧ y.surface = x.surface := by
    rw [record]
    refine ⟨_, StreamRecord.modSlots_getElem? (ks := [k]) (g := Slot.shown) at', ?_⟩
    split <;> rfl
  have owned : ((s.frameShown i k).streams.get i).owner = some p := by rw [record]; exact owner
  obtain ⟨t, before, -, after⟩ := State.releaseLoop_frees mem slot (surface ▸ unheld) owned
  rw [State.selectFrame_some last]
  exact (State.told_notify p _ t).extend (before.ports p).served ((t.leavesLatches_refl.notify p _).ports p).served
    (after.ports p).1 fun _ => (after.ports p).2.1

/-! ## The stream block's work at a field start (R95, R98) -/

theorem State.streamField_stays (idle : ¬ (s.streams.get i).selects o) : s.streamField i o advance = s := by
  unfold State.streamField
  dsimp only
  split
  · rfl
  · next clock =>
    have state := fun h => idle ⟨not_not.mp clock, h⟩
    split
    · next e => exact absurd (.inl e) state
    · next e => exact absurd (.inr (.inl e)) state
    · next e => exact absurd (.inr (.inr e)) state
    · rfl

/-- A stream that selects has its clock moved, then a frame selected, and then says so if it was PRIMED. -/
theorem State.streamField_selects (selects : (s.streams.get i).selects o) :
    ((s.modStream i (·.clocked advance)).selectFrame i).LinkedTo (s.streamField i o advance)
      ∧ ((s.modStream i (·.clocked advance)).selectFrame i).LeavesLatches (s.streamField i o advance) := by
  obtain ⟨clock, state⟩ := selects
  have moved (f : StreamRecord → StreamRecord) (e : f (s.streams.get i) = (s.streams.get i).clocked advance) :
      s.modStream i (·.clocked advance) = s.modStream i f := State.modStream_congr e.symm
  unfold State.streamField
  dsimp only
  rw [if_neg (not_not_intro clock)]
  rcases state with e | e | e
  · rw [e, moved (fun r => { r with clock := r.startStamp.getD r.clock, startStamp := none, state := .running })
      (by simp [StreamRecord.clocked, StreamRecord.fieldClock, e])]
    exact ⟨State.streamNotice_linked i _, (State.leavesLatches_refl _).publish _ _⟩
  · rw [e, moved (fun r => { r with clock := r.clock + BitVec.ofNat 32 advance })
      (by simp [StreamRecord.clocked, StreamRecord.fieldClock, e])]
    exact ⟨State.linkedTo_refl _, State.leavesLatches_refl _⟩
  · rw [e, moved id (StreamRecord.clocked_paused e).symm]
    have still : s.modStream i id = s := by simp [State.modStream]
    rw [still]
    exact ⟨State.linkedTo_refl _, State.leavesLatches_refl _⟩

end Sys2Proof.Machine
end


section
/-! SUPPORT. The part of one stream in a field start (R75, R101): what the field does before the stream selects, and what it does
after its slots are tested, leave the stream as it is. -/

namespace Sys2Proof.Machine

variable {s t u v : State} {p : Port} {o : OutputId} {i k : StreamId} {advance idx : Nat} {f : StreamRecord → StreamRecord}

/-! ## Work that leaves a stream as it is -/

/-- Whether a stream has the same record and the same counters. -/
def State.SameStream (i : StreamId) (s t : State) : Prop :=
  t.streams.get i = s.streams.get i ∧ t.counters.stream.get i = s.counters.stream.get i

theorem State.sameStream_refl (i : StreamId) (s : State) : s.SameStream i s := ⟨rfl, rfl⟩

theorem State.SameStream.trans (h : s.SameStream i t) (h' : t.SameStream i u) : s.SameStream i u :=
  ⟨h'.1.trans h.1, h'.2.trans h.2⟩

theorem State.LinkedTo.sameStream (h : s.LinkedTo t) (i : StreamId) : s.SameStream i t := by
  obtain ⟨_, _, rfl⟩ := h
  exact ⟨rfl, rfl⟩

theorem State.CuratedTo.sameStream (h : s.CuratedTo t) (i : StreamId) : s.SameStream i t := by
  obtain ⟨_, _, _, rfl⟩ := h
  exact ⟨rfl, rfl⟩

theorem State.modOut_sameStream (i : StreamId) (o : OutputId) (f : OutputState → OutputState) (s : State) :
    s.SameStream i (s.modOut o f) := ⟨rfl, rfl⟩

theorem State.modStream_sameStream (ne : i ≠ k) (f : StreamRecord → StreamRecord) (s : State) :
    s.SameStream i (s.modStream k f) := ⟨PerStream.get_set_ne _ _ _ _ ne, rfl⟩

theorem State.selectionCounted_sameStream (ne : i ≠ k) (s : State) : s.SameStream i (s.selectionCounted k) :=
  ⟨rfl, PerStream.get_set_ne _ _ _ _ ne⟩

/-- The selection of one stream leaves the other (R99). -/
theorem State.streamField_sameStream (ne : i ≠ k) (o : OutputId) (advance : Nat) (s : State) :
    s.SameStream i (s.streamField k o advance) := by
  by_cases selects : (s.streams.get k).selects o
  · exact ((((s.modStream_sameStream ne _).trans (State.selectionCounted_sameStream ne _)).trans
      (State.modStream_sameStream ne _ _)).trans ((State.selectFrame_linked k _).sameStream i)).trans
      ((State.streamField_selects selects).1.sameStream i)
  · rw [State.streamField_stays selects]
    exact s.sameStream_refl i

theorem State.finishClose_sameStream (ne : i ≠ k) (s : State) : s.SameStream i (s.finishClose k) := by
  refine ⟨State.finishClose_streams_ne ne, ?_⟩
  obtain ⟨_, _, _, _, _, e⟩ := s.finishClose_released k
  rw [e]

theorem State.slotsReleased_linked (k : StreamId) (s : State) :
    (s.modStream k (·.modSlots (s.releasableSlots k) Slot.emptied)).LinkedTo (s.slotsReleased k) :=
  State.emptyLoop_linked ..

/-- The slot tests of one stream leave the other (R101). -/
theorem State.releaseStream_sameStream (ne : i ≠ k) (s : State) : s.SameStream i (s.releaseStream k) :=
  ((s.modStream_sameStream ne _).trans ((s.slotsReleased_linked k).sameStream i)).trans (State.finishClose_sameStream ne _)

theorem State.takeLatches_sameStream (i : StreamId) (o : OutputId) (s : State) : s.SameStream i (s.takeLatches o) := by
  have written : s.SameStream i (s.latchesWritten o) := ⟨rfl, rfl⟩
  rw [State.takeLatches_eq]
  exact (written.trans ((completeLatches_linked ..).sameStream i)).trans ((State.reportUnnamed_curated ..).sameStream i)

/-! ## Work that only adds to what a stream did -/

/-- Whether no stream is attached to the surface at an index. -/
def State.Loose (s : State) (idx : Nat) : Prop := ∀ y, s.surfaceAt idx = some y → y.attached = none

/-- Whether work after a stream's slot tests leaves its record and its counters, the hold sets and the detached surfaces, and
takes no notice back. -/
structure State.Follows (i : StreamId) (s t : State) : Prop where
  same : s.SameStream i t
  drawn : ∀ idx, t.drawn idx ↔ s.drawn idx
  notices : s.KeepsNotices t
  served : ∀ p, (s.ports.get p).status = .attached → (s.ports.get p).served (t.ports.get p)
  loose : ∀ idx, s.Loose idx → t.Loose idx

theorem State.follows_refl (i : StreamId) (s : State) : s.Follows i s :=
  ⟨s.sameStream_refl i, fun _ => Iff.rfl, s.keepsNotices_refl, fun _ _ => PortState.served_refl _, fun _ => id⟩

theorem State.Follows.trans (h : s.Follows i t) (h' : t.Follows i u) : s.Follows i u where
  same := h.same.trans h'.same
  drawn idx := (h'.drawn idx).trans (h.drawn idx)
  notices := h.notices.trans h'.notices
  served p attached := (h.served p attached).trans (h'.served p ((h.served p attached).status.trans attached))
  loose idx l := h'.loose idx (h.loose idx l)

theorem State.Loose.of_surfaces (h : s.Loose idx) (surfaces : t.surfaces = s.surfaces) : t.Loose idx := fun y at' =>
  h y (by rw [State.surfaceAt, ← surfaces]; exact at')

theorem State.Loose.of_entry (h : s.Loose idx) (entry : t.surfaces.entries[idx]? = s.surfaces.entries[idx]?) :
    t.Loose idx := fun y at' => h y (by rw [State.surfaceAt, ← entry]; exact at')

theorem State.modSurface_surfaceAt (idx : Nat) (f : Surface → Surface) (s : State) :
    (s.modSurface idx f).surfaceAt idx = (s.surfaceAt idx).map f := by
  unfold State.surfaceAt State.modSurface SurfaceManager.modSurface
  cases at' : s.surfaces.entries[idx]? with
  | none => simp [at']
  | some e =>
    obtain ⟨lt, -⟩ := List.getElem?_eq_some_iff.mp at'
    simp [lt]

/-- A surface that is detached is loose (R106). -/
theorem State.loose_detached (idx : Nat) (s : State) : (s.modSurface idx (fun y => { y with attached := none })).Loose idx := by
  intro y at'
  rw [State.modSurface_surfaceAt] at at'
  obtain ⟨z, -, rfl⟩ := Option.map_eq_some_iff.mp at'
  rfl

theorem State.Loose.detachSlots (h : s.Loose idx) (xs : List Slot) : (detachSlots xs s).Loose idx := by
  refine foldl_keeps (P := fun t => t.Loose idx) (fun t x loose => ?_) xs h
  by_cases e : idx = x.surface.index
  · subst e
    exact t.loose_detached _
  · exact loose.of_entry (State.modSurface_entry_ne e _)

/-- The surfaces that the detached slots name are loose (R106). -/
theorem detachSlots_loose {x : Slot} {xs : List Slot} (mem : x ∈ xs) (s : State) :
    (detachSlots xs s).Loose x.surface.index := by
  obtain ⟨before, after, rfl⟩ := List.append_of_mem mem
  rw [detachSlots, List.foldl_append, List.foldl_cons]
  exact (State.loose_detached _ _).detachSlots after

theorem State.Loose.freeRetired (h : s.Loose idx) : s.freeRetired.Loose idx := by
  rw [State.freeRetired_eq]
  refine foldl_keeps (P := fun t => t.Loose idx) (fun t j loose => ?_) surfaceIndices h
  by_cases e : idx = j
  · subst e
    cases hr : t.retired idx with
    | false => rwa [State.freeIfRetired_kept hr]
    | true =>
      obtain ⟨g, x, entry, free⟩ := State.retired_entry hr
      by_cases hk : x.kind = .fallback
      · rwa [State.freeIfRetired, State.becomeFree_fallback entry hk, ite_self]
      · intro y at'
        rw [State.surfaceAt, State.freeIfRetired_freed entry hk ((State.retired_iff entry).mp hr).1 free] at at'
        cases at'
  · exact loose.of_entry (State.freeIfRetired_entry_ne e)

/-! ## The rest of a field start, from the view of one stream -/

theorem State.releaseStream_follows (ne : i ≠ k) (s : State) : s.Follows i (s.releaseStream k) where
  same := s.releaseStream_sameStream ne
  drawn _ := State.drawn_of_outputs (s.releaseStream_outputs k)
  notices p := (s.releaseStream_serves k p).1
  served p _ := s.releaseStream_serves k p
  loose idx loose := by
    obtain ⟨xs, closed⟩ := State.finishClose_detached k (s.slotsReleased k)
    exact ((loose.of_surfaces (s.slotsReleased_streamed k).surfaces).detachSlots xs).of_surfaces closed.surfaces

/-- The tests after those of the slots (R17, R115, R169). -/
theorem State.testsEnded_follows (i : StreamId) (s : State) : s.Follows i s.freeRetired.drainToIdle.settle := by
  have curated := s.freeRetired_curated.trans s.freeRetired.drainToIdle_curated
  obtain ⟨surfaces, -, outputs, -, -⟩ := s.freeRetired.drained_settled
  refine ⟨(curated.sameStream i).trans ((State.settle_linked _).sameStream i), fun _ => ?_, ?_, fun p attached => ?_,
    fun idx loose => loose.freeRetired.of_surfaces surfaces⟩
  · exact State.drawn_of_outputs (outputs.trans s.freeRetired_outputs)
  · exact (s.keepsNotices_refl.of_ports curated.ports).settle
  · rw [← curated.ports] at attached ⊢
    exact (State.settle_noticed attached).served

theorem State.fallAsleep_follows (i : StreamId) (o : OutputId) (s : State) :
    s.Follows i (s.modOut o OutputState.fallAsleep) := by
  refine ⟨s.modOut_sameStream i o _, fun _ => State.drawn_congr fun k => ?_, s.keepsNotices_refl.modOut _ _,
    fun p _ => PortState.served_refl _, fun _ => id⟩
  by_cases e : k = o
  · subst e
    simp [OutputState.fallAsleep_eq]
  · simp [PerOutput.get_set_ne _ _ _ _ e]

/-- What follows the slot tests of both streams (R75). -/
theorem State.fieldStart_follows (i : StreamId) (o : OutputId) (s : State) :
    (s.fieldFormed o).slotsTested.Follows i (s.fieldStart o) := by
  rw [State.fieldStart_formed, State.reportHoldSets_eq]
  exact (State.testsEnded_follows i _).trans (State.fallAsleep_follows i o _)

theorem State.fieldFormed_sameStream (i : StreamId) (o : OutputId) (s : State) :
    (s.fieldBegun o).SameStream i (s.fieldFormed o) :=
  (State.takeLatches_sameStream i o _).trans (State.modOut_sameStream i o _ _)

theorem State.fieldBegun_fieldFormed_serves (o : OutputId) (s : State) : (s.fieldBegun o).Serves (s.fieldFormed o) :=
  (State.takeLatches_serves o _).trans (State.serves_of_ports rfl)

/-- The state in which the field has begun, before a stream selects (R75). -/
def State.fieldNoticed (o : OutputId) (s : State) : State := ((s.fieldAdvanced o).settleOutput o).fieldNotice o

theorem State.fieldNoticed_sameStream (i : StreamId) (o : OutputId) (s : State) : s.SameStream i (s.fieldNoticed o) := by
  have advanced : s.SameStream i ((s.fieldAdvanced o).modOut o OutputState.settled) := by
    cases o <;> exact ⟨rfl, rfl⟩
  exact advanced.trans (((State.settleOutput_linked o _).trans (State.publish_linked ..)).sameStream i)

theorem State.fieldNoticed_serves (o : OutputId) (s : State) : s.Serves (s.fieldNoticed o) := by
  have told : (s.modOut o OutputState.advance).LeavesLatches (s.fieldNoticed o) :=
    (((State.leavesLatches_refl _).modCounters _).settleOutput o).publish _ _
  exact (State.serves_of_ports (State.modOut_ports ..)).trans told.serves

theorem State.fieldNoticed_drawn (o : OutputId) (s : State) : (s.fieldNoticed o).drawn idx ↔ s.drawn idx := by
  have linked := (State.settleOutput_linked o (s.fieldAdvanced o)).trans
    (State.publish_linked (.fieldStart o) (.fieldStart o (((s.fieldAdvanced o).settleOutput o).outputs.get o).fieldCount) _)
  have outputs : (s.fieldNoticed o).outputs = _ := linked.streamed.outputs
  refine State.drawn_congr fun k => ?_
  rw [outputs]
  by_cases e : k = o
  · subst e
    simp [State.fieldAdvanced, OutputState.settled, OutputState.advance]
  · simp [State.fieldAdvanced, PerOutput.get_set_ne _ _ _ _ e]

/-- A field start, from the view of one stream: the work before it selects, its selection, the work before its slots are
tested, those tests, and the work after (R75). -/
structure State.FieldOf (i : StreamId) (o : OutputId) (s u v t : State) : Prop where
  before : s.SameStream i u
  beforeServes : s.Serves u
  beforeDrawn : ∀ idx, u.drawn idx ↔ s.drawn idx
  between : (u.streamField i o (s.outputs.get o).fieldAdvance).SameStream i v
  betweenServes : (u.streamField i o (s.outputs.get o).fieldAdvance).Serves v
  after : (v.releaseStream i).Follows i t

theorem State.streamField_serves (i : StreamId) (o : OutputId) (advance : Nat) (s : State) :
    s.Serves (s.streamField i o advance) := (s.leavesLatches_refl.streamField i o advance).serves

theorem State.fieldStart_of (i : StreamId) (o : OutputId) (s : State) : ∃ u v, s.FieldOf i o u v (s.fieldStart o) := by
  let w := s.fieldNoticed o
  let n := (s.outputs.get o).fieldAdvance
  have formed := s.fieldFormed_sameStream i o
  have serves := s.fieldBegun_fieldFormed_serves o
  have ends := s.fieldStart_follows i o
  rw [State.fieldBegun_eq] at formed serves
  have noticed := s.fieldNoticed_sameStream i o
  cases i with
  | s0 =>
    exact ⟨w, s.fieldFormed o, noticed, s.fieldNoticed_serves o, fun _ => s.fieldNoticed_drawn o,
      (State.streamField_sameStream (by decide) o n _).trans formed, (State.streamField_serves .s1 o n _).trans serves,
      (State.releaseStream_follows (by decide) _).trans ends⟩
  | s1 =>
    exact ⟨w.streamField .s0 o n, (s.fieldFormed o).releaseStream .s0,
      noticed.trans (State.streamField_sameStream (by decide) o n w),
      (s.fieldNoticed_serves o).trans (w.streamField_serves .s0 o n),
      fun _ => (State.drawn_of_outputs (w.streamField_streamed .s0 o n).outputs).trans (s.fieldNoticed_drawn o),
      formed.trans (State.releaseStream_sameStream (by decide) _), serves.trans (State.releaseStream_serves .s0 _), ends⟩

end Sys2Proof.Machine
end


section
/-! SUPPORT. The tests of a stream's slots (R101, R106): which slots a release test empties, what it tells the owner, and how a
CLOSING stream ends. -/

namespace Sys2Proof.Machine

variable {s t u v : State} {p : Port} {o : OutputId} {i : StreamId} {r : StreamRecord} {x : Slot} {j k advance : Nat}
  {ks : List Nat}

/-! ## The slots that a release test empties (R101) -/

theorem State.mem_releasableSlots (at' : (s.streams.get i).slots[j]? = some x) :
    j ∈ s.releasableSlots i ↔ x.state = .releasing ∧ ¬ s.drawn x.surface.index := by
  rw [← State.drawn_iff]
  simp [State.releasableSlots, List.mem_zipIdx_iff_getElem?, at']

/-- The owner is told of each slot that a loop empties (R102). -/
theorem State.told_emptyLoop (mem : k ∈ ks) (owner : (s.streams.get i).owner = some p) :
    s.told (ks.foldl (fun t k => t.emptySlot i k) s) p (.slotFreed i k) := by
  obtain ⟨before, after, rfl⟩ := List.append_of_mem mem
  rw [List.foldl_append, List.foldl_cons]
  have loop (u : State) (ks : List Nat) : u.LeavesLatches (ks.foldl (fun t k => t.emptySlot i k) u) :=
    u.leavesLatches_refl.foldl (fun _ k h => h.emptySlot i k) ks
  have earlier := loop s before
  have linked := s.emptyLoop_linked i before
  set t := before.foldl (fun t k => t.emptySlot i k) s
  have owned : (t.streams.get i).owner = some p := by
    rw [linked.streams, State.modStream_streams, PerStream.get_set]
    exact owner
  rw [State.emptySlot_owner owned]
  set u := t.modStream i (fun r => r.modSlot k Slot.emptied)
  have later := loop (u.notify p (.slotFreed i k)) after
  exact (State.told_notify p _ u).extend (earlier.ports p).served ((u.leavesLatches_refl.notify p _).ports p).served
    (later.ports p).1 fun _ => (later.ports p).2.1

theorem State.slotsReleased_record (i : StreamId) (s : State) :
    (s.slotsReleased i).streams.get i = (s.streams.get i).modSlots (s.releasableSlots i) Slot.emptied := by
  rw [(s.slotsReleased_linked i).streams]
  exact PerStream.get_set ..

theorem State.drawn_of_tested (follows : (v.releaseStream i).Follows i t) (idx : Nat) : t.drawn idx ↔ v.drawn idx :=
  (follows.drawn idx).trans (State.drawn_of_outputs (v.releaseStream_outputs i))

section
variable (serves : s.Serves v) (follows : (v.releaseStream i).Follows i t)
include serves follows

/-- A slot of a stream is tested once, with the hold sets of the field (R101). -/
theorem State.slotTested_of (owner : (v.streams.get i).owner = (s.streams.get i).owner)
    (at' : (v.streams.get i).slots[j]? = some x) :
    s.SlotTested t i ((v.slotsReleased i).streams.get i).slots j x := by
  rw [State.slotsReleased_record]
  have slot := StreamRecord.modSlots_getElem? (ks := v.releasableSlots i) (g := Slot.emptied) at'
  have drawn := State.drawn_of_tested follows x.surface.index
  refine ⟨fun releasing undrawn => ?_, fun stays => ?_⟩
  · have mem := (State.mem_releasableSlots at').mpr ⟨releasing, mt drawn.mpr undrawn⟩
    rw [if_pos mem] at slot
    refine ⟨slot, fun p owned => ?_⟩
    have told := State.told_emptyLoop mem (owner.trans owned)
    have closes := (v.slotsReleased i).finishClose_serves i p
    refine told.extend (serves p) ((v.releaseSlots_leavesLatches i).ports p).served (closes.1.trans (follows.notices p))
      fun attached => closes.2.1.trans (follows.served p (closes.status.trans attached)).2.1
  · rw [if_neg fun mem => ?_] at slot
    · exact slot
    · obtain ⟨releasing, undrawn⟩ := (State.mem_releasableSlots at').mp mem
      exact stays.elim (· releasing) (mt drawn.mp undrawn)

/-! ## A stream that selects no frame (R101, R106) -/

/-- The end of a CLOSING stream, all of whose slots are EMPTY after their test (R106). -/
theorem State.closed_of (same : v.streams.get i = s.streams.get i) (closing : (s.streams.get i).state = .closing)
    (empty : ∀ x ∈ ((v.slotsReleased i).streams.get i).slots, x.state = .empty) :
    t.streams.get i = (s.streams.get i).closed
      ∧ (∀ x ∈ (s.streams.get i).slots, ∀ y, t.surfaceAt x.surface.index = some y → y.attached = none)
      ∧ ∀ p tag, (s.streams.get i).owner = some p → (s.streams.get i).closeTag = some tag →
          (s.ports.get p).status ≠ .resetting →
          Notice.completion tag 0x36 .ok none (.closed i) ∈ (t.ports.get p).notices := by
  have record := v.slotsReleased_record i
  rw [same] at record
  have closes : ((v.slotsReleased i).streams.get i).state = .closing := by rw [record]; exact closing
  have ends := State.finishClose_linked closes empty
  rw [← State.releaseStream_eq] at ends
  refine ⟨?_, fun x mem => ?_, fun p tag owner closeTag alive => ?_⟩
  · rw [follows.same.1, ends.streams, State.streamClosed_streams, PerStream.get_set, record]
    rfl
  · refine follows.loose _ (State.Loose.of_surfaces ?_ (ends.streamed.surfaces.trans (State.streamClosed_surfaces ..)))
    have named : x.surface ∈ ((v.slotsReleased i).streams.get i).slots.map (·.surface) := by
      rw [record, StreamRecord.modSlots_surfaces (g := Slot.emptied) fun _ => rfl]
      exact List.mem_map_of_mem mem
    obtain ⟨x', mem', surface⟩ := List.mem_map.mp named
    rw [← surface]
    exact detachSlots_loose mem' _
  · refine (follows.notices p).mem ?_
    have completes := State.finishClose_completes closes empty (p := p) (tag := tag) (by rw [record]; exact owner)
      (by rw [record]; exact closeTag)
    have status := ((serves p).trans ((v.releaseSlots_leavesLatches i).ports p).served).trans
      ((v.slotsReleased i).streamClosed_noticed i p).served
    rw [State.releaseStream_eq, completes, State.completeHeld_get (by rw [status.status]; exact alive)]
    exact List.mem_append_right _ (List.mem_singleton_self _)

/-- A stream that selects no frame has its slots tested, and ends its close if that empties them (R101, R106). -/
theorem State.streamTested_of (same : v.streams.get i = s.streams.get i) : s.StreamTested t i := by
  have record := v.slotsReleased_record i
  rw [same] at record
  have tested (j : Nat) (x : Slot) (at' : (s.streams.get i).slots[j]? = some x) :=
    State.slotTested_of serves follows (congrArg StreamRecord.owner same) (same ▸ at')
  refine ⟨fun closing => ?_, fun going => ?_⟩
  · refine ⟨_, ?_, tested, fun full => ?_, State.closed_of serves follows same closing⟩
    · rw [record]
      exact StreamRecord.length_modSlots ..
    · rw [follows.same.1, State.releaseStream_eq, State.finishClose_stays full, record]
      rfl
  · have stays := State.releaseStream_of_ne (same ▸ going)
    rw [follows.same.1, stays]
    refine ⟨?_, ?_, tested⟩
    all_goals rw [record]
    · rfl
    · exact StreamRecord.length_modSlots ..

end

end Sys2Proof.Machine
end


section
/-! SUPPORT. FIELD START at the streams (O44): the slots that a selection shows, passes over and keeps, and the record and the
counters it leaves. -/

namespace Sys2Proof.Machine

variable {s t u v : State} {p : Port} {o : OutputId} {i : StreamId} {r : StreamRecord} {x : Slot} {j k advance : Nat}
  {leave : Slot → Slot}

/-! ## The slots of a selection (R99, R100) -/

section
variable (nodup : (r.ready ++ r.current.toList).Nodup) (last : r.candidates.getLast? = some k)
include nodup last

/-- In a ready list without repeats that does not hold the current slot, the last candidate does not leave. -/
theorem StreamRecord.last_not_passed : k ∉ r.passed := by
  have parts : r.candidates.dropLast ++ [k] = r.candidates := List.dropLast_append_getLast? k last
  have some' : (r.candidates ++ r.current.toList).Sublist (r.ready ++ r.current.toList) :=
    (List.takeWhile_prefix _).sublist.append_right _
  have apart := nodup.sublist some'
  rw [← parts, List.append_assoc, List.singleton_append, List.nodup_middle] at apart
  exact (List.nodup_cons.mp apart).1

/-- The last candidate is CURRENT (R100). -/
theorem StreamRecord.selected_shown (at' : r.slots[k]? = some x) : (r.selected leave).slots[k]? = some x.shown := by
  rw [StreamRecord.selected_getElem? last at', if_neg (StreamRecord.last_not_passed nodup last), if_pos rfl]

/-- The other candidates and the slot that was current leave (R100). -/
theorem StreamRecord.selected_passed (mem : j ∈ r.passed) (at' : r.slots[j]? = some x) :
    (r.selected leave).slots[j]? = some (leave x) := by
  have ne : j ≠ k := fun e => StreamRecord.last_not_passed nodup last (e ▸ mem)
  rw [StreamRecord.selected_getElem? last at', if_pos mem, if_neg ne]

end

/-- A slot leaves only at a selection with a candidate (R100). -/
theorem StreamRecord.mem_passed (left : j ∈ r.candidates.dropLast ∨ (r.candidates ≠ [] ∧ r.current = some j)) :
    ∃ k, r.candidates.getLast? = some k ∧ j ∈ r.passed := by
  have some' : r.candidates ≠ [] := left.elim (fun mem => List.ne_nil_of_mem (List.mem_of_mem_dropLast mem)) And.left
  refine ⟨_, List.getLast?_eq_some_getLast some', List.mem_append.mpr (left.imp_right fun ⟨_, old⟩ => ?_)⟩
  simp [old]

/-- Every other slot is as it was. -/
theorem StreamRecord.selected_kept (out : j ∉ r.candidates) (other : r.candidates = [] ∨ r.current ≠ some j)
    (at' : r.slots[j]? = some x) : (r.selected leave).slots[j]? = some x := by
  cases last : r.candidates.getLast? with
  | none => rwa [StreamRecord.selected_none (List.getLast?_eq_none_iff.mp last)]
  | some k =>
    have mem := List.mem_of_getLast? last
    have ne : j ≠ k := fun e => out (e ▸ mem)
    have stays : j ∉ r.passed := fun left => by
      rcases List.mem_append.mp left with h | h
      · exact out (List.mem_of_mem_dropLast h)
      · exact other.elim (List.ne_nil_of_mem mem) (· (by simpa using h))
    rw [StreamRecord.selected_getElem? last at', if_neg stays, if_neg ne]

/-! ## A stream that selects a frame -/

theorem StreamRecord.clocked_going (selects : r.selects o) : (r.clocked advance).state ≠ .closing := by
  obtain ⟨-, e | e | e⟩ := selects <;> simp [StreamRecord.clocked, e]

theorem State.releaseStream_counters (i : StreamId) (s : State) :
    (s.releaseStream i).counters.stream = s.counters.stream := by
  obtain ⟨_, _, released⟩ := s.slotsReleased_linked i
  obtain ⟨_, _, _, _, _, closed⟩ := (s.slotsReleased i).finishClose_released i
  rw [State.releaseStream_eq, closed, released]
  rfl

/-- The slot tests and what follows them leave the counters of a stream (Table 5-4). -/
theorem State.FieldOf.counters (field : s.FieldOf i o u v t) : t.counters.stream.get i = v.counters.stream.get i := by
  rw [field.after.same.2, State.releaseStream_counters]

/-- The record that the selection starts from (R95, R98). -/
theorem State.FieldOf.clocked (field : s.FieldOf i o u v t) (advance : Nat) :
    (u.modStream i (·.clocked advance)).streams.get i = (s.streams.get i).clocked advance := by
  rw [← field.before.1]
  exact PerStream.get_set ..

section
variable (field : s.FieldOf i o u v t) (selects : (s.streams.get i).selects o)
include field selects

/-- The record and the counters when the slots are tested (R95, R99, R100). -/
theorem State.FieldOf.selected :
    v.streams.get i = ((s.streams.get i).clocked (s.outputs.get o).fieldAdvance).selected u.leaving
      ∧ v.counters.stream.get i =
        selectionCounters ((s.streams.get i).clocked (s.outputs.get o).fieldAdvance) (s.counters.stream.get i) := by
  set advance := (s.outputs.get o).fieldAdvance
  obtain ⟨record, counters⟩ := field.before
  let w := u.modStream i (·.clocked advance)
  have here : w.streams.get i = (s.streams.get i).clocked advance := field.clocked advance
  have linked := (w.selectFrame_linked i).trans (State.streamField_selects (record.symm ▸ selects)).1
  obtain ⟨record', counters'⟩ := (linked.sameStream i).trans field.between
  refine ⟨record'.trans ?_, counters'.trans ?_⟩
  · rw [State.modStream_streams, PerStream.get_set, ← here]
    rfl
  · rw [← here, ← counters]
    exact PerStream.get_set ..

/-- The record after the tests of the slots (R101). -/
theorem State.FieldOf.record : t.streams.get i =
    (((s.streams.get i).clocked (s.outputs.get o).fieldAdvance).selected u.leaving).modSlots (v.releasableSlots i)
      Slot.emptied := by
  obtain ⟨record, -⟩ := field.selected selects
  have going : (v.streams.get i).state ≠ .closing := by
    rw [record, StreamRecord.selected_eq]
    exact StreamRecord.clocked_going (advance := (s.outputs.get o).fieldAdvance) selects
  rw [field.after.same.1, State.releaseStream_of_ne going, State.slotsReleased_record, record]

/-- A slot that the selection left with some state and stamp has its test (R101). -/
theorem State.FieldOf.slotTested
    (at' : (((s.streams.get i).clocked (s.outputs.get o).fieldAdvance).selected u.leaving).slots[j]? = some x) :
    s.SlotTested t i (t.streams.get i).slots j x := by
  obtain ⟨record, -⟩ := field.selected selects
  have owner : (v.streams.get i).owner = (s.streams.get i).owner := by
    rw [record, StreamRecord.selected_eq]
    rfl
  have serves : s.Serves v := (field.beforeServes.trans (u.streamField_serves i o _)).trans field.betweenServes
  have tested := State.slotTested_of serves field.after owner (record ▸ at')
  rwa [State.slotsReleased_record, record, ← field.record selects] at tested

/-- A slot that the selection did not leave RELEASING stays so. -/
theorem State.FieldOf.slot_stays
    (at' : (((s.streams.get i).clocked (s.outputs.get o).fieldAdvance).selected u.leaving).slots[j]? = some x)
    (stays : x.state ≠ .releasing ∨ t.drawn x.surface.index) : (t.streams.get i).slots[j]? = some x :=
  (field.slotTested selects at').2 stays

end

section
variable (field : s.FieldOf i o u v t) (selects : (s.streams.get i).selects o)
  (last : ((s.streams.get i).clocked (s.outputs.get o).fieldAdvance).candidates.getLast? = some k)
  (mem : j ∈ ((s.streams.get i).clocked (s.outputs.get o).fieldAdvance).passed)
  (at' : (s.streams.get i).slots[j]? = some x)
include field selects last mem at'

/-- The owner is told of a slot that leaves at the selection and that no hold set named (R102). -/
theorem State.FieldOf.told_passed (unheld : ¬ s.drawn x.surface.index) (owner : (s.streams.get i).owner = some p) :
    s.told t p (.slotFreed i j) := by
  set advance := (s.outputs.get o).fieldAdvance
  obtain ⟨record, -⟩ := field.before
  let w := u.modStream i (·.clocked advance)
  have here : w.streams.get i = (s.streams.get i).clocked advance := field.clocked advance
  have told : w.told (w.selectFrame i) p (.slotFreed i j) :=
    State.told_selectFrame (by rw [here]; exact last) (by rw [here]; exact mem) (by rw [here]; exact at')
      (mt (field.beforeDrawn _).mp unheld) (by rw [here]; exact owner)
  have selecting : w.Serves (w.selectFrame i) := (w.leavesLatches_refl.selectFrame i).serves
  have selected : (w.selectFrame i).Serves (v.releaseStream i) :=
    ((State.streamField_selects (record.symm ▸ selects)).2.serves.trans field.betweenServes).trans (v.releaseStream_serves i)
  exact told.extend (field.beforeServes p) (selecting p) ((selected p).1.trans (field.after.notices p)) fun attached =>
    (selected p).2.1.trans (field.after.served p ((selected p).status.trans attached)).2.1

/-- A slot that leaves is RELEASING while the hold sets name it before and after, and EMPTY otherwise, with SLOT FREED (R89,
R101, R102). -/
theorem State.FieldOf.slot_passed (nodup : ((s.streams.get i).ready ++ (s.streams.get i).current.toList).Nodup) :
    (s.drawn x.surface.index → t.drawn x.surface.index →
        (t.streams.get i).slots[j]? = some { x with state := .releasing, stamp := none })
      ∧ (¬ s.drawn x.surface.index ∨ ¬ t.drawn x.surface.index → (t.streams.get i).slots[j]? = some x.emptied
          ∧ ∀ p, (s.streams.get i).owner = some p → s.told t p (.slotFreed i j)) := by
  have left := StreamRecord.selected_passed (r := (s.streams.get i).clocked (s.outputs.get o).fieldAdvance)
    (leave := u.leaving) nodup last mem at'
  by_cases held : s.drawn x.surface.index
  · rw [State.leaving_held ((field.beforeDrawn _).mpr held)] at left
    refine ⟨fun _ drawn => field.slot_stays selects left (.inr drawn), fun undrawn => ?_⟩
    exact (field.slotTested selects left).1 rfl (undrawn.resolve_left (not_not_intro held))
  · rw [State.leaving_unheld (mt (field.beforeDrawn _).mp held)] at left
    refine ⟨fun h => absurd h held, fun _ => ⟨field.slot_stays selects left (.inl SlotState.noConfusion), fun p owner => ?_⟩⟩
    exact field.told_passed selects last mem at' held owner

end

/-- A stream that selects no frame (R95, R98). -/
theorem State.FieldOf.idle (field : s.FieldOf i o u v t) (idle : ¬ (s.streams.get i).selects o) :
    t.counters.stream.get i = s.counters.stream.get i ∧ s.StreamTested t i := by
  have still : u.streamField i o (s.outputs.get o).fieldAdvance = u :=
    State.streamField_stays (by rw [field.before.1]; exact idle)
  have between := field.between
  have serves := field.betweenServes
  rw [still] at between serves
  obtain ⟨record, counters⟩ := field.before.trans between
  exact ⟨field.counters.trans counters, State.streamTested_of (field.beforeServes.trans serves) field.after record⟩

/-- The counters of a selection with their cases (Table 5-4). -/
theorem selectionCounters_eq (r : StreamRecord) (k : StreamCounters) : selectionCounters r k =
    { shown := if r.candidates = [] then k.shown else satSucc k.shown
      dropped := satAdd k.dropped (r.candidates.length - 1)
      repeated := if r.candidates = [] ∧ r.current ≠ none then satSucc k.repeated else k.repeated
      starved := if r.ready = [] then satSucc k.starved else k.starved } := by
  simp only [selectionCounters, List.length_eq_zero_iff, List.isEmpty_iff, List.length_pos_iff, ite_not,
    Option.isSome_iff_ne_none]

/-- Settles O44: the stream's clock moves and a frame is selected before the sets are formed, and its slots are tested after;
the other work of the field start leaves the stream as it is. -/
theorem streamSelection : Obligations.StreamSelection := by
  intro s o i awake on running
  refine ⟨s.fieldStart o, execFieldStart_running awake on running, ?_⟩
  intro q r r' k advance selects clock stamp due run freed emptied
  obtain ⟨u, v, field⟩ := s.fieldStart_of i o
  refine ⟨fun idle => field.idle idle, fun selects => ?_⟩
  have candidates : (r.clocked advance).candidates = run := by
    refine congrArg (List.takeWhile · r.ready) (funext fun j => ?_)
    show ((r.stampOf j).map (fun x => atOrBefore x clock)).getD false = due j
    simp only [due, stamp, StreamRecord.stampOf]
    cases (r.slots[j]?).bind (·.stamp) <;> rfl
  have record : r' = ((r.clocked advance).selected u.leaving).modSlots (v.releasableSlots i) Slot.emptied :=
    field.record selects
  refine ⟨?_, ?_, ?_, fun nodup => ⟨fun j x last at' => ?_, fun j x passed at' => ?_, fun j x out other at' => ?_⟩⟩
  · rw [record, StreamRecord.selected_eq, candidates]
    rfl
  · rw [record, StreamRecord.modSlots_surfaces (g := Slot.emptied) fun _ => rfl,
      StreamRecord.selected_surfaces u.leaving_surface]
    rfl
  · rw [field.counters, (field.selected selects).2, selectionCounters_eq, ← candidates]
    rfl
  · rw [← candidates] at last
    exact field.slot_stays selects
      (StreamRecord.selected_shown (r := r.clocked advance) (leave := u.leaving) nodup last at') (.inl SlotState.noConfusion)
  · rw [← candidates] at passed
    obtain ⟨k, last, mem⟩ := StreamRecord.mem_passed (r := r.clocked advance) passed
    exact field.slot_passed selects last mem at' nodup
  · rw [← candidates] at out other
    exact field.slotTested selects (StreamRecord.selected_kept (r := r.clocked advance) out other at')

end Sys2Proof.Machine
end

section
/-! SUPPORT. LOAD POSTER by its owning block (R117 to R119): the waiter that joins an entry of the load queue, a hit on a surface
of the map, and the directory's answer. -/

namespace Sys2Proof.Machine

variable {s u : State} {p : Port} {f : Frame} {rest : List Frame} {title : Nat} {m : MapEntry} {h : Handle} {x : Surface}
  {why : PlaceholderReason}

/-- The title of a payload that holds nothing else (Table 10-10). -/
theorem u16_b16 {n : Nat} (h : n < 65536) : u16 (b16 n) 0 = n := by
  simp only [u16, u8, b16, List.getD_cons_zero, List.getD_cons_succ, toNat_byte]
  omega

/-! ## Entries of the load queue (R119, R127) -/

/-- A LOAD POSTER may join an entry of its title whose surface was not removed (R117). -/
theorem LoadEntry.joinable_iff {e : LoadEntry} : e.joinable title = true ↔ e.title = title ∧ e.removed = false := by
  simp [LoadEntry.joinable]

theorem LoadEntry.not_joinable_iff {e : LoadEntry} : ¬ e.joinable title = true ↔ e.title ≠ title ∨ e.removed = true := by
  rw [LoadEntry.joinable_iff, not_and_or, Bool.not_eq_false]

/-- The waiter joins the first entry that may be joined (R119). -/
theorem joinQueue_first {e : LoadEntry} {before after : List LoadEntry} (w : Waiter) (joins : e.joinable title = true)
    (first : ∀ d ∈ before, ¬ d.joinable title = true) :
    joinQueue title w (before ++ e :: after) = before ++ { e with waiters := e.waiters ++ [w] } :: after := by
  induction before with
  | nil => exact if_pos joins
  | cons d before ih =>
    obtain ⟨here, later⟩ := List.forall_mem_cons.mp first
    exact (if_neg here).trans (congrArg (d :: ·) (ih later))

/-- A LOAD POSTER just taken that waits in the load queue as `q` has it: its entry of the in-flight table, and the miss (R119,
R131). -/
def State.loadWaits (s : State) (p : Port) (f : Frame) (rest : List Frame) (q : List LoadEntry) : State :=
  { s.dispatched p f rest with
    cache := { s.cache with queue := q }
    counters := { s.counters with
      posters := { s.counters.posters with misses := satSucc s.counters.posters.misses } } }

theorem State.joinLoad_taken : (s.dequeued p rest).joinLoad p f title =
    s.loadWaits p f rest (joinQueue title ⟨p, f.tag⟩ s.cache.queue) := by
  rw [State.joinLoad, State.dequeued, State.enter_taken]
  rfl

theorem State.newLoad_taken : (s.dequeued p rest).newLoad p f title =
    s.loadWaits p f rest (s.cache.queue ++ [⟨title, [⟨p, f.tag⟩], false⟩]) := by
  rw [State.newLoad, State.dequeued, State.enter_taken]
  rfl

/-! ## The cases of R117 -/

theorem loadPoster_fault (fault : u.errors.fault = true) : loadPoster p f u = u.complete p f .fault .none := by
  simp only [loadPoster, fault, if_true]

section
variable (payload : u16 f.payload 0 = title)
include payload

variable (sound : u.errors.fault = false)
include sound

theorem loadPoster_hit (found : u.cache.map.find? (fun m => m.title == title) = some m) :
    loadPoster p f u = u.posterHit p f title m.surface := by
  simp [loadPoster, payload, sound, found]

variable (absent : ∀ m ∈ u.cache.map, m.title ≠ title)
include absent

/-- A title out of the map (R117 steps 3 to 6). -/
theorem loadPoster_absent : loadPoster p f u =
    if u.cache.queue.any (fun e => e.joinable title) then u.joinLoad p f title
    else if u.cache.reload.isSome then u.queueLoad p f title
    else
      match u.cache.lookup title with
      | .error r => u.completePlaceholder p f r (.poster ⟨0, 0⟩ title none)
      | .ok _ => u.queueLoad p f title := by
  have none' : u.cache.map.find? (fun m => m.title == title) = none := by simpa using absent
  simp only [loadPoster, payload, sound, none']
  rfl

theorem loadPoster_joins {d : LoadEntry} (mem : d ∈ u.cache.queue) (joins : d.joinable title = true) :
    loadPoster p f u = u.joinLoad p f title := by
  rw [loadPoster_absent payload sound absent, if_pos (List.any_eq_true.mpr ⟨d, mem, joins⟩)]

variable (apart : ∀ d ∈ u.cache.queue, ¬ d.joinable title = true)
include apart

theorem loadPoster_placeholder (still : u.cache.reload = none) (refused : u.cache.lookup title = .error why) :
    loadPoster p f u = u.completePlaceholder p f why (.poster ⟨0, 0⟩ title none) := by
  rw [loadPoster_absent payload sound absent, if_neg (by simpa using apart)]
  simp only [still, refused]
  rfl

theorem loadPoster_queues (listed : u.cache.reload ≠ none ∨ ∃ r, u.cache.lookup title = .ok r) :
    loadPoster p f u = u.queueLoad p f title := by
  rw [loadPoster_absent payload sound absent, if_neg (by simpa using apart)]
  split
  · rfl
  · next still =>
    obtain ⟨r, ok⟩ := listed.resolve_left (by simpa using still)
    simp only [ok]

end

/-! ## The directory (R117 step 4) -/

section
variable {c : PosterCache} {d : List DirRecord} {r : DirRecord}

theorem PosterCache.lookup_noDirectory (none' : c.directory = none) : c.lookup title = .error .noDirectory := by
  simp only [PosterCache.lookup, none']

variable (has : c.directory = some d)
include has

theorem PosterCache.lookup_unknown (unlisted : ∀ r ∈ d, r.title ≠ title) : c.lookup title = .error .unknownTitle := by
  have none' : d.find? (fun r => r.title == title) = none := by simpa using unlisted
  simp only [PosterCache.lookup, has, none']

variable (found : d.find? (fun r => r.title == title) = some r)
include found

theorem PosterCache.lookup_bad (bad : r.bad = true) : c.lookup title = .error .badImage := by
  simp only [PosterCache.lookup, has, found, bad, if_true]

theorem PosterCache.lookup_ok (good : r.bad = false) : c.lookup title = .ok r := by
  simp [PosterCache.lookup, has, found, good]

end

/-! ## A hit (R118) -/

section
variable (hr : u.resolve h = some x)
include hr

theorem State.posterHit_loading (loading : x.state = .loading) :
    u.posterHit p f title h.index = u.joinLoad p f title := by
  simp only [State.posterHit, State.surfaceAt_of_resolve hr, loading, if_true]

theorem State.posterHit_refLimit (done : x.state ≠ .loading) (full : 255 ≤ x.refs.get p) :
    u.posterHit p f title h.index = u.complete p f .refLimit .none := by
  simp only [State.posterHit, State.surfaceAt_of_resolve hr, done, full, if_true, if_false]

/-- What a LOAD POSTER that gives a real poster reports (Section 6.3). -/
theorem State.posterResult_of_resolve :
    u.posterResult h.index title = .poster h title (some (x.width, x.height, x.format)) := by
  simp [State.posterResult, State.handleOf, State.surfaceAt, State.resolve_eq_some.mp hr]

/-- A surface whose entry was set to another one of its generation. -/
theorem State.resolve_of_set {t : State} {y : Surface}
    (table : t.surfaces.entries = u.surfaces.entries.set h.index ⟨h.gen, some y⟩) : t.resolve h = some y := by
  obtain ⟨lt, -⟩ := List.getElem?_eq_some_iff.mp (State.resolve_eq_some.mp hr)
  simp [State.resolve_eq_some, table, lt]

/-- A hit raises the port's count, takes the surface off the idle list and answers with its handle and size. -/
theorem State.posterHit_counts (done : x.state ≠ .loading) (room : x.refs.get p < 255) : u.posterHit p f title h.index =
    State.complete p f .ok (.poster h title (some (x.width, x.height, x.format)))
      { u with
        surfaces := { u.surfaces with
          entries := u.surfaces.entries.set h.index
            ⟨h.gen, some { x with refs := x.refs.set p (x.refs.get p + 1) }⟩ }
        cache := { u.cache with idle := u.cache.idle.erase h.index }
        counters := { u.counters with
          posters := { u.counters.posters with hits := satSucc u.counters.posters.hits } } } := by
  simp only [State.posterHit, State.surfaceAt_of_resolve hr, done, Nat.not_le.mpr room, if_false,
    State.modSurface_of_resolve hr]
  rw [State.posterResult_of_resolve (State.resolve_of_set hr rfl)]
  rfl

end

/-- Settles O53: the cases of R117 in their order, each read off the block's own test. -/
theorem loadPosterTaken : Obligations.LoadPosterTaken := by
  intro s p f rest title takes small payload placeholder counted pc queued joins
  have field : u16 f.payload 0 = title := payload ▸ u16_b16 small
  have run {t : State} (own : loadPoster p f (s.dequeued p rest) = t) : exec (.loadPoster p) s = .next t :=
    congrArg Host.Outcome.next ((takes.taking (loadPoster p)).trans own)
  have answers {st : Status} (own : loadPoster p f (s.dequeued p rest) = (s.dequeued p rest).complete p f st .none) :
      exec (.loadPoster p) s = .next (s.answered p f rest st .none) := congrArg Host.Outcome.next (takes.answers own)
  have holds {why : PlaceholderReason} (own : loadPoster p f (s.dequeued p rest)
      = (s.dequeued p rest).completePlaceholder p f why (.poster ⟨0, 0⟩ title none)) : placeholder why :=
    run (own.trans (State.completePlaceholder_taken _ _ takes.ne_resetting))
  have joined (own : ∀ d ∈ s.cache.queue, d.joinable title = true →
      loadPoster p f (s.dequeued p rest) = (s.dequeued p rest).joinLoad p f title) : joins := by
    intro before e after split same stays first
    have joinable := LoadEntry.joinable_iff.mpr ⟨same, stays⟩
    refine run ((own e (by simp [split]) joinable).trans (State.joinLoad_taken.trans ?_))
    rw [split, joinQueue_first _ joinable fun d mem => LoadEntry.not_joinable_iff.mpr (first d mem)]
    rfl
  refine ⟨fun fault => answers (loadPoster_fault fault), fun sound => ⟨fun m e x found entry body => ?_, fun absent => ?_⟩⟩
  · obtain ⟨g, b⟩ := e
    obtain rfl : b = some x := body
    have hr : (s.dequeued p rest).resolve ⟨m.surface, g⟩ = some x := State.resolve_eq_some.mpr entry
    have hit : loadPoster p f (s.dequeued p rest) = (s.dequeued p rest).posterHit p f title m.surface :=
      loadPoster_hit field sound found
    refine ⟨fun loading => joined fun _ _ _ => hit.trans (State.posterHit_loading hr loading),
      fun done full => answers (hit.trans (State.posterHit_refLimit hr done full)), fun done room => ?_⟩
    exact congrArg Host.Outcome.next (takes.completes (hit.trans (State.posterHit_counts hr done room)) rfl)
  · refine ⟨joined fun d mem joins => loadPoster_joins field sound absent mem joins, fun apart => ?_⟩
    have apart' : ∀ d ∈ (s.dequeued p rest).cache.queue, ¬ d.joinable title = true :=
      fun d mem => LoadEntry.not_joinable_iff.mpr (apart d mem)
    refine ⟨fun still => ⟨fun none' => ?_, fun d has => ⟨fun unlisted => ?_, fun r found bad => ?_⟩⟩, fun listed => ?_⟩
    · exact holds (loadPoster_placeholder field sound absent apart' still (PosterCache.lookup_noDirectory none'))
    · exact holds (loadPoster_placeholder field sound absent apart' still (PosterCache.lookup_unknown has unlisted))
    · exact holds (loadPoster_placeholder field sound absent apart' still (PosterCache.lookup_bad has found bad))
    · have queues : loadPoster p f (s.dequeued p rest) = (s.dequeued p rest).queueLoad p f title :=
        loadPoster_queues field sound absent apart' (listed.imp_right fun ⟨d, r, has, found, good⟩ =>
          ⟨r, PosterCache.lookup_ok has found good⟩)
      exact ⟨fun full => holds (queues.trans (if_pos full)),
        fun room => run (queues.trans ((if_neg (Nat.not_le.mpr room)).trans State.newLoad_taken))⟩

end Sys2Proof.Machine
end

section
/-! SUPPORT. RELEASE POSTER and QUERY POSTER by their owning block (R124, R125): the checks of a release, the condition it reports
of the surface it leaves, and the figures of a query. -/

namespace Sys2Proof.Machine

variable {s t u : State} {p : Port} {f : Frame} {rest : List Frame} {h : Handle} {x y : Surface} {title : Nat}

/-! ## The condition of a poster (R124, Table 10-8) -/

section
variable (hr : u.resolve h = some y)
include hr

/-- The handle that resolves to an entry is the one the entry answers to (R6). -/
theorem State.handleOf_of_resolve : u.handleOf h.index = h := by simp [State.handleOf, State.resolve_eq_some.mp hr]

theorem State.surfaceStateOf_of_resolve : u.surfaceStateOf h.index = some y.state := by
  simp [State.surfaceStateOf, State.surfaceAt_of_resolve hr]

theorem State.posterCondition_retiring (retiring : y.state = .retiring) : u.posterCondition h.index = .retiring := by
  simp only [State.posterCondition, State.surfaceStateOf_of_resolve hr, retiring]

theorem State.posterCondition_alive (alive : y.state ≠ .retiring) : u.posterCondition h.index =
    if u.pinned h.index then .pinned else if u.cache.idle.contains h.index then .idle else .draining := by
  rw [State.posterCondition, State.surfaceStateOf_of_resolve hr]
  cases e : y.state <;> first | rfl | exact absurd e alive

end

theorem State.posterCondition_freed (none' : u.surfaceAt h.index = none) : u.posterCondition h.index = .freed := by
  simp only [State.posterCondition, State.surfaceStateOf, none', Option.map_none]

/-! ## RELEASE POSTER (R124) -/

/-- A surface after a port's count on it fell by 1. -/
def Surface.released (x : Surface) (p : Port) : Surface := { x with refs := x.refs.set p (x.refs.get p - 1) }

/-- The state in which the entry of a handle holds a surface, and nothing else has changed. -/
def State.withSurface (s : State) (h : Handle) (x : Surface) : State :=
  { s with surfaces := { s.surfaces with entries := s.surfaces.entries.set h.index ⟨h.gen, some x⟩ } }

theorem State.resolve_withSurface (hr : u.resolve h = some x) (y : Surface) : (u.withSurface h y).resolve h = some y :=
  State.resolve_of_set hr rfl

section
variable (field : handleAt f.payload 0 = h)
include field

theorem releasePoster_badHandle (unresolved : u.resolve h = none) :
    releasePoster p f u = u.complete p f .badHandle .none := by
  simp only [releasePoster, field, unresolved]

variable (hr : u.resolve h = some x)
include hr

theorem releasePoster_fallback (zero : h.index = 0) : releasePoster p f u = u.complete p f .ok .none := by
  simp only [releasePoster, field, hr, zero, if_true]

variable (pos : h.index ≠ 0)
include pos

theorem releasePoster_notOwner (foreign : x.kind ≠ .poster ∨ x.refs.get p = 0) :
    releasePoster p f u = u.complete p f .notOwner .none := by
  simp only [releasePoster, field, hr, pos, foreign, if_true, if_false]

/-- An accepted release lowers the count, acts on a surface that becomes unpinned, and reports both. -/
theorem releasePoster_accepted (poster : x.kind = .poster) (counts : x.refs.get p ≠ 0)
    (left : (u.withSurface h (x.released p)).unpinEvent h.index = t) :
    releasePoster p f u = t.complete p f .ok (.released (x.refs.get p - 1) (t.posterCondition h.index)) := by
  have own : ¬ (x.kind ≠ .poster ∨ x.refs.get p = 0) := by simp [poster, counts]
  simp only [releasePoster, field, hr, pos, own, if_false, State.modSurface_of_resolve hr]
  rw [← left]
  rfl

end

/-- An accepted release at the head of the queue, by the state that the unpinning leaves and the condition it reports. -/
theorem Takes.releases {c : PosterCondition} (takes : Takes s p .releasePoster f rest) (field : handleAt f.payload 0 = h)
    (hr : s.resolve h = some x) (pos : h.index ≠ 0) (poster : x.kind = .poster) (counts : x.refs.get p ≠ 0)
    (left : ((s.dequeued p rest).withSurface h (x.released p)).unpinEvent h.index = t)
    (ports : t.ports = (s.dequeued p rest).ports) (condition : t.posterCondition h.index = c) :
    exec (.releasePoster p) s =
      .next { t with ports := (s.answered p f rest .ok (.released (x.refs.get p - 1) c)).ports } := by
  have own := releasePoster_accepted (u := s.dequeued p rest) field hr pos poster counts left
  rw [condition] at own
  exact congrArg Host.Outcome.next (takes.completes own ports)

/-! ## A stale poster that is given back (R114, R20) -/

theorem State.CuratedTo.eq (c : s.CuratedTo t) :
    t = { s with surfaces := t.surfaces, layers := t.layers, cache := t.cache } := by
  obtain ⟨_, _, _, rfl⟩ := c
  rfl

section
variable (hr : u.resolve h = some x) (poster : x.kind = .poster) (resident : x.state = .resident)
include hr poster resident

theorem State.unpinEvent_resident_mapped (unpinned : u.pinned h.index = false) (inMap : ∃ m ∈ u.cache.map, m.surface = h.index) :
    u.unpinEvent h.index = if u.inHoldSets h.index then u else u.joinIdle h.index := by
  rw [State.unpinEvent_of_resolve hr poster unpinned, if_pos resident, if_pos (State.inMap_iff.mpr inMap)]

theorem State.unpinEvent_stale (unpinned : u.pinned h.index = false) (unmapped : ¬ ∃ m ∈ u.cache.map, m.surface = h.index)
    (stale : h.index ∈ u.cache.stale) : u.unpinEvent h.index =
      (u.modCache (fun c => { c with stale := c.stale.erase h.index })).retireOrFree h.index := by
  rw [State.unpinEvent_of_resolve hr poster unpinned, if_pos resident, if_neg (mt State.inMap_iff.mp unmapped),
    if_pos stale]
  exact State.freePoster_resident (s := u.modCache _) hr poster resident

end

/-! ## QUERY POSTER (R125) -/

section
variable {m : MapEntry}

/-- The query of a title in the map whose surface is there. -/
theorem State.posterReport_mapped (found : s.cache.map.find? (fun m => m.title == title) = some m) {g : Byte}
    (hr : s.resolve ⟨m.surface, g⟩ = some x) :
    (s.posterReport p title).handle = some ⟨m.surface, g⟩
    ∧ (s.posterReport p title).condition = (if x.state = .loading then .loading else .resident)
    ∧ (s.posterReport p title).resident =
        (if x.state = .loading then none else some (x.refs.get p, s.cache.idle.contains m.surface)) := by
  have state : s.surfaceStateOf m.surface = some x.state := State.surfaceStateOf_of_resolve hr
  have at' : s.surfaceAt m.surface = some x := State.surfaceAt_of_resolve hr
  have handle : s.handleOf m.surface = ⟨m.surface, g⟩ := State.handleOf_of_resolve hr
  by_cases loading : x.state = .loading <;> simp [State.posterReport, found, state, at', handle, loading]

/-- The query of a title out of the map. -/
theorem State.posterReport_absent (absent : ∀ m ∈ s.cache.map, m.title ≠ title) :
    (s.posterReport p title).handle = none ∧ (s.posterReport p title).resident = none
    ∧ (s.posterReport p title).condition =
        (if s.cache.queue.any (fun e => e.joinable title) then .queued else .absent) := by
  have none' : s.cache.map.find? (fun m => m.title == title) = none := by simpa using absent
  simp only [State.posterReport, none', Option.map_none, and_self]

/-- What a query says of the directory and of the title's record. -/
theorem State.posterReport_directory (p : Port) (title : Nat) (s : State) :
    ((s.posterReport p title).hasDirectory = true ↔ s.cache.directory ≠ none)
    ∧ ((s.posterReport p title).listed = true ↔ ∃ d, s.cache.directory = some d ∧ ∃ e ∈ d, e.title = title)
    ∧ ∀ d e, s.cache.directory = some d → d.find? (fun e => e.title == title) = some e →
        (s.posterReport p title).bad = e.bad := by
  simp only [State.posterReport]
  cases s.cache.directory with
  | none => simp
  | some d => exact ⟨by simp, by simp, fun d' e has found => by cases has; simp [found]⟩

end

/-- Settles O54: a release goes through the checks of R124 and the unpinning of R114; a query only reads. -/
theorem releaseAndQueryPosterTaken : Obligations.ReleaseAndQueryPosterTaken := by
  refine ⟨fun s p f rest idx g takes small payload => ?_, fun s p f rest title takes small payload => ?_⟩
  · intro refused h
    have field : handleAt f.payload 0 = h := by rw [payload]; exact handleAt_cons small g []
    have answers {st : Status} (own : releasePoster p f (s.dequeued p rest) = (s.dequeued p rest).complete p f st .none) :
        refused st := congrArg Host.Outcome.next (takes.answers own)
    refine ⟨fun unresolved => answers (releasePoster_badHandle field unresolved), fun x hr => ?_⟩
    have hr' : (s.dequeued p rest).resolve h = some x := hr
    refine ⟨fun zero => answers (releasePoster_fallback field hr' zero),
      fun pos foreign => answers (releasePoster_notOwner field hr' pos foreign), fun pos poster counts => ?_⟩
    intro x' pinned inHold inMap released
    let v := (s.dequeued p rest).withSurface h (x.released p)
    have hv : v.resolve h = some x' := State.resolve_withSurface hr' _
    have ends {t : State} {c : PosterCondition} (left : v.unpinEvent h.index = t) (ports : t.ports = (s.dequeued p rest).ports)
        (condition : t.posterCondition h.index = c) := takes.releases field hr pos poster counts left ports condition
    have pinned_iff : v.pinned idx = true ↔ pinned := State.pinned_iff hv
    have unpinned (loose : ¬ pinned) : v.pinned idx = false := Bool.eq_false_iff.mpr (mt pinned_iff.mp loose)
    refine ⟨fun alive isPinned => ?_, fun resident loose mapped fresh => ⟨fun unheld => ?_, fun held => ?_⟩,
      fun resident loose unmapped stale free => ?_⟩
    · refine ends (State.unpinEvent_pinned (pinned_iff.mpr isPinned)) rfl ?_
      rw [State.posterCondition_alive hv alive, if_pos (pinned_iff.mpr isPinned)]
    · have fresh' : idx ∉ v.cache.idle := fresh
      have left := State.unpinEvent_resident_mapped hv poster resident (unpinned loose) mapped
      replace left := left.trans (if_neg (mt State.drawn_iff.mp unheld))
      have joined : v.joinIdle idx = v.modCache (fun c => { c with idle := c.idle ++ [idx] }) := by
        have apart : v.cache.idle.contains idx = false := by simpa using fresh'
        simp only [State.joinIdle, State.modCache, apart]
        rfl
      refine ends (left.trans joined) rfl ?_
      have hj : (v.modCache (fun c => { c with idle := c.idle ++ [idx] })).resolve h = some x' := hv
      rw [State.posterCondition_alive hj (by simp [x', resident]), if_neg, if_pos (by simp [h])]
      exact Bool.eq_false_iff.mp (unpinned loose)
    · have fresh' : idx ∉ v.cache.idle := fresh
      have left := State.unpinEvent_resident_mapped hv poster resident (unpinned loose) mapped
      replace left := left.trans (if_pos (State.drawn_iff.mpr held))
      refine ends left rfl ?_
      rw [State.posterCondition_alive hv (by simp [x', resident]), if_neg (Bool.eq_false_iff.mp (unpinned loose)),
        if_neg (by simpa using fresh')]
    · have left := State.unpinEvent_stale hv poster resident (unpinned loose) unmapped stale
      intro cache counted
      have hw : (v.modCache (fun c => { c with stale := c.stale.erase idx })).resolve h = some x' := hv
      have given := State.retireOrFree_givenBack hw (by simp [x', poster])
      refine ⟨fun held => ?_, fun unheld => ?_⟩
      · have retired := State.retireOrFree_held hw free held
        have table : v.surfaces.entries.set idx ⟨g, some { x' with state := .retiring }⟩
            = s.surfaces.entries.set idx ⟨g, some { x' with state := .retiring }⟩ := List.set_set ..
        rw [show (v.modCache _).surfaces.entries = v.surfaces.entries from rfl, table] at retired
        exact ends (left.trans retired) rfl (State.posterCondition_retiring (State.resolve_of_set hr rfl) rfl)
      · obtain ⟨surfaces, -⟩ := given.2 unheld free
        have gone : (State.retireOrFree idx (v.modCache (fun c => { c with stale := c.stale.erase idx }))).surfaceAt idx
            = none := surfaceAt_of_set (State.resolve_eq_some.mp hw) (by rw [surfaces]; rfl)
        have curated := State.retireOrFree_curated idx (v.modCache (fun c => { c with stale := c.stale.erase idx }))
        refine ⟨_, ends left (curated.ports) (State.posterCondition_freed (h := h) gone), ?_, given⟩
        rw [curated.eq, State.retireOrFree_cache]
        rfl
  · have field : u16 f.payload 0 = title := payload ▸ u16_b16 small
    have taken : exec (.queryPoster p) s = .next (s.answered p f rest .ok (.posterQuery (s.posterReport p title))) := by
      refine congrArg Host.Outcome.next (takes.answers ?_)
      rw [queryPoster, field]
      rfl
    obtain ⟨has, listed, bad⟩ := State.posterReport_directory p title s
    refine ⟨s.posterReport p title, taken, has, listed, bad, fun m e x found entry body => ?_, fun absent => ?_⟩
    · obtain ⟨g, b⟩ := e
      obtain rfl : b = some x := body
      obtain ⟨handle, condition, resident⟩ := State.posterReport_mapped (p := p) found (State.resolve_eq_some.mpr entry)
      exact ⟨handle, fun loading => ⟨condition.trans (if_pos loading), resident.trans (if_pos loading)⟩,
        fun done => ⟨condition.trans (if_neg done), resident.trans (if_neg done)⟩⟩
    · obtain ⟨handle, resident, condition⟩ := State.posterReport_absent (p := p) absent
      refine ⟨handle, resident, fun ⟨e, mem, joins⟩ => condition.trans (if_pos ?_), fun apart => condition.trans (if_neg ?_)⟩
      · exact List.any_eq_true.mpr ⟨e, mem, LoadEntry.joinable_iff.mpr joins⟩
      · rw [List.any_eq_true]
        exact fun ⟨e, mem, joins⟩ => LoadEntry.not_joinable_iff.mpr (apart e mem) joins

end Sys2Proof.Machine
end

section
/-! SUPPORT. The next grant of the flash (R137, R143 to R145): which transactions are eligible, and what giving the next one
leaves of the arbiter. -/

namespace Sys2Proof.Machine

variable {a : Arbiter} {g : Grant} {k : FlashOpKind} {r x : FlashRange}

/-! ## Overlaps (R143) -/

theorem FlashRange.overlaps_iff (x r : FlashRange) : x.overlaps r = true ↔
    0 < x.length ∧ 0 < r.length ∧ x.offset < r.offset + r.length ∧ r.offset < x.offset + x.length := by
  simp [FlashRange.overlaps, and_assoc]

theorem FlashOpKind.overlaps_iff (k : FlashOpKind) (r : FlashRange) : k.overlaps r = true ↔
    ∃ x, k.range = some x ∧ 0 < x.length ∧ 0 < r.length ∧ x.offset < r.offset + r.length ∧ r.offset < x.offset + x.length := by
  unfold FlashOpKind.overlaps
  cases k.range <;> simp [FlashRange.overlaps_iff]

/-- The answer to the loader's overlap question: an operation queued or at work overlaps the range (R146). -/
theorem Arbiter.overlapping_iff (a : Arbiter) (r : FlashRange) : a.overlapping r = true ↔
    ∃ op : FlashOp, (op ∈ a.queues.a ∨ op ∈ a.queues.b ∨ ∃ p, a.grant = some (.port p op)) ∧ op.kind.overlaps r = true := by
  unfold Arbiter.overlapping
  cases hg : a.grant with
  | none => simp [or_and_right, exists_or]
  | some g => cases g <;> simp [or_and_right, exists_or, or_assoc]

/-! ## Eligible transactions (R137, R144, R145) -/

theorem Arbiter.deferred_eq_false : a.deferred k = false ↔ ∀ x, k.range = some x → a.reread = false
    ∧ ∀ r, a.loadingRange = some r → ¬ (0 < x.length ∧ 0 < r.length ∧ x.offset < r.offset + r.length
      ∧ r.offset < x.offset + x.length) := by
  cases hk : k.range with
  | none => simp [Arbiter.deferred, hk]
  | some x =>
    cases hl : a.loadingRange with
    | none => simp [Arbiter.deferred, hk, hl]
    | some r => simp [Arbiter.deferred, hk, hl, FlashOpKind.overlaps, ← FlashRange.overlaps_iff]

theorem Arbiter.eligible_iff {q : Requester} : a.eligible q = some g ↔ a.may g ∧ g.requester = q := by
  cases q with
  | loader =>
    cases g with
    | loader r => simp [Arbiter.eligible, Arbiter.may, Grant.requester]
    | port p op => simp [Arbiter.eligible, Grant.requester]
  | port p =>
    unfold Arbiter.eligible
    cases g with
    | loader r =>
      refine ⟨fun e => ?_, fun ⟨_, e⟩ => nomatch e⟩
      dsimp only at e
      split at e
      · split at e <;> cases e
      · cases e
    | port p' op =>
      dsimp only
      split
      · next op' ops queue =>
        split
        · next deferred =>
          refine ⟨fun e => (nomatch e), fun ⟨⟨head, allowed⟩, same⟩ => ?_⟩
          obtain rfl : p' = p := by simpa [Grant.requester] using same
          obtain rfl : op' = op := by simpa [queue] using head
          exact absurd deferred (by rw [Arbiter.deferred_eq_false.mpr allowed]; simp)
        · next allowed =>
          have ok := Arbiter.deferred_eq_false.mp (Bool.eq_false_iff.mpr allowed)
          constructor
          · intro e
            cases e
            exact ⟨⟨by simp [queue], ok⟩, rfl⟩
          · rintro ⟨⟨head, -⟩, same⟩
            obtain rfl : p' = p := by simpa [Grant.requester] using same
            obtain rfl : op' = op := by simpa [queue] using head
            rfl
      · next queue =>
        refine ⟨fun e => (nomatch e), fun ⟨⟨head, _⟩, same⟩ => ?_⟩
        obtain rfl : p' = p := by simpa [Grant.requester] using same
        simp [queue] at head

/-- The cycle finds the requester that stands first behind the turn (R137). -/
theorem findSome?_afterTurn {turn q : Requester} {e : Requester → Option Grant} (found : e q = some g)
    (first : ∀ q' g', e q' = some g' → turn.after q ≤ turn.after q') : (afterTurn turn).findSome? e = some g := by
  have skipped {q' : Requester} (lt : turn.after q' < turn.after q) : e q' = none := by
    cases none' : e q' with
    | none => rfl
    | some g' => exact absurd (first q' g' none') (Nat.not_le.mpr lt)
  rcases turn with _ | _ | _ <;> rcases q with _ | _ | _ <;>
    simp [afterTurn, found, skipped, Requester.after, Requester.place]

/-! ## Giving the next grant (R137, R142) -/

/-- Giving the next grant leaves the rest of the arbiter as it is. -/
theorem Arbiter.giveNext_rest (a : Arbiter) : a.giveNext = { a with
    grant := a.giveNext.grant, turn := a.giveNext.turn, timer := a.giveNext.timer
    recovering := a.giveNext.recovering, request := a.giveNext.request } := by
  unfold Arbiter.giveNext
  split
  · rfl
  · split <;> rfl

@[simp] theorem Arbiter.giveNext_queues (a : Arbiter) : a.giveNext.queues = a.queues := by rw [a.giveNext_rest]
@[simp] theorem Arbiter.giveNext_loadingRange (a : Arbiter) : a.giveNext.loadingRange = a.loadingRange := by
  rw [a.giveNext_rest]
@[simp] theorem Arbiter.giveNext_reread (a : Arbiter) : a.giveNext.reread = a.reread := by rw [a.giveNext_rest]
@[simp] theorem Arbiter.giveNext_mode (a : Arbiter) : a.giveNext.mode = a.mode := by rw [a.giveNext_rest]
@[simp] theorem Arbiter.giveNext_deviceSize (a : Arbiter) : a.giveNext.deviceSize = a.deviceSize := by
  rw [a.giveNext_rest]

/-- While the device is at work no grant is given. -/
theorem Arbiter.giveNext_busy (busy : a.grant ≠ none) : a.giveNext = a := by
  obtain ⟨g, e⟩ := Option.ne_none_iff_exists'.mp busy
  simp only [Arbiter.giveNext, e]

section
variable (free : a.grant = none)
include free

theorem Arbiter.giveNext_none (idle : ∀ g, ¬ a.may g) : a.giveNext = a := by
  have none' : (afterTurn a.turn).findSome? a.eligible = none := List.findSome?_eq_none_iff.mpr fun q _ => by
    cases e : a.eligible q with
    | none => rfl
    | some g => exact absurd (Arbiter.eligible_iff.mp e).1 (idle g)
  simp only [Arbiter.giveNext, free, none']

theorem Arbiter.giveNext_first (may : a.may g)
    (first : ∀ g', a.may g' → a.turn.after g.requester ≤ a.turn.after g'.requester) : a.giveNext = a.give g := by
  have found : (afterTurn a.turn).findSome? a.eligible = some g :=
    findSome?_afterTurn (Arbiter.eligible_iff.mpr ⟨may, rfl⟩) fun q' g' e => by
      obtain ⟨may', rfl⟩ := Arbiter.eligible_iff.mp e
      exact first g' may'
  simp only [Arbiter.giveNext, free, found]

theorem Arbiter.nextGiven_giveNext : a.NextGiven a.giveNext := by
  refine ⟨Arbiter.giveNext_none free, fun g may first => (Arbiter.giveNext_first free may first).trans ?_⟩
  cases g with
  | loader r => rfl
  | port p op =>
    obtain ⟨tag, k⟩ := op
    cases k <;> rfl

/-- The loader's request is granted where no port waits. -/
theorem Arbiter.giveNext_loader (request : a.request = some x) (alone : a.queues = ⟨[], []⟩) :
    a.giveNext = a.give (.loader x) := by
  refine Arbiter.giveNext_first free request fun g' may => ?_
  cases g' with
  | loader r => exact Nat.le_refl _
  | port p op => cases p <;> simp [Arbiter.may, alone, PerPort.get] at may

end

/-- What a grant gives does not depend on the turn, the timer and the recovery it replaces. -/
theorem Arbiter.NextGiven.overwritten {b : Arbiter} (given : a.NextGiven b) (may : ∃ g, a.may g) (timer : Timer)
    (recovering : Bool) : ({ a with timer := timer, recovering := recovering } : Arbiter).NextGiven b :=
  ⟨fun none' => absurd may fun ⟨g, e⟩ => none' g e, fun g may first => given.2 g may first⟩

/-- The loader leaves its next read as a request, and the next grant goes round (R137, R138). -/
theorem Arbiter.asked (a : Arbiter) (x : FlashRange) :
    let b := ({ a with grant := none, request := some x } : Arbiter).giveNext
    b.queues = a.queues ∧ b.loadingRange = a.loadingRange
    ∧ Arbiter.NextGiven { b with grant := none, request := some x, turn := a.turn } b
    ∧ (a.queues = ⟨[], []⟩ → b.grant = some (.loader x))
    ∧ ∀ tag off len ops, a.turn = .loader → a.queues.a = ⟨tag, .read off len⟩ :: ops →
        b.grant = some (.port .a ⟨tag, .read off len⟩) ∧ b.request = some x := by
  intro b
  let c : Arbiter := { a with grant := none, request := some x }
  have given : c.NextGiven b := Arbiter.nextGiven_giveNext rfl
  refine ⟨Arbiter.giveNext_queues c, Arbiter.giveNext_loadingRange c, ?_, fun alone => ?_, fun tag off len ops turn queue => ?_⟩
  · have renewed := given.overwritten ⟨.loader x, rfl⟩ b.timer b.recovering
    have same : ({ b with grant := none, request := some x, turn := a.turn } : Arbiter)
        = { c with timer := b.timer, recovering := b.recovering } := by
      rw [show b = c.giveNext from rfl, c.giveNext_rest]
    rwa [same]
  · exact congrArg Arbiter.grant (Arbiter.giveNext_loader (a := c) rfl rfl alone)
  · have may : c.may (.port .a ⟨tag, .read off len⟩) := ⟨by simp [c, PerPort.get, queue], fun y e => nomatch e⟩
    have first : b = c.give (.port .a ⟨tag, .read off len⟩) :=
      Arbiter.giveNext_first rfl may fun g' _ => by simp [turn, Requester.after, Requester.place, Grant.requester]
    exact ⟨congrArg Arbiter.grant first, congrArg Arbiter.request first⟩

end Sys2Proof.Machine
end

section
/-! SUPPORT. The ends of load entries and of loader reads (R119 to R123, R129, R178): the completions of the waiters, the head that
fails, and what the next grant and the settling after a read leave of the state. -/

namespace Sys2Proof.Machine

variable {s t u v : State} {p : Port} {w : Waiter} {ws : List Waiter} {st : Status} {why : Option PlaceholderReason} {res : Result}
  {r : FlashRange}

/-! ## Completions of waiters (R119, R178) -/

/-- Every waiter completes with the same status, reason and result, in waiter order. -/
def State.answerWaiters (ws : List Waiter) (st : Status) (why : Option PlaceholderReason) (res : Result) (s : State) : State :=
  ws.foldl (fun t w => t.completeHeld w.port .loadPoster w.tag st why res) s

theorem State.placeholderWaiters_eq (title : Nat) (r : PlaceholderReason) (ws : List Waiter) (s : State) :
    s.placeholderWaiters title r ws = s.answerWaiters ws .placeholder (some r) (.poster ⟨0, 0⟩ title none) := rfl

/-- A completion of the in-flight table joins the notices of a port that is not RESETTING (R178). -/
theorem State.mem_completeHeld {c : Cmd} {tag : Byte} (alive : (s.ports.get p).status ≠ .resetting) :
    Notice.completion tag c.code st why res ∈ ((s.completeHeld p c tag st why res).ports.get p).notices := by
  rw [State.completeHeld_get alive]
  simp

theorem State.Serves.keepsNotices (h : s.Serves t) : s.KeepsNotices t := fun p => (h p).1

theorem State.Serves.status (h : s.Serves t) (p : Port) : (t.ports.get p).status = (s.ports.get p).status :=
  PortState.served.status (h p)

/-- What one item of a list has told a port is in its notices after all of them. -/
theorem State.mem_foldl {α : Type} {F : State → α → State} {n : Notice} {a : α} {as : List α}
    (serves : ∀ (t : State) a, t.Serves (F t a))
    (tells : ∀ t : State, (t.ports.get p).status ≠ .resetting → n ∈ ((F t a).ports.get p).notices)
    (mem : a ∈ as) (alive : (s.ports.get p).status ≠ .resetting) : n ∈ ((as.foldl F s).ports.get p).notices := by
  induction as generalizing s with
  | nil => cases mem
  | cons b as ih =>
    rcases List.mem_cons.mp mem with rfl | mem
    · have rest : (F s a).Serves (as.foldl F (F s a)) :=
        foldl_keeps (P := (F s a).Serves) (fun t b ht => ht.trans (serves t b)) as (State.serves_of_ports rfl)
      exact (rest.keepsNotices _).mem (tells s alive)
    · exact ih mem (by rwa [(serves s b).status])

theorem State.answerWaiters_serves (ws : List Waiter) (st : Status) (why : Option PlaceholderReason) (res : Result) (s : State) :
    s.Serves (s.answerWaiters ws st why res) :=
  foldl_keeps (P := s.Serves) (fun t _ ht => ht.trans (t.completeHeld_serves _ _ _ _ _ _)) ws (State.serves_of_ports rfl)

theorem State.mem_answerWaiters (mem : w ∈ ws) (alive : (s.ports.get w.port).status ≠ .resetting) :
    Notice.completion w.tag 0x40 st why res ∈ ((s.answerWaiters ws st why res).ports.get w.port).notices :=
  State.mem_foldl (fun t _ => t.completeHeld_serves _ _ _ _ _ _) (fun _ alive => State.mem_completeHeld alive) mem alive

/-! ## Changes of the ports alone -/

/-- Whether nothing differs but the ports. -/
def State.PortsOnly (s t : State) : Prop := t = { s with ports := t.ports }

theorem State.portsOnly_refl (s : State) : s.PortsOnly s := rfl

theorem State.PortsOnly.trans (h : s.PortsOnly t) (k : t.PortsOnly u) : s.PortsOnly u := by
  unfold State.PortsOnly at *
  rw [k, h]

theorem State.PortsOnly.modCache (h : s.PortsOnly t) (f : PosterCache → PosterCache) :
    (s.modCache f).PortsOnly (t.modCache f) := by
  unfold State.PortsOnly at *
  rw [h]
  rfl

theorem State.completeHeld_portsOnly (p : Port) (c : Cmd) (tag : Byte) (st : Status) (why : Option PlaceholderReason)
    (res : Result) (s : State) : s.PortsOnly (s.completeHeld p c tag st why res) := by
  unfold State.completeHeld State.deliver
  split <;> rfl

theorem State.answerWaiters_portsOnly (ws : List Waiter) (st : Status) (why : Option PlaceholderReason) (res : Result)
    (s : State) : s.PortsOnly (s.answerWaiters ws st why res) :=
  foldl_keeps (P := s.PortsOnly) (fun t _ ht => ht.trans (t.completeHeld_portsOnly _ _ _ _ _ _)) ws s.portsOnly_refl

/-! ## The head that fails (R120, R121, R123) -/

/-- The head entry has left the queue, the load failures counter has risen, and the loader serves no entry. -/
def State.headGone (s : State) : State :=
  { s with
    cache := { s.cache with queue := s.cache.queue.tail, work := .idle }
    counters := { s.counters with
      posters := { s.counters.posters with failures := satSucc s.counters.posters.failures } } }

theorem State.failHead_eq {e : LoadEntry} {q : List LoadEntry} (queue : s.cache.queue = e :: q) (r : PlaceholderReason) :
    s.failHead r = s.headGone.answerWaiters e.waiters .placeholder (some r) (.poster ⟨0, 0⟩ e.title none) := by
  simp only [State.failHead, queue, State.placeholderWaiters_eq, State.headGone, List.tail_cons]
  rfl

/-! ## The end of a loader read (R122, R137) -/

/-- The state whose loader grant has ended. -/
def State.ungranted (s : State) : State := s.modArbiter (fun a => { a with grant := none })

theorem exec_loaderReadEnd (awake : s.startUp.resetPin = false) (granted : s.arbiter.grant = some (.loader r)) :
    exec .loaderReadEnd s = .next ((s.ungranted.loaderStep (s.flashRead r)).giveNext).settle := by
  simp only [exec, execLoaderReadEnd, awake, granted]
  rfl

theorem exec_loaderReadEnd_idle (idle : ∀ r, s.arbiter.grant ≠ some (.loader r)) : exec .loaderReadEnd s = .next s := by
  rw [exec, execLoaderReadEnd]
  split
  · rfl
  · match granted : s.arbiter.grant with
    | none => rfl
    | some (.port p op) => rfl
    | some (.loader r) => exact absurd granted (idle r)

theorem State.giveNext_settle_arbiter (u : State) : u.giveNext.settle.arbiter = u.arbiter.giveNext := by
  rw [u.giveNext.settle_linked.eq]
  rfl

/-- After the loader's step only the arbiter's next grant and what settles of the ports change. -/
theorem State.giveNext_settle (u : State) : u.giveNext.settle = { u with
    arbiter := u.giveNext.settle.arbiter, ports := u.giveNext.settle.ports
    counters := { u.counters with port := u.giveNext.settle.counters.port } } := by
  conv_lhs => rw [u.giveNext.settle_linked.eq]
  rw [State.giveNext_settle_arbiter]
  rfl

theorem State.giveNext_settle_keepsNotices (u : State) : u.KeepsNotices u.giveNext.settle :=
  State.KeepsNotices.settle (State.KeepsNotices.of_ports u.keepsNotices_refl rfl)

end Sys2Proof.Machine
end

section
/-! SUPPORT. The records of a directory (R112, Table 10-12): a run of bytes gives a record exactly where it passes the record
tests, and the records taken are those of `DirectoryOf`. -/

namespace Sys2Proof.Machine

variable {b : List Byte} {before size count : Nat} {r : DirRecord} {rs : List DirRecord}

theorem Format.ofCode_eq_some {n : Nat} {fmt : Format} : Format.ofCode n = some fmt ↔ fmt.code = n := by
  constructor
  · intro e
    unfold Format.ofCode at e
    split at e <;> cases e <;> rfl
  · rintro rfl
    exact Format.ofCode_code fmt

/-- The record of 19 bytes is the one that they give, where it passes the record tests (R112 step 2). -/
theorem parseRecord_eq_some : parseRecord b before size = some r ↔ r.readFrom b ∧ r.passes before size := by
  have fields : r.readFrom b ↔ Format.ofCode (u8 b 10) = some r.format ∧ r = { r with
      title := u16 b 0, offset := u32 b 2, width := u16 b 6, height := u16 b 8, length := u32 b 11
      crc := BitVec.ofNat 32 (u32 b 15), bad := false } := by
    rw [Format.ofCode_eq_some, DirRecord.readFrom]
    obtain ⟨title, offset, width, height, format, length, crc, bad⟩ := r
    simp only [DirRecord.mk.injEq, true_and]
    tauto
  rw [fields]
  unfold parseRecord
  dsimp only
  cases e : Format.ofCode (u8 b 10) with
  | none => simp
  | some fmt =>
    dsimp only
    unfold DirRecord.passes
    split
    · next ok =>
      constructor
      · intro e'
        cases e'
        exact ⟨⟨rfl, rfl⟩, ok⟩
      · rintro ⟨⟨same, e'⟩, -⟩
        cases same
        rw [e']
    · next bad =>
      refine ⟨fun e' => (nomatch e'), fun ⟨⟨same, e'⟩, ok⟩ => absurd ?_ bad⟩
      cases same
      rw [e'] at ok
      exact ok

/-- The title of the last of some records, or one before them. -/
def titleAfter (before : Nat) (rs : List DirRecord) : Nat := (rs.getLast?.map (·.title)).getD before

theorem titleAfter_cons (before : Nat) (r : DirRecord) (rs : List DirRecord) :
    titleAfter before (r :: rs) = titleAfter r.title rs := by
  unfold titleAfter
  cases h : rs.getLast? with
  | none => simp [List.getLast?_eq_none_iff.mp h]
  | some x => simp [List.getLast?_cons, h]

/-- The records that follow a title in some bytes: in order, up to the first that fails a record test (R112 step 2). -/
theorem parseRecords_spec (size : Nat) : ∀ (count : Nat) (b : List Byte) (before : Nat),
    (parseRecords size count b before).length ≤ count
    ∧ (∀ (k : Nat) (r : DirRecord), (parseRecords size count b before)[k]? = some r → r.readFrom ((b.drop (19 * k)).take 19)
        ∧ r.passes (titleAfter before ((parseRecords size count b before).take k)) size)
    ∧ ((parseRecords size count b before).length < count → ∀ r : DirRecord,
        r.readFrom ((b.drop (19 * (parseRecords size count b before).length)).take 19) →
          ¬ r.passes (titleAfter before (parseRecords size count b before)) size)
  | 0, b, before => ⟨Nat.le_refl _, by simp [parseRecords], fun lt => absurd lt (Nat.not_lt_zero _)⟩
  | count + 1, b, before => by
    rw [parseRecords]
    cases first : parseRecord (b.take 19) before size with
    | none =>
      refine ⟨Nat.zero_le _, by simp, fun _ r fields passes => ?_⟩
      exact nomatch first.symm.trans (parseRecord_eq_some.mpr ⟨fields, passes⟩)
    | some r =>
      obtain ⟨short, each, next⟩ := parseRecords_spec size count (b.drop 19) r.title
      have shift (k : Nat) : (b.drop 19).drop (19 * k) = b.drop (19 * (k + 1)) := by
        rw [List.drop_drop, Nat.mul_succ, Nat.add_comm]
      simp only [shift] at each next
      refine ⟨Nat.succ_le_succ short, fun k r' at' => ?_, fun lt r' fields => ?_⟩
      · cases k with
        | zero =>
          cases at'
          exact parseRecord_eq_some.mp first
        | succ k =>
          rw [List.take_succ_cons, titleAfter_cons]
          exact each k r' at'
      · rw [titleAfter_cons]
        exact next (Nat.lt_of_succ_lt_succ lt) r' fields

theorem directoryOf_parseRecords (count size : Nat) (b : List Byte) : DirectoryOf count size b (parseRecords size count b 0) :=
  parseRecords_spec size count b 0

/-! ## Directory loads (R112) -/

section
variable {d : DirLoad}

theorem DirLoad.nextRead_none (all : d.count * 19 ≤ d.got.length) : d.nextRead = none :=
  if_pos (Nat.sub_eq_zero_of_le all)

theorem DirLoad.nextRead_some (more : d.got.length < d.count * 19) :
    d.nextRead = some ⟨d.offset + d.got.length, min 4096 (d.count * 19 - d.got.length)⟩ :=
  if_neg (by omega)

theorem DirLoad.result_mismatch (differs : crc32 d.got ≠ d.crc) (size : Nat) : d.result size = (none, .noDirectory) :=
  if_pos differs

/-- The directory that a load of the right CRC gives. -/
theorem DirLoad.result_match (agrees : crc32 d.got = d.crc) (size : Nat) : ∃ rs, DirectoryOf d.count size d.got rs
    ∧ d.result size = (some rs, if rs.length = d.count then .ok else .truncated) :=
  ⟨_, directoryOf_parseRecords .., if_neg (not_not_intro agrees)⟩

variable {s : State}

theorem State.directoryGo_more (more : d.got.length < d.count * 19) : s.directoryGo d =
    s.askRead ⟨d.offset + d.got.length, min 4096 (d.count * 19 - d.got.length)⟩ (.directory d) := by
  simp only [State.directoryGo, DirLoad.nextRead_some more]

theorem State.directoryGo_ends (all : d.count * 19 ≤ d.got.length) : s.directoryGo d =
    s.directoryEnd (d.result s.arbiter.deviceSize).1 (d.result s.arbiter.deviceSize).2 := by
  simp only [State.directoryGo, DirLoad.nextRead_none all]

end

end Sys2Proof.Machine
end

section
/-! SUPPORT. Surfaces that leave the map (R116, R121, R129): an eviction, the pass of a reload over the surface table, and what a
reload leaves at its end. -/

namespace Sys2Proof.Machine

variable {s t u v : State} {i j n : Nat} {g : Byte} {x : Surface} {d : Option (List DirRecord)} {w : Waiter}

/-! ## Eviction (R121) -/

/-- What giving a poster back changes does not depend on the cache nor on the arbiter (R20). -/
theorem State.freePoster_congr (i : Nat) (s : State) (c : PosterCache) (a : Arbiter) :
    ({ s with cache := c, arbiter := a } : State).freePoster i = { s.freePoster i with cache := c, arbiter := a } := by
  have free : ({ s with cache := c, arbiter := a } : State).becomeFree i
      = { s.becomeFree i with cache := c, arbiter := a } := by
    simp only [State.becomeFree]
    split
    · split <;> rfl
    · rfl
  have retire : ({ s with cache := c, arbiter := a } : State).retireOrFree i
      = { s.retireOrFree i with cache := c, arbiter := a } := by
    unfold State.retireOrFree
    rw [show ({ s with cache := c, arbiter := a } : State).held i = s.held i from rfl]
    split
    · rfl
    · exact free
  unfold State.freePoster
  rw [show ({ s with cache := c, arbiter := a } : State).surfaceAt i = s.surfaceAt i from rfl]
  split
  · split
    · rfl
    · split
      · exact free
      · exact retire
      · rfl
  · rfl

/-- An eviction in its parts: the map and the idle list, the surface, the counter. -/
theorem State.evict_eq (i : Nat) (s : State) : s.evict i = { s.freePoster i with
    cache := { s.cache with map := s.cache.map.filter (fun m => m.surface ≠ i), idle := s.cache.idle.erase i }
    counters := { s.counters with
      posters := { s.counters.posters with evictions := satSucc s.counters.posters.evictions } } } := by
  have given := s.freePoster_congr i
    { s.cache with map := s.cache.map.filter (fun m => m.surface ≠ i), idle := s.cache.idle.erase i } s.arbiter
  refine (congrArg (fun t : State => t.modCounters (fun c => { c with
    posters := { c.posters with evictions := satSucc c.posters.evictions } })) given).trans ?_
  rw [(s.freePoster_curated i).eq]
  rfl

theorem State.evict_evicted (i : Nat) (s : State) : s.Evicted (s.evict i) i := by
  rw [State.evict_eq]
  refine ⟨?_, fun e x entry body poster resident => ?_⟩
  · rw [(s.freePoster_curated i).eq]
  · obtain ⟨g, b⟩ := e
    obtain rfl : b = some x := body
    have hr : s.resolve ⟨i, g⟩ = some x := State.resolve_eq_some.mpr entry
    have given := State.retireOrFree_givenBack hr (by simp [poster])
    rw [← State.freePoster_resident hr poster resident] at given
    exact given

theorem State.evict_entry_ne (ne : j ≠ i) : (s.evict i).surfaces.entries[j]? = s.surfaces.entries[j]? := by
  rw [State.evict_eq]
  exact State.freePoster_entry_ne ne

/-! ## What surfaces that leave the map change -/

/-- Surfaces that leave the map change the surfaces, the layer records, the lists of the cache and the evictions. -/
def State.Thinned (s t : State) : Prop := ∃ m ls map idle stale k, t = { s with
  surfaces := m, layers := ls, cache := { s.cache with map := map, idle := idle, stale := stale }
  counters := { s.counters with posters := { s.counters.posters with evictions := k } } }

theorem State.Thinned.trans (h : s.Thinned t) (k : t.Thinned u) : s.Thinned u := by
  obtain ⟨_, _, _, _, _, _, rfl⟩ := h
  obtain ⟨_, _, _, _, _, _, rfl⟩ := k
  exact ⟨_, _, _, _, _, _, rfl⟩

theorem State.Evicted.thinned (h : s.Evicted u i) : s.Thinned u := ⟨_, _, _, _, _, _, h.1⟩

/-- A pinned surface has left the map for the stale list (R116). -/
def State.staled (i : Nat) (s : State) : State :=
  { s with cache := { s.cache with
      map := s.cache.map.filter (fun m => m.surface ≠ i)
      stale := if i ∈ s.cache.stale then s.cache.stale else s.cache.stale ++ [i] } }

theorem State.staled_thinned (i : Nat) (s : State) : s.Thinned (s.staled i) := ⟨_, _, _, _, _, _, rfl⟩

theorem State.LeaveMap.thinned {is : List Nat} (h : s.LeaveMap is n t) : s.Thinned t := by
  induction h with
  | done s => exact ⟨_, _, _, _, _, _, rfl⟩
  | stale _ _ _ ih => exact (State.staled_thinned _ _).trans ih
  | freed _ _ _ _ evicted _ ih => exact evicted.thinned.trans ih

/-! ## The pass of a reload (R129 step 3) -/

theorem MapEntry.changed_iff {m : MapEntry} : m.changed d = true ↔
    ∀ rs r, d = some rs → rs.find? (fun r => r.title == m.title) = some r →
      r.width ≠ m.width ∨ r.height ≠ m.height ∨ r.format ≠ m.format ∨ r.crc ≠ m.crc := by
  unfold MapEntry.changed
  cases d with
  | none => simp
  | some rs =>
    refine Iff.trans ?_ (Iff.symm ⟨fun h r => h rs r rfl, fun h rs' r e => by cases e; exact h r⟩)
    simp only [Option.getD_some]
    cases rs.find? (fun r => r.title == m.title) with
    | none => simp
    | some r => simp [or_assoc]

/-- Whether a surface leaves the map under a new directory: RESIDENT, and changed (R129 step 3). -/
def State.leaves (s : State) (d : Option (List DirRecord)) (i : Nat) : Bool :=
  match s.cache.map.find? (fun m => m.surface == i) with
  | none => false
  | some m => m.changed d && s.surfaceStateOf i == some .resident

/-- The state in which a reload has replaced the directory, and the arbiter is as it gives it. -/
def State.reloading (s : State) (d : Option (List DirRecord)) (a : Arbiter) : State :=
  { s with cache := { s.cache with directory := d, work := .idle }, arbiter := a }

theorem State.reloading_evict (i : Nat) (s : State) (d : Option (List DirRecord)) (a : Arbiter) :
    (s.reloading d a).evict i = (s.evict i).reloading d a := by
  rw [State.evict_eq, State.evict_eq, State.reloading, State.freePoster_congr]
  rfl

theorem State.removeResident_pinned (pinned : s.pinned i = true) : s.removeResident i = s.staled i := by
  rw [State.removeResident, if_pos pinned, State.staled]
  by_cases mem : i ∈ s.cache.stale <;> simp [State.modCache, State.unmap, mem]

/-- The pass at one surface: it stays, joins the stale list, or is evicted. -/
theorem reloadPass_eq (d : Option (List DirRecord)) (s : State) (a : Arbiter) (k : ReloadTally) (i : Nat) :
    reloadPass d (s.reloading d a, k) i =
      if s.leaves d i then
        if s.pinned i then ((s.staled i).reloading d a, ⟨k.removed + 1, k.stale + 1⟩)
        else ((s.evict i).reloading d a, ⟨k.removed + 1, k.stale⟩)
      else (s.reloading d a, k) := by
  unfold reloadPass State.leaves
  dsimp only
  rw [show (s.reloading d a).cache.map = s.cache.map from rfl,
    show (s.reloading d a).surfaceStateOf i = s.surfaceStateOf i from rfl]
  cases found : s.cache.map.find? (fun m => m.surface == i) with
  | none => rfl
  | some m =>
    dsimp only
    split
    · rw [show (s.reloading d a).pinned i = s.pinned i from rfl]
      split
      · next pinned =>
        rw [State.removeResident_pinned (show (s.reloading d a).pinned i = true from pinned)]
        rfl
      · next unpinned =>
        rw [← State.reloading_evict, State.removeResident,
          show (s.reloading d a).pinned i = s.pinned i from rfl, if_neg unpinned]
        rfl
    · rfl

/-- A surface that leaves the map takes no other one with it. -/
theorem State.leaves_congr (ne : j ≠ i) (map : t.cache.map = s.cache.map.filter (fun m => m.surface ≠ i))
    (entry : t.surfaces.entries[j]? = s.surfaces.entries[j]?) : t.leaves d j = s.leaves d j := by
  have found : t.cache.map.find? (fun m => m.surface == j) = s.cache.map.find? (fun m => m.surface == j) := by
    rw [map, List.find?_filter]
    refine congrArg (List.find? · s.cache.map) (funext fun m => ?_)
    by_cases e : m.surface = j <;> simp [e, ne]
  have state : t.surfaceStateOf j = s.surfaceStateOf j := by
    rw [State.surfaceStateOf, State.surfaceStateOf, State.surfaceAt, State.surfaceAt, entry]
  rw [State.leaves, State.leaves, found, state]

theorem State.leaves_resolve (leaves : s.leaves d i = true) : ∃ g x, s.resolve ⟨i, g⟩ = some x ∧ x.state = .resident := by
  unfold State.leaves at leaves
  split at leaves
  · cases leaves
  · obtain ⟨-, state⟩ := Bool.and_eq_true_iff.mp leaves
    obtain ⟨x, at', resident⟩ := Option.map_eq_some_iff.mp (beq_iff_eq.mp state)
    obtain ⟨g, entry⟩ := State.entry_of_surfaceAt at'
    exact ⟨g, x, State.resolve_eq_some.mpr entry, resident⟩

/-- The whole pass: the surfaces that leave the map do so in order, and are counted. -/
theorem foldl_reloadPass (d : Option (List DirRecord)) (a : Arbiter) (is : List Nat) (nodup : is.Nodup) (s : State)
    (k : ReloadTally) : ∃ n u, s.LeaveMap (is.filter (s.leaves d)) n u
      ∧ is.foldl (reloadPass d) (s.reloading d a, k)
        = (u.reloading d a, ⟨k.removed + (is.filter (s.leaves d)).length, k.stale + n⟩) := by
  induction is generalizing s k with
  | nil => exact ⟨0, s, .done s, rfl⟩
  | cons i is ih =>
    obtain ⟨fresh, nodup⟩ := List.nodup_cons.mp nodup
    have others {t : State} (map : t.cache.map = s.cache.map.filter (fun m => m.surface ≠ i))
        (entries : ∀ j, j ≠ i → t.surfaces.entries[j]? = s.surfaces.entries[j]?) :
        is.filter (t.leaves d) = is.filter (s.leaves d) := List.filter_congr fun j mem => by
      have ne : j ≠ i := fun e => fresh (e ▸ mem)
      exact State.leaves_congr ne map (entries j ne)
    rw [List.foldl_cons, reloadPass_eq]
    by_cases leaves : s.leaves d i = true
    · obtain ⟨g, x, hr, -⟩ := State.leaves_resolve leaves
      have entry := State.resolve_eq_some.mp hr
      rw [List.filter_cons_of_pos leaves, if_pos leaves]
      by_cases pinned : s.pinned i = true
      · obtain ⟨n, u, left, tally⟩ := ih nodup (s.staled i) ⟨k.removed + 1, k.stale + 1⟩
        rw [others (t := s.staled i) rfl fun _ _ => rfl] at left tally
        refine ⟨n + 1, u, .stale entry ((State.pinned_iff hr).mp pinned) left, ?_⟩
        rw [if_pos pinned, tally, List.length_cons, Nat.add_right_comm, Nat.add_assoc k.removed, Nat.add_right_comm,
          Nat.add_assoc k.stale]
      · obtain ⟨n, u, left, tally⟩ := ih nodup (s.evict i) ⟨k.removed + 1, k.stale⟩
        rw [others (t := s.evict i) (by rw [State.evict_eq]) fun j ne => State.evict_entry_ne ne] at left tally
        have loose := mt (State.pinned_iff hr).mpr pinned
        simp only [not_or, not_not] at loose
        obtain ⟨a0, b0, unnamed⟩ := loose
        refine ⟨n, u, .freed entry a0 b0 unnamed (s.evict_evicted i) left, ?_⟩
        rw [if_neg pinned, tally, List.length_cons, Nat.add_right_comm, Nat.add_assoc k.removed]
    · rw [List.filter_cons_of_neg leaves, if_neg leaves]
      exact ih nodup s k

/-- The surfaces that leave the map in a reload. -/
def State.leavers (s : State) (d : Option (List DirRecord)) : List Nat := surfaceIndices.filter (s.leaves d)

theorem State.leavers_pairwise (s : State) (d : Option (List DirRecord)) : (s.leavers d).Pairwise (· < ·) :=
  List.Pairwise.filter _ List.pairwise_lt_range

theorem State.mem_leavers : i ∈ s.leavers d ↔ i < 160 ∧ (∃ x, s.surfaceAt i = some x ∧ x.state = .resident)
    ∧ ∃ m, s.cache.map.find? (fun m => m.surface == i) = some m ∧
      ∀ rs r, d = some rs → rs.find? (fun r => r.title == m.title) = some r →
        r.width ≠ m.width ∨ r.height ≠ m.height ∨ r.format ≠ m.format ∨ r.crc ≠ m.crc := by
  rw [State.leavers, List.mem_filter, mem_surfaceIndices, and_congr_right_iff]
  intro _
  unfold State.leaves
  cases s.cache.map.find? (fun m => m.surface == i) with
  | none => simp
  | some m =>
    simp only [Bool.and_eq_true, MapEntry.changed_iff, beq_iff_eq, State.surfaceStateOf, Option.map_eq_some_iff,
      Option.some.injEq, exists_eq_left', and_comm]

/-- The arbiter as a reload leaves it before the next grant (log 45). -/
def Arbiter.reloaded (a : Arbiter) : Arbiter := { a with grant := none, reread := false }

/-- What leaves the map as a reload of the granted loader ends with a directory. -/
theorem State.reload_leaves (d : Option (List DirRecord)) (s : State) : ∃ n u, s.LeaveMap (s.leavers d) n u
    ∧ surfaceIndices.foldl (reloadPass d)
        ((s.ungranted.modCache (fun c => { c with directory := d, work := .idle })).modArbiter
          (fun a => { a with reread := false }), ⟨0, 0⟩)
      = (u.reloading d s.arbiter.reloaded, ⟨(s.leavers d).length, n⟩) := by
  obtain ⟨n, u, left, tally⟩ := foldl_reloadPass d s.arbiter.reloaded surfaceIndices
    List.nodup_range s ⟨0, 0⟩
  simp only [Nat.zero_add] at tally
  exact ⟨n, u, left, tally⟩

end Sys2Proof.Machine
end

section
/-! SUPPORT. The end of a reload (R129 steps 2 to 5): the waiters and the command that are answered, and the state that is left
with a directory and without one. -/

namespace Sys2Proof.Machine

variable {s u v : State} {n : Nat} {d : Option (List DirRecord)} {w : Waiter} {st : Status} {res : Result}

/-! ## The answers (R129 steps 4 and 5) -/

/-- The load queue is empty, and nothing else has changed but the ports. -/
theorem State.failQueue_portsOnly (s : State) : (s.modCache (fun c => { c with queue := [] })).PortsOnly s.failQueue :=
  foldl_keeps (P := (s.modCache (fun c => { c with queue := [] })).PortsOnly)
    (fun t _ ht => ht.trans (t.answerWaiters_portsOnly _ _ _ _)) _ (State.portsOnly_refl _)

theorem State.failQueue_serves (s : State) : s.Serves s.failQueue :=
  foldl_keeps (P := s.Serves) (fun t _ ht => ht.trans (t.answerWaiters_serves _ _ _ _)) _ (State.serves_of_ports rfl)

theorem State.mem_failQueue {e : LoadEntry} (entry : e ∈ s.cache.queue) (mem : w ∈ e.waiters)
    (alive : (s.ports.get w.port).status ≠ .resetting) :
    Notice.completion w.tag 0x40 .placeholder (some .noDirectory) (.poster ⟨0, 0⟩ e.title none)
      ∈ (s.failQueue.ports.get w.port).notices :=
  State.mem_foldl (s := s.modCache (fun c => { c with queue := [] })) (fun t _ => t.answerWaiters_serves _ _ _ _)
    (fun _ alive => State.mem_answerWaiters mem alive) entry alive

section
variable (reload : s.cache.reload = some w)
include reload

theorem State.completeReload_completes : s.completeReload st res =
    (s.modCache (fun c => { c with reload := none })).completeHeld w.port .reloadDirectory w.tag st none res := by
  simp only [State.completeReload, reload]

theorem State.completeReload_portsOnly :
    (s.modCache (fun c => { c with reload := none })).PortsOnly (s.completeReload st res) := by
  rw [State.completeReload_completes reload]
  exact State.completeHeld_portsOnly ..

theorem State.completeReload_serves : s.Serves (s.completeReload st res) := by
  rw [State.completeReload_completes reload]
  exact (State.serves_of_ports (t := s.modCache _) rfl).trans (State.completeHeld_serves _ _ _ _ _ _ _)

theorem State.mem_completeReload (alive : (s.ports.get w.port).status ≠ .resetting) :
    Notice.completion w.tag 0x43 st none res ∈ ((s.completeReload st res).ports.get w.port).notices := by
  rw [State.completeReload_completes reload]
  exact State.mem_completeHeld alive

end

/-! ## The state a reload leaves (R129, R137) -/

theorem State.Thinned.kept (h : s.Thinned u) : u.ports = s.ports ∧ u.cache.queue = s.cache.queue
    ∧ u.cache.reload = s.cache.reload := by
  obtain ⟨_, _, _, _, _, _, rfl⟩ := h
  exact ⟨rfl, rfl, rfl⟩

theorem State.reloaded_of (left : s.LeaveMap (s.leavers d) n u)
    (ended : ({ u with
      cache := { u.cache with
        directory := d, queue := if d = none then [] else s.cache.queue, reload := none, work := .idle }
      arbiter := s.arbiter.reloaded } : State).PortsOnly v) : s.Reloaded v.giveNext.settle d (s.leavers d) n := by
  have t := v.giveNext_settle
  have given := v.giveNext_settle_arbiter
  generalize v.giveNext.settle = t' at t given
  unfold State.PortsOnly at ended
  rw [ended] at t given
  refine ⟨s.leavers_pairwise d, fun i => State.mem_leavers, ⟨u, left, t⟩, ?_⟩
  rw [given]
  exact Arbiter.nextGiven_giveNext rfl

section
variable (reload : s.cache.reload = some w)
include reload

/-- A reload that ends without a directory (R129 steps 2 to 4). -/
theorem State.reloadFinish_fails (st : DirStatus) :
    s.ReloadFailed (s.ungranted.reloadFinish none st).giveNext.settle w := by
  obtain ⟨n, u, left, pass⟩ := s.reload_leaves none
  obtain ⟨ports, queue, reload'⟩ := left.thinned.kept
  have ended : s.ungranted.reloadFinish none st
      = (u.reloading none s.arbiter.reloaded).failQueue.completeReload .directoryBad .none := by
    unfold State.reloadFinish
    dsimp only
    rw [pass]
  generalize hx : u.reloading none s.arbiter.reloaded = x at ended
  have emptied := x.failQueue_portsOnly
  have waits : x.failQueue.cache.reload = some w := by
    unfold State.PortsOnly at emptied
    rw [emptied, ← hx]
    exact reload'.trans reload
  have serves : s.Serves x := State.serves_of_ports (by rw [← hx]; exact ports)
  have told := State.giveNext_settle_keepsNotices (s.ungranted.reloadFinish none st)
  rw [ended] at told ⊢
  refine ⟨⟨_, n, State.reloaded_of left ?_⟩, fun e entry v mem alive => ?_, fun alive => ?_⟩
  · rw [if_pos rfl]
    have both := (emptied.modCache _).trans (State.completeReload_portsOnly (st := .directoryBad) (res := .none) waits)
    rw [← hx] at both ⊢
    exact both
  · refine (told v.port).mem ?_
    refine ((State.completeReload_serves waits).keepsNotices v.port).mem (State.mem_failQueue ?_ mem ?_)
    · rw [← hx]
      exact queue ▸ entry
    · rwa [serves.status]
  · exact (told w.port).mem
      (State.mem_completeReload waits (by rwa [(serves.trans x.failQueue_serves).status]))

/-- A reload that ends with a directory completes with the counts (R129 step 5). -/
theorem State.reloadFinish_loads (rs : List DirRecord) (count : Nat) :
    let t := (s.ungranted.reloadFinish (some rs) (if rs.length = count then .ok else .truncated)).giveNext.settle
    ∃ removed stale, s.Reloaded t (some rs) removed stale ∧ ((s.ports.get w.port).status ≠ .resetting →
      Notice.completion w.tag 0x43 (if rs.length = count then .ok else .directoryTruncated) none
        (.reload rs.length removed.length stale) ∈ (t.ports.get w.port).notices) := by
  obtain ⟨n, u, left, pass⟩ := s.reload_leaves (some rs)
  obtain ⟨ports, queue, reload'⟩ := left.thinned.kept
  have ended : s.ungranted.reloadFinish (some rs) (if rs.length = count then .ok else .truncated)
      = (u.reloading (some rs) s.arbiter.reloaded).completeReload
          (if rs.length = count then .ok else .directoryTruncated) (.reload rs.length (s.leavers (some rs)).length n) := by
    unfold State.reloadFinish
    dsimp only
    rw [pass]
    by_cases all : rs.length = count
    · rw [if_pos all, if_pos all]
    · rw [if_neg all, if_neg all]
  have waits : (u.reloading (some rs) s.arbiter.reloaded).cache.reload = some w := reload'.trans reload
  have told := State.giveNext_settle_keepsNotices
    (s.ungranted.reloadFinish (some rs) (if rs.length = count then .ok else .truncated))
  rw [ended] at told ⊢
  refine ⟨_, n, State.reloaded_of left ?_, fun alive => (told w.port).mem (State.mem_completeReload waits ?_)⟩
  · rw [if_neg (by simp), ← queue]
    exact State.completeReload_portsOnly waits
  · rwa [show (u.reloading (some rs) s.arbiter.reloaded).ports = s.ports from ports]

end

end Sys2Proof.Machine
end

section
/-! SUPPORT. LOADER BEGIN and RELOAD DIRECTORY (R120, R121, R128, R138, R145): the directory's answer to the head, the room for
its surface, the eviction that makes room, and the first read that is asked for. -/

namespace Sys2Proof.Machine

variable {s t u : State} {p : Port} {f : Frame} {rest : List Frame} {i j n : Nat} {g : Byte} {r : DirRecord} {e : LoadEntry}
  {q : List LoadEntry} {why : PlaceholderReason} {x : FlashRange}

/-! ## A request that may be granted at once (R137, R138) -/

/-- What a request of the loader leaves: it waits while the device is at work, and else the next grant goes round. -/
theorem Arbiter.requests {a : Arbiter} (request : a.request = some x) :
    (a.grant ≠ none → a.giveNext.request = some x ∧ a.giveNext.grant = a.grant)
    ∧ (a.grant = none → a.NextGiven a.giveNext)
    ∧ (a.grant = none → a.queues = ⟨[], []⟩ →
        a.giveNext.request = none ∧ a.giveNext.grant = some (.loader x) ∧ a.giveNext.turn = .loader) := by
  refine ⟨fun busy => ?_, Arbiter.nextGiven_giveNext, fun free alone => ?_⟩
  · rw [Arbiter.giveNext_busy busy]
    exact ⟨request, rfl⟩
  · rw [Arbiter.giveNext_loader free request alone]
    exact ⟨rfl, rfl, rfl⟩

/-! ## Room for a surface (R19, R121) -/

/-- Whether the POSTERS account, the free list and the table have room for `n` pages (R19). -/
def State.posterRoom (s : State) (n : Nat) : Prop :=
  s.surfaces.posters.entries < 63 ∧ s.surfaces.posters.charged + n ≤ s.surfaces.posters.budget
    ∧ n ≤ s.surfaces.freeList.length ∧ ∃ j g, 1 ≤ j ∧ s.surfaces.entries[j]? = some ⟨g, none⟩

theorem SurfaceManager.lowestFree_isSome {m : SurfaceManager} :
    m.lowestFree ≠ none ↔ ∃ j g, 1 ≤ j ∧ m.entries[j]? = some ⟨g, none⟩ := by
  constructor
  · intro some'
    obtain ⟨j, lowest⟩ := Option.ne_none_iff_exists'.mp some'
    obtain ⟨pos, ⟨g, entry⟩, -⟩ := SurfaceManager.lowestFree_eq_some.mp lowest
    exact ⟨j, g, pos, entry⟩
  · rintro ⟨j, g, pos, entry⟩ none'
    have all : ∀ e ∈ m.entries.tail, e.body.isSome = true := by simpa [SurfaceManager.lowestFree] using none'
    refine Bool.false_ne_true (all ⟨g, none⟩ (List.mem_of_getElem? (i := j - 1) ?_))
    rw [← List.drop_one, List.getElem?_drop, Nat.add_sub_cancel' pos, entry]

theorem State.posterRoom_iff : s.posterRoom n ↔
    s.surfaces.allocationRefusal .posters n = none ∧ s.surfaces.lowestFree ≠ none := by
  rw [SurfaceManager.allocationRefusal_eq_none, SurfaceManager.lowestFree_isSome, and_assoc, and_assoc]
  rfl

section
variable {fmt : Format} {w h fuel : Nat}

theorem State.allocatePoster_room (room : s.posterRoom (pageCount (byteSize fmt w h)))
    (lowest : s.surfaces.lowestFree = some i) : State.allocatePoster fmt w h (fuel + 1) s =
      (some i, { s with surfaces := s.surfaces.allocate i .posters .poster .loading fmt w h }) := by
  simp only [State.allocatePoster, (State.posterRoom_iff.mp room).1, lowest]

/-- Without room the loader evicts, as long as it can (R121). -/
theorem State.allocatePoster_full (full : ¬ s.posterRoom (pageCount (byteSize fmt w h))) :
    State.allocatePoster fmt w h (fuel + 1) s =
      match s.evictable with
      | some j => State.allocatePoster fmt w h fuel (s.evict j)
      | none => (none, s) := by
  rw [State.allocatePoster]
  split
  · next room lowest => exact absurd (State.posterRoom_iff.mpr ⟨room, by simp [lowest]⟩) full
  · rfl

end

/-! ## Allocation for the head (R121, R138) -/

/-- The head's surface is allocated, in the map, and its first transaction is asked for. -/
def State.fillBegun (s : State) (r : DirRecord) (i : Nat) : State :=
  { s with
    surfaces := s.surfaces.allocate i .posters .poster .loading r.format r.width r.height
    cache := { s.cache with
      map := s.cache.map ++ [⟨r.title, i, r.width, r.height, r.format, r.crc⟩]
      work := .filling { title := r.title, surface := i, offset := r.offset, length := r.length, imageCrc := r.crc, k := 0
                         crc := crc32Init } }
    counters := { s.counters with posters := { s.counters.posters with loads := satSucc s.counters.posters.loads } }
    arbiter := ({ s.arbiter with
      loadingRange := some ⟨r.offset, r.length⟩, request := some ⟨r.offset, min 4096 r.length⟩ } : Arbiter).giveNext }

section
variable {n : Nat} (pages : pageCount (byteSize r.format r.width r.height) = n)
include pages

theorem State.loaderAllocate_noBudget (poor : s.surfaces.posters.budget < n) : s.loaderAllocate r = s.failHead .noSpace := by
  rw [State.loaderAllocate, pages, if_pos poor]

theorem State.loaderAllocate_room (room : s.posterRoom n) (lowest : s.surfaces.lowestFree = some i) :
    s.loaderAllocate r = s.fillBegun r i := by
  subst pages
  have afford : ¬ s.surfaces.posters.budget < pageCount (byteSize r.format r.width r.height) := by
    obtain ⟨-, charged, -⟩ := room
    omega
  rw [State.loaderAllocate, if_neg afford, State.allocatePoster_room room lowest]
  simp only [Fill.read, Nat.zero_mul, Nat.add_zero, Nat.sub_zero]
  rfl

variable (full : ¬ s.posterRoom n)
include full

theorem State.loaderAllocate_stuck (stuck : s.evictable = none) : s.loaderAllocate r = s.failHead .noSpace := by
  subst pages
  rw [State.loaderAllocate, State.allocatePoster_full full, stuck]
  split <;> rfl

end

end Sys2Proof.Machine
end

section
/-! SUPPORT. LOADER BEGIN (R120, R121): the eviction that makes room, and which of its cases a state is in. -/

namespace Sys2Proof.Machine

variable {s u : State} {i j n : Nat} {g : Byte} {r : DirRecord} {e : LoadEntry} {q : List LoadEntry}
  {why : PlaceholderReason}

/-! ## An eviction for the head (R121) -/

theorem SurfaceManager.setAccount_budget (m : SurfaceManager) (a : Account) (c k : Nat) :
    (m.setAccount a { m.account a with charged := c, entries := k }).posters.budget = m.posters.budget := by
  cases a <;> rfl

/-- The POSTERS budget is the same in every common change. -/
theorem postersBudget_stable (n : Nat) : Stable (fun t => t.surfaces.posters.budget = n) where
  startUp _ _ h := h
  ports _ _ h := h
  outputs _ _ h := h
  streams _ _ h := h
  cache _ _ h := h
  arbiter _ _ h := h
  freeCount _ _ h := h
  counters _ _ _ h := h
  surface s i f _ h := by
    rw [State.modSurface_surfaces, SurfaceManager.modSurface]
    split <;> exact h
  free s i h := by
    unfold State.becomeFree
    split
    · split
      · exact h
      · exact (SurfaceManager.setAccount_budget ..).trans h
    · exact h
  allocate _ _ _ _ _ _ _ _ _ _ _ _ h := (SurfaceManager.setAccount_budget ..).trans h

theorem State.evict_budget (j : Nat) (s : State) : (s.evict j).surfaces.posters.budget = s.surfaces.posters.budget :=
  Stable.evict (postersBudget_stable s.surfaces.posters.budget) j rfl

/-- Where room is missing, the loader goes on from the state after the first eviction. -/
theorem State.loaderAllocate_evicts (afford : pageCount (byteSize r.format r.width r.height) ≤ s.surfaces.posters.budget)
    (full : ¬ s.posterRoom (pageCount (byteSize r.format r.width r.height))) (found : s.evictable = some j) :
    s.loaderAllocate r = (s.evict j).loaderAllocate r := by
  have mem : j ∈ s.cache.idle := List.mem_of_find?_eq_some found
  have fewer : (s.evict j).cache.idle.length + 1 = s.cache.idle.length := by
    rw [(s.evict_evicted j).1]
    exact List.length_erase_add_one mem
  rw [State.loaderAllocate, State.loaderAllocate, if_neg (Nat.not_lt.mpr afford),
    if_neg (by rw [State.evict_budget]; exact Nat.not_lt.mpr afford), State.allocatePoster_full full, found, fewer]

/-! ## The cases of LOADER BEGIN (R120) -/

theorem LoaderWork.free_iff {w : LoaderWork} : w.free = true ↔ w = .idle ∨ w = .waiting := by
  cases w <;> simp [LoaderWork.free]

theorem exec_loaderBegin (awake : s.startUp.resetPin = false) (started : s.startUp.starting = false) :
    exec .loaderBegin s = .next s.loaderBegin := by
  simp [exec, execLoaderBegin, awake, started]

theorem State.loaderBegin_stays (busy : (s.cache.work ≠ .idle ∧ s.cache.work ≠ .waiting) ∨ s.cache.reload ≠ none) :
    s.loaderBegin = s := by
  refine if_pos ?_
  rw [← not_or, ← LoaderWork.free_iff, ← Option.isSome_iff_ne_none] at busy
  simpa using busy

section
variable (free : s.cache.work = .idle ∨ s.cache.work = .waiting) (still : s.cache.reload = none)
include free still

theorem State.loaderBegin_free : s.loaderBegin =
    match s.cache.queue with
    | [] => s.modCache (fun c => { c with work := .idle })
    | e :: _ =>
      match s.cache.lookup e.title with
      | .error r => s.failHead r
      | .ok r =>
        if s.arbiter.overlapping ⟨r.offset, r.length⟩ then s.modCache (fun c => { c with work := .waiting })
        else s.loaderAllocate r := by
  refine (if_neg ?_).trans ?_
  · simp [LoaderWork.free_iff.mpr free, still]
  · rfl

theorem State.loaderBegin_empty (empty : s.cache.queue = []) :
    s.loaderBegin = s.modCache (fun c => { c with work := .idle }) := by
  rw [State.loaderBegin_free free still, empty]

variable (queue : s.cache.queue = e :: q)
include queue

theorem State.loaderBegin_refused (refused : s.cache.lookup e.title = .error why) : s.loaderBegin = s.failHead why := by
  rw [State.loaderBegin_free free still, queue]
  simp only [refused]

variable (found : s.cache.lookup e.title = .ok r)
include found

theorem State.loaderBegin_waits (overlaps : s.arbiter.overlapping ⟨r.offset, r.length⟩ = true) :
    s.loaderBegin = s.modCache (fun c => { c with work := .waiting }) := by
  rw [State.loaderBegin_free free still, queue]
  simp only [found, overlaps, if_true]

theorem State.loaderBegin_allocates (clear : ¬ s.arbiter.overlapping ⟨r.offset, r.length⟩ = true) :
    s.loaderBegin = s.loaderAllocate r := by
  rw [State.loaderBegin_free free still, queue]
  simp only [found, if_neg clear]

/-- An eviction changes nothing that LOADER BEGIN asks about its head. -/
theorem State.loaderBegin_evicts (clear : ¬ s.arbiter.overlapping ⟨r.offset, r.length⟩ = true)
    (afford : pageCount (byteSize r.format r.width r.height) ≤ s.surfaces.posters.budget)
    (full : ¬ s.posterRoom (pageCount (byteSize r.format r.width r.height))) (evictable : s.evictable = some j) :
    s.loaderBegin = (s.evict j).loaderBegin := by
  have evicted := (s.evict_evicted j).1
  rw [State.loaderBegin_allocates free still queue found clear, State.loaderAllocate_evicts afford full evictable]
  refine (State.loaderBegin_allocates (e := e) (q := q) ?_ ?_ ?_ ?_ ?_).symm <;> rw [evicted] <;> assumption

end

/-- What a head that fails leaves, with its waiters answered (R120, R121). -/
theorem State.loaderBegin_fails (queue : s.cache.queue = e :: q) (fails : s.loaderBegin = s.failHead why) :
    s.loaderBegin = { s with
        cache := { s.cache with queue := s.cache.queue.tail, work := .idle }, ports := s.loaderBegin.ports
        counters := { s.counters with
          posters := { s.counters.posters with failures := satSucc s.counters.posters.failures } } }
      ∧ ∀ e', s.cache.queue.head? = some e' → ∀ w ∈ e'.waiters, (s.ports.get w.port).status ≠ .resetting →
        Notice.completion w.tag 0x40 .placeholder (some why) (.poster ⟨0, 0⟩ e'.title none)
          ∈ (s.loaderBegin.ports.get w.port).notices := by
  rw [fails, State.failHead_eq queue why]
  refine ⟨s.headGone.answerWaiters_portsOnly .., fun e' head w mem alive => ?_⟩
  obtain rfl : e = e' := by simpa [queue] using head
  exact State.mem_answerWaiters mem alive

end Sys2Proof.Machine
end

section
/-! SUPPORT. RELOAD DIRECTORY and the ends of a reload (R112, R128, R129, R145, R193), and LOADER BEGIN (R120, R121). -/

namespace Sys2Proof.Machine

variable {s u : State} {p : Port} {f : Frame} {rest : List Frame} {w : Waiter} {d : DirLoad} {data : List Byte}
  {x : FlashRange} {work : LoaderWork}

/-! ## RELOAD DIRECTORY (R128) -/

theorem reloadDirectory_denied (plain : (u.ports.get p).maintainer = false) :
    reloadDirectory p f u = u.complete p f .denied .none := by
  simp [reloadDirectory, plain]

section
variable (maintainer : (u.ports.get p).maintainer = true)
include maintainer

theorem reloadDirectory_busy (busy : u.cache.reload ≠ none) : reloadDirectory p f u = u.complete p f .busy .none := by
  simp [reloadDirectory, maintainer, Option.isSome_iff_ne_none.mpr busy]

variable (still : u.cache.reload = none)
include still

theorem reloadDirectory_accepted : reloadDirectory p f u =
    let t := (u.enter p f).modCache (fun c => { c with reload := some ⟨p, f.tag⟩ })
    if t.cache.work.free then t.beginReload.giveNext else t := by
  simp [reloadDirectory, maintainer, still]

end

/-! ## Reads asked for at the end of a read (R137, R138) -/

/-- The loader has asked for its next read, and the next grant has gone round. -/
theorem State.askRead_settled (x : FlashRange) (work : LoaderWork) (s : State) :
    let t := (s.askRead x work).giveNext.settle
    t = { s with
      cache := { s.cache with work := work }, arbiter := t.arbiter, ports := t.ports
      counters := { s.counters with port := t.counters.port } }
    ∧ t.arbiter = ({ s.arbiter with request := some x } : Arbiter).giveNext :=
  ⟨State.giveNext_settle _, State.giveNext_settle_arbiter _⟩

/-! ## The ends of a reload (R112, R129) -/

/-- The source of a directory load: configured, its count clamped, and in range (R189). -/
theorem dirSource_eq_some {off : Option Nat} {count o n size : Nat} {crc k : Word32} :
    dirSource off count crc size = some (o, n, k) ↔
      off = some o ∧ n = min count 4096 ∧ k = crc ∧ o + n * 19 ≤ size := by
  unfold dirSource
  cases off with
  | none => simp
  | some o' =>
    dsimp only
    split
    · next fits =>
      simp only [Option.some.injEq, Prod.mk.injEq]
      constructor
      · rintro ⟨rfl, rfl, rfl⟩
        exact ⟨rfl, rfl, rfl, fits⟩
      · rintro ⟨rfl, rfl, rfl, -⟩
        exact ⟨rfl, rfl, rfl⟩
    · next far =>
      refine ⟨nofun, fun ⟨same, clamped, _, fits⟩ => absurd ?_ far⟩
      cases same
      exact clamped ▸ fits

theorem dirSource_eq_none {off : Option Nat} {count size : Nat} {crc : Word32} :
    dirSource off count crc size = none ↔ ∀ o, off = some o → size < o + min count 4096 * 19 := by
  unfold dirSource
  cases off with
  | none => simp
  | some o => simp

/-- The directory load of a reload whose bytes have all been read ends the reload (R112, R129). -/
theorem State.directoryGo_reload (reload : s.cache.reload = some w) (started : s.startUp.starting = false)
    (all : d.count * 19 ≤ d.got.length) :
    let t := (s.ungranted.directoryGo d).giveNext.settle
    (crc32 d.got ≠ d.crc → s.ReloadFailed t w)
    ∧ (crc32 d.got = d.crc → ∃ rs removed stale, DirectoryOf d.count s.arbiter.deviceSize d.got rs
      ∧ s.Reloaded t (some rs) removed stale
      ∧ ((s.ports.get w.port).status ≠ .resetting →
          Notice.completion w.tag 0x43 (if rs.length = d.count then .ok else .directoryTruncated) none
            (.reload rs.length removed.length stale) ∈ (t.ports.get w.port).notices)) := by
  intro t
  have go (l : Option (List DirRecord)) (st : DirStatus) (result : d.result s.arbiter.deviceSize = (l, st)) :
      t = (s.ungranted.reloadFinish l st).giveNext.settle := by
    have ends := State.directoryGo_ends (s := s.ungranted) all
    rw [State.directoryEnd, if_neg (by simp [State.ungranted, started]),
      show s.ungranted.arbiter.deviceSize = s.arbiter.deviceSize from rfl, result] at ends
    exact congrArg (fun v : State => v.giveNext.settle) ends
  refine ⟨fun differs => ?_, fun agrees => ?_⟩
  · rw [go none .noDirectory (DirLoad.result_mismatch differs _)]
    exact State.reloadFinish_fails reload _
  · obtain ⟨rs, records, result⟩ := DirLoad.result_match agrees s.arbiter.deviceSize
    obtain ⟨removed, stale, reloaded, told⟩ := State.reloadFinish_loads reload rs d.count
    rw [← go _ _ result] at reloaded told
    exact ⟨rs, removed, stale, records, reloaded, told⟩

/-- A reload whose image is bad ends without a directory (R129). -/
theorem State.reloadConfigStep_bad (bad : imageValid data = false) :
    s.reloadConfigStep data = s.reloadFinish none .noDirectory := by
  simp [State.reloadConfigStep, bad]

theorem State.reloadConfigStep_good (good : imageValid data = true) : s.reloadConfigStep data =
    s.beginDirectory (dirSource (parseImage data).dirOffset (parseImage data).dirCount (parseImage data).dirCrc
      s.arbiter.deviceSize) := by
  simp [State.reloadConfigStep, good]

/-- Outside start-up no source of a directory ends the reload. -/
theorem State.beginDirectory_none (started : s.startUp.starting = false) :
    s.beginDirectory none = s.reloadFinish none .noDirectory := by
  simp [State.beginDirectory, State.directoryEnd, started]

/-- Settles O55: LOADER BEGIN case by case of R120, RELOAD DIRECTORY by its checks, and the ends of a reload by what the
directory load gives. -/
theorem loaderBeginAndReloadTaken : Obligations.LoaderBeginAndReloadTaken := by
  refine ⟨?begin, fun s p f rest takes => ⟨fun plain => ?denied, fun maintainer busy => ?busy, ?accepted, ?ends⟩⟩
  case begin =>
    intro s awake started pc fails
    have run := exec_loaderBegin awake started
    refine ⟨fun busy => ?_, fun free still => ⟨fun empty => ?_, fun e q queue => ?_⟩⟩
    · rw [run, State.loaderBegin_stays busy]
    · rw [run, State.loaderBegin_empty free still empty]
      rfl
    have fails' {why : PlaceholderReason} (same : s.loaderBegin = s.failHead why) : fails why :=
      ⟨_, run, State.loaderBegin_fails queue same⟩
    have refused {why : PlaceholderReason} (refused : s.cache.lookup e.title = .error why) : fails why :=
      fails' (State.loaderBegin_refused free still queue refused)
    refine ⟨fun none' => refused (PosterCache.lookup_noDirectory none'),
      fun d has => ⟨fun unlisted => refused (PosterCache.lookup_unknown has unlisted), ?_⟩⟩
    intro r found n held account overlaps room
    have overlapping : s.arbiter.overlapping ⟨r.offset, r.length⟩ = true ↔ overlaps := by
      simp only [Arbiter.overlapping_iff, FlashOpKind.overlaps_iff, overlaps, ← exists_and_left]
    refine ⟨fun bad => refused (PosterCache.lookup_bad has found bad), fun fine hits => ?_, fun fine clear => ?_⟩
    · rw [run, State.loaderBegin_waits free still queue (PosterCache.lookup_ok has found fine) (overlapping.mpr hits)]
      rfl
    have clear' := mt overlapping.mp clear
    have ok := PosterCache.lookup_ok has found fine
    have allocates := State.loaderBegin_allocates free still queue ok clear'
    refine ⟨fun short => fails' (allocates.trans ?_), fun afford full j first => ?_, ?_⟩
    · rcases short with poor | ⟨full, allHeld⟩
      · exact State.loaderAllocate_noBudget rfl poor
      · exact State.loaderAllocate_stuck rfl full (List.find?_eq_none.mpr fun j mem => by
          simpa [State.inHoldSets, held, or_iff_not_imp_left] using allHeld j mem)
    · have evicted := (s.evict_evicted j).1
      refine ⟨s.evict j, ?_, s.evict_evicted j⟩
      rw [run, exec_loaderBegin (by rw [evicted]; exact awake) (by rw [evicted]; exact started),
        State.loaderBegin_evicts free still queue ok clear' afford full first]
    · intro room i g pos entry before read
      have lowest := SurfaceManager.lowestFree_eq_some.mpr ⟨pos, ⟨g, entry⟩, before⟩
      rw [run, allocates, State.loaderAllocate_room rfl room lowest]
      refine ⟨_, rfl, ?_, Arbiter.giveNext_loadingRange _, Arbiter.giveNext_queues _,
        Arbiter.requests (a := { s.arbiter with loadingRange := some ⟨r.offset, r.length⟩, request := some read }) rfl⟩
      simp only [State.fillBegun, SurfaceManager.allocate, entry]
      rfl
  case denied =>
    exact congrArg Host.Outcome.next (takes.answers (reloadDirectory_denied (by simpa [State.dequeued] using plain)))
  case busy =>
    exact congrArg Host.Outcome.next
      (takes.answers (reloadDirectory_busy (by simpa [State.dequeued] using maintainer) busy))
  case accepted =>
    intro maintainer still idle
    have accepted : exec (.reloadDirectory p) s = .next
        (let t := (s.dispatched p f rest).modCache (fun c => { c with reload := some ⟨p, f.tag⟩ })
         if t.cache.work.free then t.beginReload.giveNext else t) := by
      refine congrArg Host.Outcome.next ((takes.taking _).trans ?_)
      exact (reloadDirectory_accepted (u := s.dequeued p rest) (by simpa [State.dequeued] using maintainer) still).trans
        (by rw [State.dequeued, State.enter_taken])
    refine ⟨fun busy => accepted.trans (congrArg _ (if_neg (mt LoaderWork.free_iff.mp busy))), fun free => ?_⟩
    rw [accepted]
    refine ⟨_, congrArg _ (if_pos (LoaderWork.free_iff.mpr free)), rfl, Arbiter.giveNext_reread _,
      Arbiter.giveNext_queues _, ?_⟩
    obtain ⟨busy, next, alone⟩ := Arbiter.requests (x := imageRange)
      (a := { s.arbiter with reread := true, request := some imageRange }) rfl
    exact ⟨busy, next, fun free' none' => ⟨(alone free' none').1, (alone free' none').2.1⟩⟩
  case ends =>
    intro s r w awake started granted reload data c good ends
    have run := exec_loaderReadEnd awake granted
    refine ⟨?_, fun d loading all => ?_⟩
    · intro config valid count
      have step : s.ungranted.loaderStep data
          = s.ungranted.beginDirectory (dirSource c.dirOffset c.dirCount c.dirCrc s.arbiter.deviceSize) := by
        simp only [State.loaderStep, show s.ungranted.cache.work = .reloadConfig from config]
        exact State.reloadConfigStep_good valid
      rw [step] at run
      refine ⟨fun far => ?_, fun off at' fits => ?_⟩
      · rw [dirSource_eq_none.mpr far, State.beginDirectory_none (s := s.ungranted) started] at run
        exact ⟨_, run, State.reloadFinish_fails reload _⟩
      · rw [dirSource_eq_some.mpr ⟨at', rfl, rfl, fits⟩] at run
        refine ⟨fun zero => ?_, fun more => ?_⟩
        · rw [show min c.dirCount 4096 = 0 from zero] at run
          exact ⟨_, run, State.directoryGo_reload (d := ⟨off, 0, c.dirCrc, []⟩) reload started (Nat.le_of_eq (Nat.zero_mul _))⟩
        · have more' := State.directoryGo_more (s := s.ungranted) (d := ⟨off, count, c.dirCrc, []⟩)
            (Nat.mul_pos (Nat.pos_of_ne_zero more) (by decide))
          rw [State.beginDirectory, more'] at run
          obtain ⟨frame, arbiter⟩ := s.ungranted.askRead_settled ⟨off, min 4096 (count * 19)⟩
            (.directory ⟨off, count, c.dirCrc, []⟩)
          obtain ⟨queues, -, -, alone, -⟩ := s.arbiter.asked ⟨off, min 4096 (count * 19)⟩
          refine ⟨_, run, frame, ?_, fun none' => ?_⟩
          · exact (congrArg Arbiter.queues arbiter).trans queues
          · exact (congrArg Arbiter.grant arbiter).trans (alone none')
    · have step : s.ungranted.loaderStep data = s.ungranted.directoryGo { d with got := d.got ++ data } := by
        simp only [State.loaderStep, show s.ungranted.cache.work = .directory d from loading]
      rw [step] at run
      exact ⟨_, run, State.directoryGo_reload (d := { d with got := d.got ++ data }) reload started all⟩

end Sys2Proof.Machine
end

section
/-! SUPPORT. The bytes of a loader read (R134, R188), the tests of an image (R188), and the page that a transaction of a load
stores (R14, R122). -/

namespace Sys2Proof.Machine

variable {s t : State} {r : FlashRange} {pages bad : List Nat} {data : List Byte} {i k n page : Nat} {x : Surface}
  {work : LoaderWork}

/-! ## The bytes of a read (R134, R188) -/

/-- In the read mode of the board the bytes are those of the flash. -/
theorem State.flashRead_bytes (answer : s.lanes.answer s.arbiter.mode = .bytes) :
    s.flashRead r = (List.range r.length).map (fun j => s.flash.read Config.flashBlank (r.offset + j)) := by
  rcases s.flashRead_cases r with ⟨-, e⟩ | ⟨other, -⟩ | ⟨other, -⟩
  · rw [e, Memory.readRun_eq]
  · rw [answer] at other; cases other
  · rw [answer] at other; cases other

theorem State.flashRead_garbled (answer : s.lanes.answer s.arbiter.mode = .garbled) : s.flashRead r =
    (List.range r.length).map (fun j => Config.strayFlashByte s.arbiter.mode.lanes (r.offset + j)) := by
  simp only [State.flashRead, answer]

/-- The front of an image that no flash answers is not the signature (log 7). -/
theorem State.flashRead_silent (answer : s.lanes.answer s.arbiter.mode = .silent) (start : r.offset = 0)
    (long : 4 ≤ r.length) : u32 (s.flashRead r) 0 ≠ imageSignature := by
  have front (k : Nat) (hk : k < 4) : (s.flashRead r).getD k 0
      = (failSignature ((List.range 4).map (Config.strayFlashByte s.arbiter.mode.lanes))).getD k 0 := by
    have : k < r.length := by omega
    simp [State.flashRead, answer, start, List.getD_eq_getElem?_getD, silentByte, hk, this]
  have fails := failSignature_ne ((List.range 4).map (Config.strayFlashByte s.arbiter.mode.lanes)) (by simp)
  simpa only [u32, u16, u8, front 0 (by omega), front 1 (by omega), front 2 (by omega), front 3 (by omega), Nat.zero_add,
    Nat.reduceAdd] using fails

/-! ## The tests of an image (R188) -/

theorem u32_lt (b : List Byte) (i : Nat) : u32 b i < 2 ^ 32 := by
  have h0 := (b.getD i 0).isLt
  have h1 := (b.getD (i + 1) 0).isLt
  have h2 := (b.getD (i + 2) 0).isLt
  have h3 := (b.getD (i + 2 + 1) 0).isLt
  simp only [u32, u16, u8]
  omega

theorem imageValid_iff (b : List Byte) : imageValid b = true ↔ u32 b 0 = 0x3F71A6C2 ∧ u16 b 4 = 1 ∧ u32 b 6 = 95
    ∧ (crc32 ((b.take 95).drop 14)).toNat = u32 b 10 := by
  have crc : crc32 ((b.take imageBytes).drop 14) = BitVec.ofNat 32 (u32 b 10) ↔
      (crc32 ((b.take 95).drop 14)).toNat = u32 b 10 := by
    rw [BitVec.toNat_eq, BitVec.toNat_ofNat, Nat.mod_eq_of_lt (u32_lt b 10)]
    rfl
  simp only [imageValid, Bool.and_eq_true, beq_iff_eq, crc, and_assoc]
  rfl

/-! ## The page of a transaction (R14, R122) -/

/-- A run that begins at a page of the list and is no longer than one is stored there, where that page is good. -/
theorem writePages_page (m : Memory) (entry : pages[k]? = some page) (nodup : pages.Nodup) (short : data.length ≤ 4096) :
    (page ∉ bad → ∀ j, j < data.length →
      (writePages bad (k * 4096) data 0 pages m).1.read Config.frameBlank (page * 4096 + j) = data.getD j 0)
    ∧ ∀ a, page ∈ bad ∨ a < page * 4096 ∨ page * 4096 + data.length ≤ a →
      (writePages bad (k * 4096) data 0 pages m).1.read Config.frameBlank a = m.read Config.frameBlank a := by
  refine ⟨fun good j hj => ?_, fun a out => ?_⟩
  · have stored := read_writePages_of_written (bad := bad) (bs := data) (off := k * 4096) (x := page * 4096 + j) 0 m nodup
      entry good (by omega) (by omega) (by omega)
    rwa [show (0 + k) * 4096 + (page * 4096 + j) % 4096 - k * 4096 = j by omega] at stored
  · refine read_writePages_of_unwritten pages 0 m fun e pg entry' good ha range => ?_
    obtain rfl : e = k := by omega
    obtain rfl : pg = page := Option.some.inj (entry'.symm.trans entry)
    have place := Nat.div_add_mod a 4096
    rcases out with bad | low | high
    · exact good bad
    · omega
    · omega

/-- The pages of the surface that a load fills. -/
def State.pagesOf (s : State) (i : Nat) : List Nat := ((s.surfaceAt i).map (·.pages)).getD []

/-- What a transaction of a load, of `n` bytes, leaves in frame memory: its bytes in the page of its number, where that page is
good, and nothing else (R14, R122). -/
def State.StoredPage (s t : State) (data : List Byte) (n i k : Nat) : Prop :=
  ∀ x page, s.surfaceAt i = some x → x.pages[k]? = some page → x.pages.Nodup → n ≤ 4096 →
    (page ∉ s.errors.bad → ∀ j, j < n →
      t.frame.read Config.frameBlank (page * 4096 + j) = data.getD j 0)
    ∧ ∀ a, page ∈ s.errors.bad ∨ a < page * 4096 ∨ page * 4096 + n ≤ a →
        t.frame.read Config.frameBlank a = s.frame.read Config.frameBlank a

theorem State.storedPage_of_frame (i k : Nat) (length : data.length = n) (frame :
      t.frame = (writePages s.errors.bad (k * 4096) data 0 (s.pagesOf i) s.frame).1) : s.StoredPage t data n i k := by
  intro x page at' entry nodup short
  subst length
  have pages : s.pagesOf i = x.pages := by simp [State.pagesOf, at']
  rw [frame, pages]
  exact writePages_page s.frame entry nodup short

/-- The state after the bytes of a transaction went to their page. -/
def State.stored (s : State) (i k : Nat) (data : List Byte) : State := (s.writeSurface (s.pagesOf i) (k * 4096) data).1

/-- A transaction of a fill before its last stores its bytes and asks for the next (R122). -/
theorem State.fillEnd_continues {l : Fill} (more : (l.k + 1) * 4096 < l.length) : s.fillEnd l data =
    (s.stored l.surface l.k data).askRead ⟨l.offset + (l.k + 1) * 4096, min 4096 (l.length - (l.k + 1) * 4096)⟩
      (.filling { l with k := l.k + 1, crc := crc32Run l.crc data }) := by
  simp only [State.fillEnd, State.fillStep, if_pos more]
  rfl

/-- The last transaction of a fill stores its bytes, and the entry ends (R123). -/
theorem State.fillStep_ends {l : Fill} (all : l.length ≤ (l.k + 1) * 4096) : s.fillStep l data =
    (s.stored l.surface l.k data).loadEnd { l with k := l.k + 1, crc := crc32Run l.crc data } := by
  simp only [State.fillStep, if_neg (Nat.not_lt.mpr all)]
  rfl

end Sys2Proof.Machine
end

section
/-! SUPPORT. The end of a fill (R122, R123, R128): the waiters that are granted, the place of the poster, the entry that fails,
and the reload that waited. -/

namespace Sys2Proof.Machine

variable {s t u v : State} {h : Handle} {x y : Surface} {i title : Nat} {w : Waiter} {ws : List Waiter} {l : Fill}
  {e : LoadEntry} {q : List LoadEntry} {st : Status} {why : Option PlaceholderReason} {res : Result}

/-! ## The waiters of a poster that is there (R123) -/

/-- A surface whose counts were raised by the waiters of each port. -/
def Surface.granted (x : Surface) (ws : List Waiter) : Surface :=
  { x with refs := ⟨x.refs.a + (ws.filter (fun w => w.port = .a)).length,
                    x.refs.b + (ws.filter (fun w => w.port = .b)).length⟩ }

theorem Surface.granted_cons (x : Surface) (w : Waiter) (ws : List Waiter) : x.granted (w :: ws) =
    ({ x with refs := x.refs.set w.port (x.refs.get w.port + 1) } : Surface).granted ws := by
  obtain ⟨port, tag⟩ := w
  cases port <;> simp [Surface.granted, PerPort.set, PerPort.get, Nat.add_assoc, Nat.add_comm]

theorem State.withSurface_self (hr : u.resolve h = some x) : u.withSurface h x = u := by
  have same : u.surfaces.entries.set h.index ⟨h.gen, some x⟩ = u.surfaces.entries := by
    obtain ⟨lt, entry⟩ := List.getElem?_eq_some_iff.mp (State.resolve_eq_some.mp hr)
    rw [← entry, List.set_getElem_self]
  rw [State.withSurface, same]

theorem State.withSurface_withSurface (u : State) (h : Handle) (x y : Surface) :
    (u.withSurface h x).withSurface h y = u.withSurface h y := by
  simp only [State.withSurface, List.set_set]

theorem State.completeHeld_withSurface (p : Port) (c : Cmd) (tag : Byte) (u : State) (y : Surface) :
    (u.completeHeld p c tag st why res).withSurface h y = (u.withSurface h y).completeHeld p c tag st why res := by
  unfold State.completeHeld State.deliver
  exact apply_ite (fun v : State => v.withSurface h y) _ _ _

/-- Each waiter raises its port's count and is answered with the poster's handle and size. -/
theorem State.grantWaiters_eq (hr : u.resolve h = some y) : u.grantWaiters h.index title ws =
    (u.withSurface h (y.granted ws)).answerWaiters ws .ok none (.poster h title (some (y.width, y.height, y.format))) := by
  induction ws generalizing u y with
  | nil => exact (State.withSurface_self hr).symm
  | cons w ws ih =>
    let y' : Surface := { y with refs := y.refs.set w.port (y.refs.get w.port + 1) }
    have counted := State.resolve_withSurface hr y'
    have step : u.grantWaiters h.index title (w :: ws) = State.grantWaiters h.index title ws
        ((u.withSurface h y').completeHeld w.port .loadPoster w.tag .ok none
          (.poster h title (some (y.width, y.height, y.format)))) := by
      simp only [State.grantWaiters, List.foldl_cons, State.modSurface_of_resolve hr]
      rw [State.posterResult_of_resolve (State.resolve_of_set hr rfl)]
      rfl
    have kept : ((u.withSurface h y').completeHeld w.port .loadPoster w.tag .ok none
        (.poster h title (some (y.width, y.height, y.format)))).resolve h = some y' := by
      rw [State.completeHeld_portsOnly w.port]
      exact counted
    rw [step, ih kept, State.completeHeld_withSurface, State.withSurface_withSurface, Surface.granted_cons]
    rfl

/-! ## The place of a poster that is there (R114, R115, R123) -/

/-- The poster is in use, joins the idle list or the stale list, or is given back. -/
def State.landed (i : Nat) (t : State) : State :=
  if t.inMap i then (if t.pinned i then t else t.joinIdle i)
  else if t.pinned i then
    t.modCache (fun c => if c.stale.contains i then c else { c with stale := c.stale ++ [i] })
  else t.freePoster i

/-- The state in which a fill has ended: the poster is there, the head is gone, and nothing is being loaded. -/
def State.fillDone (s : State) (h : Handle) (x : Surface) (ps : PerPort PortState) : State :=
  { s.withSurface h x with
    cache := { s.cache with queue := s.cache.queue.drop 1, work := .idle }
    arbiter := { s.arbiter with loadingRange := none }, ports := ps }

/-- The end of a fill of the right CRC. -/
theorem State.loadEnd_agrees (hr : s.resolve h = some x) (surface : l.surface = h.index) (queue : s.cache.queue = e :: q)
    (agrees : crc32Final l.crc = l.imageCrc) : ∃ ps,
      s.loadEnd l = (s.fillDone h (({ x with state := .resident } : Surface).granted e.waiters) ps).landed l.surface
      ∧ ∀ w ∈ e.waiters, (s.ports.get w.port).status ≠ .resetting →
        Notice.completion w.tag 0x40 .ok none (.poster h l.title (some (x.width, x.height, x.format)))
          ∈ (ps.get w.port).notices := by
  let y : Surface := { x with state := .resident }
  let res : Result := .poster h l.title (some (y.width, y.height, y.format))
  let v := (s.withSurface h (y.granted e.waiters)).answerWaiters e.waiters .ok none res
  refine ⟨v.ports, ?_, fun w mem alive => State.mem_answerWaiters mem alive⟩
  have granted : State.grantWaiters l.surface l.title e.waiters
      (s.modSurface l.surface (fun x => { x with state := .resident })) = v := by
    rw [surface, State.modSurface_of_resolve hr]
    refine (State.grantWaiters_eq (State.resolve_withSurface hr y)).trans ?_
    rw [State.withSurface_withSurface]
  have done : v.leaveHead = s.fillDone h (y.granted e.waiters) v.ports := by
    have only : (s.withSurface h (y.granted e.waiters)).PortsOnly v := State.answerWaiters_portsOnly ..
    rw [only]
    rfl
  unfold State.loadEnd
  rw [if_pos agrees]
  simp only [queue, List.head?_cons, Option.map_some, Option.getD_some]
  rw [granted, done]
  rfl

/-- What placing the poster leaves of the state. -/
theorem State.landed_eq (i : Nat) (t : State) : t.landed i = { t with
    surfaces := (t.landed i).surfaces, layers := (t.landed i).layers
    cache := { t.cache with idle := (t.landed i).cache.idle, stale := (t.landed i).cache.stale } } := by
  unfold State.landed
  split
  · split
    · rfl
    · unfold State.joinIdle State.modCache
      dsimp only
      split <;> rfl
  · split
    · unfold State.modCache
      dsimp only
      split <;> rfl
    · have given := (t.freePoster_curated i).eq
      rw [State.freePoster_cache] at given
      rw [State.freePoster_cache]
      exact given

/-- Where the poster of a handle goes, by the map and by what names it. -/
theorem State.landed_places (hr : t.resolve h = some x) (poster : x.kind = .poster) (resident : x.state = .resident) :
    let inMap : Prop := ∃ m ∈ t.cache.map, m.surface = h.index
    let pinned : Prop := x.refs.a ≠ 0 ∨ x.refs.b ≠ 0 ∨ namesHandle t.layers h
    let joined (xs : List Nat) : List Nat := if h.index ∈ xs then xs else xs ++ [h.index]
    (inMap ∨ pinned → (t.landed h.index).surfaces = t.surfaces)
    ∧ (¬ inMap → ¬ pinned → t.GivenBack (t.landed h.index) h.index h.gen x)
    ∧ (inMap → ¬ pinned → (t.landed h.index).cache.idle = joined t.cache.idle)
    ∧ (¬ inMap ∨ pinned → (t.landed h.index).cache.idle = t.cache.idle)
    ∧ (¬ inMap → pinned → (t.landed h.index).cache.stale = joined t.cache.stale)
    ∧ (inMap ∨ ¬ pinned → (t.landed h.index).cache.stale = t.cache.stale) := by
  intro inMap pinned joined
  have mapped : t.inMap h.index = true ↔ inMap := State.inMap_iff
  have pins : t.pinned h.index = true ↔ pinned := State.pinned_iff hr
  by_cases m : inMap
  · by_cases p : pinned
    · have stays : t.landed h.index = t := (if_pos (mapped.mpr m)).trans (if_pos (pins.mpr p))
      simp [stays, m, p]
    · have idles : t.landed h.index = t.joinIdle h.index := (if_pos (mapped.mpr m)).trans (if_neg (mt pins.mp p))
      by_cases mem : h.index ∈ t.cache.idle <;> simp [idles, m, p, joined, State.joinIdle, State.modCache, mem]
  · by_cases p : pinned
    · have stales : t.landed h.index = t.modCache (fun c =>
          if c.stale.contains h.index then c else { c with stale := c.stale ++ [h.index] }) :=
        (if_neg (mt mapped.mp m)).trans (if_pos (pins.mpr p))
      by_cases mem : h.index ∈ t.cache.stale <;> simp [stales, m, p, joined, State.modCache, mem]
    · have frees : t.landed h.index = t.freePoster h.index := (if_neg (mt mapped.mp m)).trans (if_neg (mt pins.mp p))
      have given := State.retireOrFree_givenBack hr (by simp [poster])
      rw [← State.freePoster_resident hr poster resident] at given
      have cache := State.freePoster_cache h.index t
      simp [frees, m, p, given, cache]

/-! ## The entry that fails (R123) -/

/-- The state in which a fill of the wrong CRC has ended. -/
def State.fillFailed (s : State) (l : Fill) (ps : PerPort PortState) : State :=
  { s.freePoster l.surface with
    cache := { s.cache with
      directory := s.cache.directory.map (markBad l.title)
      map := s.cache.map.filter (fun m => m.surface ≠ l.surface), queue := s.cache.queue.tail, work := .idle }
    counters := { s.counters with
      posters := { s.counters.posters with failures := satSucc s.counters.posters.failures } }
    arbiter := { s.arbiter with loadingRange := none }, ports := ps }

theorem State.loadEnd_differs (queue : s.cache.queue = e :: q) (differs : crc32Final l.crc ≠ l.imageCrc) : ∃ ps,
    s.loadEnd l = s.fillFailed l ps ∧ ∀ w ∈ e.waiters, (s.ports.get w.port).status ≠ .resetting →
      Notice.completion w.tag 0x40 .placeholder (some .badImage) (.poster ⟨0, 0⟩ e.title none)
        ∈ (ps.get w.port).notices := by
  let c : PosterCache := { s.cache with
    directory := s.cache.directory.map (markBad l.title), map := s.cache.map.filter (fun m => m.surface ≠ l.surface) }
  let u : State := { s.freePoster l.surface with cache := c, arbiter := s.arbiter }
  have curated := (s.freePoster_curated l.surface).eq
  have freed : ((s.modCache (fun c => { c with directory := c.directory.map (markBad l.title) })).unmap
      l.surface).freePoster l.surface = u := s.freePoster_congr l.surface c s.arbiter
  have fails := State.failHead_eq (s := u) queue .badImage
  let v := u.headGone.answerWaiters e.waiters .placeholder (some .badImage) (.poster ⟨0, 0⟩ e.title none)
  have only : u.headGone.PortsOnly v := State.answerWaiters_portsOnly ..
  refine ⟨v.ports, ?_, fun w mem alive => State.mem_answerWaiters mem ?_⟩
  · unfold State.loadEnd
    dsimp only
    rw [if_neg differs, freed, fails, show State.answerWaiters _ _ _ _ _ = v from rfl, only]
    simp only [State.fillFailed, State.headGone, u]
    rw [curated]
    rfl
  · simp only [State.headGone, u]
    rw [curated]
    exact alive

/-- A surface that was being loaded is free after its fill failed. -/
theorem State.fillFailed_gone (hr : s.resolve h = some x) (surface : l.surface = h.index) (poster : x.kind = .poster)
    (loading : x.state = .loading) (ps : PerPort PortState) : (s.fillFailed l ps).surfaceAt l.surface = none := by
  have frees : s.freePoster h.index = s.becomeFree h.index := by
    simp [State.freePoster, State.surfaceAt_of_resolve hr, poster, loading]
  rw [surface]
  refine surfaceAt_of_set (e' := ⟨h.gen + 1, none⟩) (State.resolve_eq_some.mp hr) ?_
  simp only [State.fillFailed, surface, frees, State.becomeFree_of_resolve hr (show x.kind ≠ .fallback by simp [poster])]
  rfl

/-! ## The reload that waited (R128) -/

theorem State.giveNext_settle_cache (u : State) : u.giveNext.settle.cache = u.cache := by rw [u.giveNext_settle]

theorem Arbiter.nextGiven_reread {a : Arbiter} (free : a.grant = none) :
    ({ a with reread := a.giveNext.reread } : Arbiter).NextGiven a.giveNext := by
  rw [Arbiter.giveNext_reread]
  exact Arbiter.nextGiven_giveNext free

/-- Once the loader serves no entry, a reload that waited begins. -/
def State.goOn (u : State) : State := if u.cache.work.free && u.cache.reload.isSome then u.beginReload else u

theorem State.fillEnd_eq (l : Fill) (data : List Byte) (s : State) : s.fillEnd l data = (s.fillStep l data).goOn := rfl

theorem State.goOn_cases (u : State) : u.goOn = u ∨ u.goOn = u.beginReload := by
  unfold State.goOn
  split
  · exact .inr rfl
  · exact .inl rfl

/-- What going on and the next grant leave of the rest of the state. -/
theorem State.goOn_settled (u : State) : let t := u.goOn.giveNext.settle
    t = { u with
      cache := { u.cache with work := t.cache.work }, arbiter := t.arbiter, ports := t.ports
      counters := { u.counters with port := t.counters.port } } ∧ u.KeepsNotices t := by
  rcases u.goOn_cases with same | same <;> rw [same]
  · refine ⟨?_, u.giveNext_settle_keepsNotices⟩
    rw [u.giveNext_settle_cache]
    exact u.giveNext_settle
  · refine ⟨?_, (u.keepsNotices_refl.of_ports rfl).trans u.beginReload.giveNext_settle_keepsNotices⟩
    rw [u.beginReload.giveNext_settle_cache]
    exact u.beginReload.giveNext_settle

/-- What the end of an entry leaves of the loader and of the arbiter (R128, R137, R138; log 35): the loading range is cleared, and
the next grant goes round, behind the request of the reload that waited. -/
def State.Freed (s t : State) : Prop :=
  t.arbiter.loadingRange = none ∧ t.cache.reload = s.cache.reload
  ∧ Arbiter.NextGiven
      { s.arbiter with
        grant := none, loadingRange := none, reread := t.arbiter.reread
        request := if s.cache.reload = none then s.arbiter.request else some ⟨0, 95⟩ } t.arbiter
  ∧ (s.cache.reload = none → t.cache.work = .idle)
  ∧ (s.cache.reload ≠ none → t.cache.work = .reloadConfig ∧ t.arbiter.reread = true
      ∧ (s.arbiter.queues = ⟨[], []⟩ → t.arbiter.grant = some (.loader ⟨0, 95⟩)))

/-- The grant that goes round at the end of an entry, and the reload that begins with it (log 35). -/
theorem State.goOn_freed (work : u.cache.work = .idle) (reload : u.cache.reload = s.cache.reload)
    (arbiter : u.arbiter = { s.arbiter with grant := none, loadingRange := none }) :
    s.Freed u.goOn.giveNext.settle := by
  unfold State.Freed
  rw [u.goOn.giveNext_settle_cache, u.goOn.giveNext_settle_arbiter]
  by_cases still : s.cache.reload = none
  · let a : Arbiter := { s.arbiter with grant := none, loadingRange := none }
    have stays : u.goOn = u := if_neg (by simp [reload, still])
    rw [stays, arbiter, work, if_pos still]
    exact ⟨Arbiter.giveNext_loadingRange _, reload, Arbiter.nextGiven_reread (a := a) rfl, fun _ => rfl,
      fun waits => absurd still waits⟩
  · let a : Arbiter := { s.arbiter with
      grant := none, loadingRange := none, reread := true, request := some imageRange }
    have begins : u.goOn = u.beginReload :=
      if_pos (by simp [work, LoaderWork.free, reload, Option.isSome_iff_ne_none.mpr still])
    have request : u.beginReload.arbiter = a := by
      rw [State.beginReload, State.askRead, State.modArbiter, State.modCache, State.modArbiter, arbiter]
    rw [begins, request, if_neg still]
    refine ⟨Arbiter.giveNext_loadingRange a, reload, Arbiter.nextGiven_reread (a := a) rfl,
      fun none' => absurd none' still, fun _ => ⟨rfl, Arbiter.giveNext_reread a, fun alone => ?_⟩⟩
    exact congrArg Arbiter.grant (Arbiter.giveNext_loader (a := a) rfl rfl alone)

end Sys2Proof.Machine
end

section
/-! SUPPORT. LOADER READ END while a poster is being loaded (R122, R123, R128). -/

namespace Sys2Proof.Machine

variable {s t u : State} {r x : FlashRange} {l : Fill} {e : LoadEntry} {q : List LoadEntry} {y : SurfaceEntry} {z : Surface}

/-! ## The next read that is asked for (R137, R138) -/

/-- What a loader that asks for its next read leaves of the arbiter: the request takes part in the next grant, behind the
requesters after the turn. -/
def State.Asks (s t : State) (x : FlashRange) : Prop :=
  t.arbiter.queues = s.arbiter.queues ∧ t.arbiter.loadingRange = s.arbiter.loadingRange
  ∧ Arbiter.NextGiven { t.arbiter with grant := none, request := some x, turn := s.arbiter.turn } t.arbiter
  ∧ (s.arbiter.queues = ⟨[], []⟩ → t.arbiter.grant = some (.loader x))
  ∧ ∀ tag off len ops, s.arbiter.turn = .loader → s.arbiter.queues.a = ⟨tag, .read off len⟩ :: ops →
      t.arbiter.grant = some (.port .a ⟨tag, .read off len⟩) ∧ t.arbiter.request = some x

/-- A read asked for from an arbiter of the same queues, loading range and turn. -/
theorem State.asks_of {a : Arbiter} (arbiter : t.arbiter = ({ a with grant := none, request := some x } : Arbiter).giveNext)
    (queues : a.queues = s.arbiter.queues) (range : a.loadingRange = s.arbiter.loadingRange)
    (turn : a.turn = s.arbiter.turn) : s.Asks t x := by
  rw [State.Asks, arbiter, ← queues, ← range, ← turn]
  exact a.asked x

/-! ## A fill (R122, R123) -/

section
variable (awake : s.startUp.resetPin = false) (granted : s.arbiter.grant = some (.loader r)) (work : s.cache.work = .filling l)
include awake granted work

theorem exec_loaderReadEnd_fill : exec .loaderReadEnd s =
    .next (s.ungranted.fillEnd l (s.flashRead r)).giveNext.settle := by
  have step : s.ungranted.loaderStep (s.flashRead r) = s.ungranted.fillEnd l (s.flashRead r) := by
    simp only [State.loaderStep, show s.ungranted.cache.work = .filling l from work]
  rw [exec_loaderReadEnd awake granted, step]

/-- A transaction before the last. -/
theorem exec_loaderReadEnd_fill_more (more : (l.k + 1) * 4096 < l.length) : ∃ t, exec .loaderReadEnd s = .next t
    ∧ t = { s with
            frame := t.frame
            cache := { s.cache with work := .filling { l with k := l.k + 1, crc := crc32Run l.crc (s.flashRead r) } }
            arbiter := t.arbiter, ports := t.ports, counters := { s.counters with port := t.counters.port } }
    ∧ s.Asks t ⟨l.offset + (l.k + 1) * 4096, min 4096 (l.length - (l.k + 1) * 4096)⟩
    ∧ s.StoredPage t (s.flashRead r) r.length l.surface l.k := by
  refine ⟨_, exec_loaderReadEnd_fill awake granted work, ?_⟩
  rw [State.fillEnd_continues more]
  obtain ⟨settled, arbiter⟩ := (s.ungranted.stored l.surface l.k (s.flashRead r)).askRead_settled
    ⟨l.offset + (l.k + 1) * 4096, min 4096 (l.length - (l.k + 1) * 4096)⟩
    (.filling { l with k := l.k + 1, crc := crc32Run l.crc (s.flashRead r) })
  have frame := congrArg State.frame settled
  refine ⟨?_, State.asks_of arbiter rfl rfl rfl, State.storedPage_of_frame _ _ (s.length_flashRead r) frame⟩
  rw [frame]
  exact settled

variable (all : l.length ≤ (l.k + 1) * 4096) (queue : s.cache.queue = e :: q)
  (entry : s.surfaces.entries[l.surface]? = some y) (body : y.body = some z) (poster : z.kind = .poster)
include all queue entry body poster

/-- The last transaction, of the right CRC. -/
theorem exec_loaderReadEnd_fill_agrees (agrees : crc32Final (crc32Run l.crc (s.flashRead r)) = l.imageCrc) :
    ∃ t, exec .loaderReadEnd s = .next t ∧ s.StoredPage t (s.flashRead r) r.length l.surface l.k
      ∧ t.cache.queue = q ∧ s.Freed t ∧ t.cache.directory = s.cache.directory
      ∧ (∀ w ∈ e.waiters, (s.ports.get w.port).status ≠ .resetting → Notice.completion w.tag 0x40 .ok none
          (.poster ⟨l.surface, y.gen⟩ l.title (some (z.width, z.height, z.format))) ∈ (t.ports.get w.port).notices)
      ∧ (let h : Handle := ⟨l.surface, y.gen⟩
         let z' := ({ z with state := .resident } : Surface).granted e.waiters
         let inMap : Prop := ∃ m ∈ s.cache.map, m.surface = l.surface
         let pinned : Prop := z'.refs.a ≠ 0 ∨ z'.refs.b ≠ 0 ∨ namesHandle s.layers h
         let joined (xs : List Nat) : List Nat := if l.surface ∈ xs then xs else xs ++ [l.surface]
         t.cache.map = s.cache.map
         ∧ (inMap ∨ pinned → t.surfaces = (s.withSurface h z').surfaces)
         ∧ (¬ inMap → ¬ pinned → (s.withSurface h z').GivenBack t l.surface y.gen z')
         ∧ (inMap → ¬ pinned → t.cache.idle = joined s.cache.idle)
         ∧ (¬ inMap ∨ pinned → t.cache.idle = s.cache.idle)
         ∧ (¬ inMap → pinned → t.cache.stale = joined s.cache.stale)
         ∧ (inMap ∨ ¬ pinned → t.cache.stale = s.cache.stale)) := by
  obtain ⟨g, b⟩ := y
  obtain rfl : b = some z := body
  let h : Handle := ⟨l.surface, g⟩
  let v := s.ungranted.stored l.surface l.k (s.flashRead r)
  have hr : v.resolve h = some z := State.resolve_eq_some.mpr entry
  obtain ⟨ps, ended, told⟩ := State.loadEnd_agrees (l := { l with k := l.k + 1, crc := crc32Run l.crc (s.flashRead r) })
    hr rfl queue agrees
  let w := v.fillDone h (({ z with state := .resident } : Surface).granted e.waiters) ps
  have hw : w.resolve h = some (({ z with state := .resident } : Surface).granted e.waiters) := State.resolve_of_set hr rfl
  refine ⟨_, exec_loaderReadEnd_fill awake granted work, ?_⟩
  rw [State.fillEnd_eq, State.fillStep_ends all, show v.loadEnd _ = w.landed l.surface from ended]
  have landed := w.landed_eq l.surface
  have freed : s.Freed (w.landed l.surface).goOn.giveNext.settle :=
    State.goOn_freed (congrArg (·.cache.work) landed) (congrArg (·.cache.reload) landed) (congrArg State.arbiter landed)
  obtain ⟨settled, keeps⟩ := (w.landed l.surface).goOn_settled
  obtain ⟨surfaces, given, idle, idle', stale, stale'⟩ := State.landed_places hw poster rfl
  generalize (w.landed l.surface).goOn.giveNext.settle = t at settled keeps freed
  refine ⟨State.storedPage_of_frame _ _ (s.length_flashRead r)
    ((congrArg State.frame settled).trans (congrArg State.frame landed)), ?_, freed, ?_, fun w' mem alive => ?_, ?_⟩
  · refine (congrArg (·.cache.queue) settled).trans ((congrArg (·.cache.queue) landed).trans ?_)
    rw [show w.cache.queue = s.cache.queue.drop 1 from rfl, queue]
    rfl
  · exact (congrArg (·.cache.directory) settled).trans (congrArg (·.cache.directory) landed)
  · refine (keeps w'.port).mem ?_
    rw [congrArg State.ports landed]
    exact told w' mem alive
  · intro h z' inMap pinned joined
    have tSurfaces : t.surfaces = (w.landed l.surface).surfaces := congrArg (·.surfaces) settled
    have tLayers : t.layers = (w.landed l.surface).layers := congrArg (·.layers) settled
    have tIdle : t.cache.idle = (w.landed l.surface).cache.idle := congrArg (·.cache.idle) settled
    have tStale : t.cache.stale = (w.landed l.surface).cache.stale := congrArg (·.cache.stale) settled
    refine ⟨(congrArg (·.cache.map) settled).trans (congrArg (·.cache.map) landed), fun m => tSurfaces.trans (surfaces m),
      fun m p => ?_, fun m p => tIdle.trans (idle m p), fun m => tIdle.trans (idle' m),
      fun m p => tStale.trans (stale m p), fun m => tStale.trans (stale' m)⟩
    have given := given m p
    unfold State.GivenBack at given ⊢
    rw [tSurfaces, tLayers]
    exact given

/-- The last transaction, of a wrong CRC. -/
theorem exec_loaderReadEnd_fill_differs (loading : z.state = .loading)
    (differs : crc32Final (crc32Run l.crc (s.flashRead r)) ≠ l.imageCrc) :
    ∃ t, exec .loaderReadEnd s = .next t ∧ s.StoredPage t (s.flashRead r) r.length l.surface l.k
      ∧ t.cache.queue = q ∧ s.Freed t ∧ t.cache.directory = s.cache.directory.map (markBad l.title)
      ∧ t.counters.posters = { s.counters.posters with failures := satSucc s.counters.posters.failures }
      ∧ t.surfaceAt l.surface = none ∧ (∀ m ∈ t.cache.map, m.surface ≠ l.surface)
      ∧ ∀ w ∈ e.waiters, (s.ports.get w.port).status ≠ .resetting →
          Notice.completion w.tag 0x40 .placeholder (some .badImage) (.poster ⟨0, 0⟩ e.title none)
            ∈ (t.ports.get w.port).notices := by
  obtain ⟨g, b⟩ := y
  obtain rfl : b = some z := body
  let l' : Fill := { l with k := l.k + 1, crc := crc32Run l.crc (s.flashRead r) }
  let v := s.ungranted.stored l.surface l.k (s.flashRead r)
  have hr : v.resolve ⟨l.surface, g⟩ = some z := State.resolve_eq_some.mpr entry
  obtain ⟨ps, ended, told⟩ := State.loadEnd_differs (s := v) (l := l') queue differs
  have gone : (v.fillFailed l' ps).surfaceAt l.surface = none := State.fillFailed_gone hr rfl poster loading ps
  have frame : (v.fillFailed l' ps).frame = v.frame := congrArg (·.frame) (v.freePoster_curated l.surface).eq
  refine ⟨_, exec_loaderReadEnd_fill awake granted work, ?_⟩
  rw [State.fillEnd_eq, State.fillStep_ends all, ended]
  have freed : s.Freed (v.fillFailed l' ps).goOn.giveNext.settle := State.goOn_freed rfl rfl rfl
  obtain ⟨settled, keeps⟩ := (v.fillFailed l' ps).goOn_settled
  generalize (v.fillFailed l' ps).goOn.giveNext.settle = t at settled keeps freed
  refine ⟨State.storedPage_of_frame _ _ (s.length_flashRead r) ((congrArg State.frame settled).trans frame), ?_, freed,
    congrArg (·.cache.directory) settled, congrArg (·.counters.posters) settled,
    (congrArg (·.surfaceAt l.surface) settled).trans gone, fun m mem => ?_,
    fun w mem alive => (keeps w.port).mem (told w mem alive)⟩
  · refine (congrArg (·.cache.queue) settled).trans ?_
    rw [show (v.fillFailed l' ps).cache.queue = s.cache.queue.tail from rfl, queue]
    rfl
  · rw [congrArg (·.cache.map) settled] at mem
    simpa using (List.mem_filter.mp mem).2

end

end Sys2Proof.Machine
end

section
/-! SUPPORT. The end of start-up (R191, R192): what its steps keep of the values that the configuration gave, the outputs that
start, the RESTART that completes, and surface 0 filled with the damage colour. -/

namespace Sys2Proof.Machine

variable {s t u v : State} {p : Port} {r : FlashRange} {n i k : Nat} {data : List Byte}

/-! ## The settings of the ports (R189) -/

/-- The values of a port that only start-up sets (R189). -/
def PortState.settings (q : PortState) : Bool × Nat × Nat := (q.maintainer, q.quietTime, q.holdTime)

/-- Whether no port's settings differ. -/
def State.SameSettings (s t : State) : Prop := ∀ p, (t.ports.get p).settings = (s.ports.get p).settings

theorem State.SameSettings.trans (h : s.SameSettings t) (k : t.SameSettings u) : s.SameSettings u := fun p =>
  (k p).trans (h p)

theorem State.sameSettings_refl (s : State) : s.SameSettings s := fun _ => rfl

theorem State.Serves.sameSettings (h : s.Serves t) : s.SameSettings t := fun p => by rw [(h p).2.2]; rfl

theorem State.modPort_sameSettings (p : Port) (f : PortState → PortState) (s : State)
    (same : (f (s.ports.get p)).settings = (s.ports.get p).settings) : s.SameSettings (s.modPort p f) := fun p' => by
  by_cases e : p' = p
  · subst e
    rw [State.modPort_ports, PerPort.get_set, same]
  · rw [State.modPort_get_ne e]

theorem State.portChange_sameSettings (p : Port) (s : State) : s.SameSettings (s.portChange p) := by
  unfold State.portChange State.notifyIf
  split
  · rcases s.notify_cases p.other (.portChange p (s.ports.get p).status) with ⟨-, e⟩ | ⟨-, -, e⟩ | ⟨-, -, e⟩ <;> rw [e]
    · exact s.sameSettings_refl
    · exact s.modPort_sameSettings p.other (fun q => q.join _) rfl
    · exact s.modPort_sameSettings p.other (fun q => { q with lost := satSucc255 q.lost }) rfl
  · exact s.sameSettings_refl

theorem State.settlePort_sameSettings (p : Port) (s : State) : s.SameSettings (s.settlePort p) := by
  cases h : (s.ports.get p).status with
  | detaching =>
    rcases State.settlePort_detaching h with ⟨-, e⟩ | ⟨tag, -, -, e⟩ <;> rw [e]
    · exact s.sameSettings_refl
    · have completed := (s.completeHeld_serves p .detach tag .ok none (.detach (s.ports.get p).cancelled)).sameSettings
      have ended : s.SameSettings (s.detachEnded p tag) := completed.trans (State.modPort_sameSettings p _ _ rfl)
      exact ended.trans (State.portChange_sameSettings p _)
  | resetting =>
    rcases State.settlePort_resetting h with ⟨-, e⟩ | ⟨-, e⟩ | ⟨-, -, e⟩ <;> rw [e]
    · exact s.sameSettings_refl
    · exact s.modPort_sameSettings p _ rfl
    · have ended : s.SameSettings (s.resetEnded p) := s.modPort_sameSettings p _ rfl
      exact ended.trans (State.portChange_sameSettings p _)
  | absent | detached | attached =>
    rw [State.settlePort_stays (by simp [h]) (by simp [h])]
    exact s.sameSettings_refl

theorem State.settle_sameSettings (s : State) : s.SameSettings s.settle :=
  (s.settlePort_sameSettings .a).trans (State.settlePort_sameSettings .b _)

/-! ## What start-up keeps of a configuration -/

/-- What the steps of start-up after the configuration leave as it set it: the timing, the surfaces, the damage colour, the two
sources, the read mode and the notes, the device size, and the settings of the ports. -/
structure State.StartKept (u v : State) : Prop where
  timing : ∀ o, (v.outputs.get o).timing = (u.outputs.get o).timing
  surfaces : v.surfaces = u.surfaces
  colour : v.startUp.damageColour = u.startUp.damageColour
  dirSource : v.startUp.dirSource = u.startUp.dirSource
  fallbackSource : v.startUp.fallbackSource = u.startUp.fallbackSource
  mode : v.startUp.status.mode = u.startUp.status.mode
  notes : v.startUp.status.notes =
    { u.startUp.status.notes with fallbackFailed := v.startUp.status.notes.fallbackFailed }
  deviceSize : v.arbiter.deviceSize = u.arbiter.deviceSize
  settings : u.SameSettings v

theorem State.StartKept.trans (h : u.StartKept v) (k : v.StartKept t) : u.StartKept t where
  timing o := (k.timing o).trans (h.timing o)
  surfaces := k.surfaces.trans h.surfaces
  colour := k.colour.trans h.colour
  dirSource := k.dirSource.trans h.dirSource
  fallbackSource := k.fallbackSource.trans h.fallbackSource
  mode := k.mode.trans h.mode
  notes := by rw [k.notes, h.notes]
  deviceSize := k.deviceSize.trans h.deviceSize
  settings := h.settings.trans k.settings

theorem State.askRead_startKept (r : FlashRange) (work : LoaderWork) (u : State) : u.StartKept (u.askRead r work) :=
  ⟨fun _ => rfl, rfl, rfl, rfl, rfl, rfl, rfl, rfl, u.sameSettings_refl⟩

theorem State.giveNext_settle_startKept (u : State) : u.StartKept u.giveNext.settle := by
  have settings : u.SameSettings u.giveNext.settle := u.giveNext.settle_sameSettings
  have arbiter := u.giveNext_settle_arbiter
  have settled := u.giveNext_settle
  generalize u.giveNext.settle = v at settings arbiter settled
  have size : v.arbiter.deviceSize = u.arbiter.deviceSize := by rw [arbiter, Arbiter.giveNext_deviceSize]
  rw [settled] at size settings ⊢
  exact ⟨fun _ => rfl, rfl, rfl, rfl, rfl, rfl, rfl, size, settings⟩

/-! ## Start-up finishes (R192) -/

/-- The state at the end of start-up, the ports apart. -/
def State.running (u : State) (ps : PerPort PortState) : State :=
  { u with
    outputs := ⟨u.outputs.o0.bringUp u.errors.fault, u.outputs.o1.bringUp u.errors.fault⟩
    startUp := { u.startUp with starting := false, restart := none }, cache := { u.cache with work := .idle }, ports := ps }

/-- Start-up finishes with the outputs brought up and the RESTART that waited completed. -/
theorem State.finishStart_eq (u : State) : ∃ ps, u.finishStart = u.running ps ∧ u.Serves (u.running ps)
    ∧ ∀ x, u.startUp.restart = some x → (u.ports.get x.port).status ≠ .resetting →
      Notice.completion x.tag 0x03 .ok none (.restart (if u.errors.fault then .fault else .running) u.startUp.status
        (!(u.startUp.straps.a && u.startUp.straps.b)) x.discarded) ∈ (ps.get x.port).notices := by
  let v := u.running u.ports
  cases waits : u.startUp.restart with
  | none =>
    refine ⟨u.ports, ?_, State.serves_of_ports rfl, nofun⟩
    unfold State.finishStart State.completeRestart
    simp only [State.modCache, waits]
    unfold State.running
    rw [← waits]
  | some x =>
    have finished : u.finishStart = v.completeHeld x.port .restart x.tag .ok none
        (.restart v.part v.startUp.status v.singlePort x.discarded) := by
      unfold State.finishStart State.completeRestart
      simp only [State.modCache, waits]
      rfl
    have only := v.completeHeld_portsOnly x.port .restart x.tag .ok none
      (.restart v.part v.startUp.status v.singlePort x.discarded)
    have serves := v.completeHeld_serves x.port .restart x.tag .ok none
      (.restart v.part v.startUp.status v.singlePort x.discarded)
    refine ⟨_, finished.trans only, serves, fun y same alive => ?_⟩
    cases same
    exact State.mem_completeHeld alive

/-- What the end of start-up leaves of the rest of the state. -/
theorem State.finishStart_leaves (u : State) : let t := u.finishStart.giveNext.settle
    t.surfaces = u.surfaces ∧ t.cache = { u.cache with work := .idle } ∧ t.frame = u.frame
    ∧ t.startUp.status = u.startUp.status := by
  obtain ⟨ps, finished, -, -⟩ := u.finishStart_eq
  rw [finished]
  have settled := (u.running ps).giveNext_settle
  generalize (u.running ps).giveNext.settle = t at settled
  exact ⟨congrArg (·.surfaces) settled, congrArg (·.cache) settled, congrArg (·.frame) settled,
    congrArg (·.startUp.status) settled⟩

end Sys2Proof.Machine
end

section
/-! SUPPORT. What follows the directory of start-up (R191, R192): the fallback load, or surface 0 filled and start-up finished. -/

namespace Sys2Proof.Machine

variable {s t u v : State} {n k : Nat} {data : List Byte} {d : DirLoad}

/-! ## The damage colour (R191) -/

theorem flatten_replicate_pair (a b : Byte) (k : Nat) : (List.replicate k [a, b]).flatten.length = 2 * k
    ∧ ∀ n, n < 2 * k → (List.replicate k [a, b]).flatten.getD n 0 = [a, b].getD (n % 2) 0 := by
  induction k with
  | zero => simp
  | succ k ih =>
    obtain ⟨length, bytes⟩ := ih
    rw [List.replicate_succ, List.flatten_cons]
    refine ⟨by rw [List.length_append, length]; simp; omega, fun n hn => ?_⟩
    match n with
    | 0 => rfl
    | 1 => rfl
    | n + 2 =>
      rw [Nat.add_mod_right, ← bytes n (by omega)]
      rfl

theorem damageFill_length (c : Rgb) : (damageFill c).length = 172800 := (flatten_replicate_pair _ _ 86400).1

theorem damageFill_getD (c : Rgb) (hn : n < 172800) : (damageFill c).getD n 0 = (b16 c.word565).getD (n % 2) 0 :=
  (flatten_replicate_pair _ _ 86400).2 n hn

/-- Surface 0 holds the damage colour in every byte of a good page. -/
theorem State.read_damageFill {pages bad : List Nat} (m : Memory) (c : Rgb) (length : pages.length = 43)
    (nodup : pages.Nodup) (hn : n < 172800) (good : pages.getD (n / 4096) 0 ∉ bad) :
    (writePages bad 0 (damageFill c) 0 pages m).1.read Config.frameBlank (pages.getD (n / 4096) 0 * 4096 + n % 4096)
      = (b16 c.word565).getD (n % 2) 0 := by
  have lt : n / 4096 < pages.length := by omega
  have entry : pages[n / 4096]? = some (pages.getD (n / 4096) 0) := by simp [lt]
  generalize pages.getD (n / 4096) 0 = page at entry good
  have stored := read_writePages_of_written (bs := damageFill c) (off := 0) (x := page * 4096 + n % 4096) 0 m nodup entry
    good (by omega) (by omega) (by rw [damageFill_length]; omega)
  rw [show (0 + n / 4096) * 4096 + (page * 4096 + n % 4096) % 4096 - 0 = n by omega] at stored
  rw [stored]
  exact damageFill_getD c hn

/-! ## The states of start-up -/

/-- What the configuration and the steps after it leave of a state `s` for the end of start-up: the outputs apart from their
timing, the RESTART that waits, the straps, the errors, the state of the ports, the pages of surface 0, and the arbiter's
queues, loading range and turn, without a grant. -/
structure State.StartsFrom (s u : State) : Prop where
  outputs : ∀ o, u.outputs.get o = { s.outputs.get o with timing := (u.outputs.get o).timing }
  restart : u.startUp.restart = s.startUp.restart
  straps : u.startUp.straps = s.startUp.straps
  errors : u.errors = s.errors
  status : ∀ p, (u.ports.get p).status = (s.ports.get p).status
  pages : u.fallbackPages = s.fallbackPages
  queues : u.arbiter.queues = s.arbiter.queues
  range : u.arbiter.loadingRange = s.arbiter.loadingRange
  turn : u.arbiter.turn = s.arbiter.turn
  free : u.arbiter.grant = none

theorem State.startsFrom_ungranted (s : State) : s.StartsFrom s.ungranted :=
  ⟨fun _ => rfl, rfl, rfl, rfl, fun _ => rfl, rfl, rfl, rfl, rfl, rfl⟩

theorem State.StartsFrom.stored (h : s.StartsFrom u) (k : Nat) (data : List Byte) : s.StartsFrom (u.stored 0 k data) :=
  ⟨h.outputs, h.restart, h.straps, h.errors, h.status, h.pages, h.queues, h.range, h.turn, h.free⟩

theorem State.StartsFrom.fallbackFail (h : s.StartsFrom u) : s.StartsFrom u.fallbackFail :=
  ⟨h.outputs, h.restart, h.straps, h.errors, h.status, h.pages, h.queues, h.range, h.turn, h.free⟩

/-! ## The end of start-up (R192) -/

theorem OutputState.bringUp_on {q : OutputState} (on : q.timing.enabled = true) (fault : Bool) : q.bringUp fault = { q with
    running := true, leadIn := true, fieldCount := 0, acc := 0, panel := .blanked, pen := true, nextLine := 0, work := none
    ahead := [], line := [], forcedBlank := fault } := if_pos on

theorem OutputState.bringUp_off {q : OutputState} (off : q.timing.enabled = false) (fault : Bool) : q.bringUp fault = q :=
  if_neg (by simp [off])

theorem OutputState.bringUp_timing (q : OutputState) (fault : Bool) : (q.bringUp fault).timing = q.timing := by
  unfold OutputState.bringUp
  split <;> rfl

theorem State.running_outputs (u : State) (ps : PerPort PortState) (o : OutputId) :
    (u.running ps).outputs.get o = (u.outputs.get o).bringUp u.errors.fault := by cases o <;> rfl

theorem State.finishStart_startKept (u : State) : u.StartKept u.finishStart := by
  obtain ⟨ps, finished, serves, -⟩ := u.finishStart_eq
  rw [finished]
  exact ⟨fun o => by rw [State.running_outputs, OutputState.bringUp_timing], rfl, rfl, rfl, rfl, rfl, rfl, rfl,
    serves.sameSettings⟩

/-- The end of start-up, with all that it leaves. -/
theorem State.StartsFrom.finished (h : s.StartsFrom u) : s.Finished u.finishStart.giveNext.settle := by
  obtain ⟨ps, finished, -, told⟩ := u.finishStart_eq
  rw [finished]
  have settled := (u.running ps).giveNext_settle
  have keeps := (u.running ps).giveNext_settle_keepsNotices
  generalize (u.running ps).giveNext.settle = t at settled keeps
  have outputs (o : OutputId) : t.outputs.get o = (u.outputs.get o).bringUp s.errors.fault := by
    rw [← h.errors, ← State.running_outputs u ps o, settled]
  have timing (o : OutputId) : (t.outputs.get o).timing = (u.outputs.get o).timing := by
    rw [outputs, OutputState.bringUp_timing]
  have startUp : t.startUp = { u.startUp with starting := false, restart := none } := congrArg (·.startUp) settled
  refine ⟨⟨by rw [startUp], congrArg (·.cache.work) settled⟩, fun o => ⟨fun on => ?_, fun off => ?_⟩,
    by rw [startUp], fun x waits alive => (keeps x.port).mem ?_⟩
  · rw [State.outputEnabled, timing] at on
    rw [timing, outputs, OutputState.bringUp_on on, h.outputs o]
  · rw [State.outputEnabled, timing] at off
    rw [timing, outputs, OutputState.bringUp_off off]
    exact h.outputs o
  · have completed := told x (h.restart.trans waits) (by rwa [h.status])
    rw [h.errors, h.straps] at completed
    rw [startUp]
    exact completed

/-- Start-up that finishes without a fallback poster: surface 0 is filled, and the status notes it (R191). -/
theorem State.StartsFrom.filled (h : s.StartsFrom u) : s.FallbackFilled u.fallbackFail.finishStart.giveNext.settle := by
  obtain ⟨ps, finished, -, -⟩ := u.fallbackFail.finishStart_eq
  have settled := (u.fallbackFail.running ps).giveNext_settle
  rw [finished]
  generalize (u.fallbackFail.running ps).giveNext.settle = t at settled
  have frame : t.frame = (writePages s.errors.bad 0 (damageFill t.startUp.damageColour) 0 s.fallbackPages u.frame).1 := by
    rw [settled, ← h.errors, ← h.pages]
    rfl
  refine ⟨congrArg (·.startUp.status.notes.fallbackFailed) settled, fun length nodup n hn good => ?_⟩
  rw [frame]
  exact State.read_damageFill _ _ length nodup hn good

/-! ## The fallback load begins (R191) -/

theorem State.beginFallback_none (none' : u.startUp.fallbackSource = none) :
    u.beginFallback = u.fallbackFail.finishStart := by
  simp only [State.beginFallback, none']

theorem State.beginFallback_some {off : Nat} {crc : Word32} (source : u.startUp.fallbackSource = some (off, crc)) :
    u.beginFallback = u.askRead ⟨off, 4096⟩ (.fallback off crc 0 crc32Init) := by
  simp only [State.beginFallback, source]
  rfl

/-- What the fallback load and the end of start-up keep of the configuration and of the directory. -/
theorem State.beginFallback_keeps (u : State) : let t := u.beginFallback.giveNext.settle
    u.StartKept t ∧ t.cache.directory = u.cache.directory ∧ t.arbiter.reread = u.arbiter.reread
    ∧ t.startUp.status.directory = u.startUp.status.directory ∧ t.startUp.status.records = u.startUp.status.records
    ∧ (u.startUp.fallbackSource ≠ none → t.startUp.status = u.startUp.status) := by
  have began : u.StartKept u.beginFallback ∧ u.beginFallback.cache.directory = u.cache.directory
      ∧ u.beginFallback.arbiter.reread = u.arbiter.reread
      ∧ u.beginFallback.startUp.status.directory = u.startUp.status.directory
      ∧ u.beginFallback.startUp.status.records = u.startUp.status.records
      ∧ (u.startUp.fallbackSource ≠ none → u.beginFallback.startUp.status = u.startUp.status) := by
    match source : u.startUp.fallbackSource with
    | some (off, crc) =>
      rw [State.beginFallback_some source]
      exact ⟨u.askRead_startKept _ _, rfl, rfl, rfl, rfl, fun _ => rfl⟩
    | none =>
      have failed : u.StartKept u.fallbackFail :=
        ⟨fun _ => rfl, rfl, rfl, rfl, rfl, rfl, rfl, rfl, u.sameSettings_refl⟩
      have kept := failed.trans u.fallbackFail.finishStart_startKept
      obtain ⟨ps, finished, -, -⟩ := u.fallbackFail.finishStart_eq
      rw [State.beginFallback_none source]
      refine ⟨kept, ?_, ?_, ?_, ?_, fun some' => absurd rfl some'⟩ <;> rw [finished] <;> rfl
  obtain ⟨kept, directory, reread, status⟩ := began
  intro t
  have startUp : t.startUp = u.beginFallback.startUp := congrArg (·.startUp) u.beginFallback.giveNext_settle
  refine ⟨kept.trans u.beginFallback.giveNext_settle_startKept, ?_, ?_, ?_⟩
  · rw [show t.cache = _ from u.beginFallback.giveNext_settle_cache, directory]
  · rw [show t.arbiter = _ from u.beginFallback.giveNext_settle_arbiter, Arbiter.giveNext_reread, reread]
  · rw [startUp]
    exact status

/-- What follows the directory of start-up (R191). -/
theorem State.StartsFrom.afterDirectory (h : s.StartsFrom u) (starting : u.startUp.starting = true)
    (reread : u.arbiter.reread = false) : s.AfterDirectory u.beginFallback.giveNext.settle := by
  obtain ⟨kept, -, reread', -⟩ := u.beginFallback_keeps
  refine ⟨reread'.trans reread, fun off crc source => ?_, fun none' => ?_⟩
  · rw [kept.fallbackSource] at source
    rw [State.beginFallback_some source]
    obtain ⟨settled, arbiter⟩ := u.askRead_settled ⟨off, 4096⟩ (.fallback off crc 0 crc32Init)
    refine ⟨congrArg (·.cache.work) settled, (congrArg (·.startUp.starting) settled).trans starting, fun alone => ?_⟩
    rw [arbiter]
    exact congrArg Arbiter.grant (Arbiter.giveNext_loader (a := { u.arbiter with request := some ⟨off, 4096⟩ }) h.free rfl
      (h.queues.trans alone))
  · rw [kept.fallbackSource] at none'
    rw [State.beginFallback_none none']
    exact ⟨h.fallbackFail.finished, h.filled⟩

/-! ## The directory of start-up (R112, R191) -/

/-- What a directory load of start-up whose bytes have all been read leaves. -/
def State.Loaded (s t : State) (count : Nat) (crc : Word32) (got : List Byte) : Prop :=
  s.AfterDirectory t
  ∧ (crc32 got ≠ crc → t.cache.directory = none ∧ t.startUp.status.directory = .noDirectory
      ∧ t.startUp.status.records = 0)
  ∧ (crc32 got = crc → ∃ rs, t.cache.directory = some rs ∧ DirectoryOf count t.arbiter.deviceSize got rs
      ∧ t.startUp.status.directory = (if rs.length = count then .ok else .truncated)
      ∧ t.startUp.status.records = rs.length)

/-- The state in which the directory of start-up has been loaded, or there is none. -/
def State.withDirectory (u : State) (l : Option (List DirRecord)) (st : DirStatus) : State :=
  { u with
    cache := { u.cache with directory := l }, arbiter := { u.arbiter with reread := false }
    startUp := { u.startUp with
      status := { u.startUp.status with directory := st, records := (l.getD []).length } } }

theorem State.StartsFrom.withDirectory (h : s.StartsFrom u) (l : Option (List DirRecord)) (st : DirStatus) :
    s.StartsFrom (u.withDirectory l st) :=
  ⟨h.outputs, h.restart, h.straps, h.errors, h.status, h.pages, h.queues, h.range, h.turn, h.free⟩

theorem State.withDirectory_startKept (u : State) (l : Option (List DirRecord)) (st : DirStatus) :
    u.StartKept (u.withDirectory l st) :=
  ⟨fun _ => rfl, rfl, rfl, rfl, rfl, rfl, rfl, rfl, u.sameSettings_refl⟩

/-- The end of a directory load of start-up. -/
theorem State.directoryEnd_starting (starting : u.startUp.starting = true) (l : Option (List DirRecord)) (st : DirStatus) :
    u.directoryEnd l st = (u.withDirectory l st).beginFallback := if_pos starting

/-- What the end of a directory load of start-up leaves of the directory and of the status. -/
theorem State.StartsFrom.directoryEnd (h : s.StartsFrom u) (starting : u.startUp.starting = true)
    (l : Option (List DirRecord)) (st : DirStatus) : let t := (u.directoryEnd l st).giveNext.settle
    u.StartKept t ∧ s.AfterDirectory t ∧ t.cache.directory = l ∧ t.startUp.status.directory = st
      ∧ t.startUp.status.records = (l.getD []).length
      ∧ (u.startUp.fallbackSource ≠ none → t.startUp.status.notes = u.startUp.status.notes) := by
  rw [State.directoryEnd_starting starting]
  obtain ⟨kept, directory, -, status, records, notes⟩ := (u.withDirectory l st).beginFallback_keeps
  exact ⟨(u.withDirectory_startKept l st).trans kept, (h.withDirectory l st).afterDirectory starting rfl, directory, status,
    records, fun source => congrArg (·.notes) (notes source)⟩

/-- The end of a directory load of start-up whose bytes have all been read. -/
theorem State.StartsFrom.directoryGo (h : s.StartsFrom u) (starting : u.startUp.starting = true)
    (all : d.count * 19 ≤ d.got.length) : let t := (u.directoryGo d).giveNext.settle
    u.StartKept t ∧ s.Loaded t d.count d.crc d.got
      ∧ (u.startUp.fallbackSource ≠ none → t.startUp.status.notes = u.startUp.status.notes) := by
  rw [State.directoryGo_ends all]
  by_cases agrees : crc32 d.got = d.crc
  · obtain ⟨rs, records, result⟩ := DirLoad.result_match agrees u.arbiter.deviceSize
    rw [result]
    obtain ⟨kept, after, directory, status, count, notes⟩ :=
      h.directoryEnd starting (some rs) (if rs.length = d.count then .ok else .truncated)
    exact ⟨kept, ⟨after, fun differs => absurd agrees differs,
      fun _ => ⟨rs, directory, kept.deviceSize ▸ records, status, count⟩⟩, notes⟩
  · rw [DirLoad.result_mismatch agrees]
    obtain ⟨kept, after, directory, status, count, notes⟩ := h.directoryEnd starting none .noDirectory
    exact ⟨kept, ⟨after, fun _ => ⟨directory, status, count⟩, fun same => absurd same agrees⟩, notes⟩

end Sys2Proof.Machine
end

section
/-! SUPPORT. The configuration read of start-up (R188 to R191): the values that an image gives, each clamped and noted, the budgets,
and the steps that follow. -/

namespace Sys2Proof.Machine

variable {s t u v : State} {c : Image} {m m' : ReadMode} {r : FlashRange} {data : List Byte}

/-! ## The values of an image (R73, R189) -/

theorem TimingRecord.enabled_eq (x : TimingRecord) : x.enabled = (x.flag
    && decide (320 ≤ x.width ∧ x.width ≤ 4096 ∧ 240 ≤ x.height ∧ x.height ≤ 4096 ∧ x.width + 16 ≤ x.htotal
      ∧ x.htotal ≤ 8192 ∧ x.height + 4 ≤ x.vtotal ∧ x.vtotal ≤ 8192 ∧ 25000 ≤ x.pixelKHz ∧ x.pixelKHz ≤ 300000)) := by
  simp only [TimingRecord.enabled, TimingRecord.inRange, Bool.decide_and, Bool.and_assoc]

theorem TimingRecord.disabledNote_eq (x : TimingRecord) : x.disabledNote = (x.flag && !x.enabled) := by
  unfold TimingRecord.disabledNote TimingRecord.enabled
  cases x.flag <;> simp

theorem lt_one_or (n k : Nat) : (decide (n < 1) || decide (k < n)) = (decide (n = 0) || decide (k < n)) := by
  simp only [Nat.lt_one_iff]

/-- A directory that is configured but has no source is out of range. -/
theorem dirRangeNote_eq (off : Option Nat) (count size : Nat) (crc : Word32) :
    dirRangeNote off count size = (off != none && dirSource off count crc size == none) := by
  cases off with
  | none => rfl
  | some o =>
    unfold dirRangeNote dirSource
    dsimp only
    split
    · next fits => simpa using fits
    · next far =>
      rw [decide_eq_true (Nat.lt_of_not_le far)]
      rfl

theorem fallbackRangeNote_eq (c : Image) :
    (c.fallback.isSome && c.fallbackSource.isNone) = (c.fallback != none && c.fallbackSource == none) := by
  cases c.fallback <;> cases c.fallbackSource <;> rfl

theorem Image.fallbackSource_eq_some {off : Nat} {crc : Word32} : c.fallbackSource = some (off, crc) ↔
    c.fallback = some (off, crc) ∧ off + 172800 ≤ c.flashBytes := by
  simp only [Image.fallbackSource, Option.filter_eq_some_iff, decide_eq_true_eq]
  rfl

/-! ## The budgets (R190) -/

theorem sub_min_left (n k : Nat) : n - min n k = n - k := by omega

theorem sub_min_right (n k : Nat) : n - min k n = n - k := by omega

/-- The excess over the pool comes off POSTERS down to 1,024 pages, then off PORT_B, then off PORT_A. -/
theorem reduceBudgets_eq (a b p : Nat) : reduceBudgets a b p =
    (a - (a + b + p - 16320 - min (a + b + p - 16320) (p - 1024) - b),
      b - (a + b + p - 16320 - min (a + b + p - 16320) (p - 1024)),
      p - min (a + b + p - 16320) (p - 1024)) := by
  have pool : Config.poolPages = 16320 := rfl
  unfold reduceBudgets
  dsimp only
  rw [pool, sub_min_left, sub_min_right, sub_min_right]

theorem reduceBudgets_sum (a b p : Nat) :
    (reduceBudgets a b p).1 + (reduceBudgets a b p).2.1 + (reduceBudgets a b p).2.2 ≤ 16320 := by
  rw [reduceBudgets_eq]
  dsimp only
  omega

/-- Settling keeps what the ports have together and the POSTERS budget, and moves an absent port's budget to the present one. -/
theorem settleBudgets_cases (straps : PerPort Bool) (a b p : Nat) : let r := reduceBudgets a b p
    let t := settleBudgets straps a b p
    t.2.2 = r.2.2 ∧ t.1 + t.2.1 = r.1 + r.2.1 ∧ (straps = ⟨true, true⟩ → t.1 = r.1 ∧ t.2.1 = r.2.1)
    ∧ (straps = ⟨true, false⟩ → t.1 = r.1 + r.2.1 ∧ t.2.1 = 0)
    ∧ (straps = ⟨false, true⟩ → t.1 = 0 ∧ t.2.1 = r.1 + r.2.1) := by
  obtain ⟨x, y⟩ := straps
  cases x <;> cases y <;> simp [settleBudgets, Nat.add_comm]

/-! ## The configuration handed out (R189, R190) -/

/-- The state whose flash is read in a mode. -/
def State.inMode (s : State) (m : ReadMode) : State := s.modArbiter (fun a => { a with mode := m })

theorem State.configure_startsFrom (s : State) (m : ReadMode) (c : Image) (d : Bool) :
    s.StartsFrom ((s.ungranted.inMode m).configure c d) :=
  ⟨fun o => by cases o <;> rfl, rfl, rfl, rfl, fun p => by cases p <;> rfl, rfl, rfl, rfl, rfl, rfl⟩

theorem State.configure_timing (c : Image) (d : Bool) (s : State) (o : OutputId) :
    ((s.configure c d).outputs.get o).timing = (c.timing.get o).settled := by cases o <;> rfl

theorem State.configure_settings (c : Image) (d : Bool) (s : State) (p : Port) :
    ((s.configure c d).ports.get p).settings
      = ((c.sections.get p).maintainer, min (c.sections.get p).quiet 1000, min (c.sections.get p).hold 10000) := by
  cases p <;> rfl

/-! ## The steps of a configuration read (R188) -/

/-- A directory load of start-up begins from its source, if it has one with records (R112, R191). -/
theorem State.StartsFrom.beginDirectory (h : s.StartsFrom u) (starting : u.startUp.starting = true)
    (src : Option (Nat × Nat × Word32)) : let t := (u.beginDirectory src).giveNext.settle
    u.StartKept t
    ∧ (∀ off count crc, src = some (off, count, crc) → count ≠ 0 → t.cache.work = .directory ⟨off, count, crc, []⟩
        ∧ t.startUp.starting = true ∧ s.Asks t ⟨off, min 4096 (count * 19)⟩)
    ∧ (∀ off crc, src = some (off, 0, crc) → s.Loaded t 0 crc [])
    ∧ (src = none → t.cache.directory = none ∧ t.startUp.status.directory = .noDirectory
        ∧ t.startUp.status.records = 0 ∧ s.AfterDirectory t)
    ∧ (u.startUp.fallbackSource ≠ none → t.startUp.status.notes = u.startUp.status.notes) := by
  match src with
  | none =>
    obtain ⟨kept, after, directory, status, records, notes⟩ := h.directoryEnd starting none .noDirectory
    exact ⟨kept, nofun, nofun, fun _ => ⟨directory, status, records, after⟩, notes⟩
  | some (off, 0, crc) =>
    obtain ⟨kept, loaded, notes⟩ := h.directoryGo (d := ⟨off, 0, crc, []⟩) starting (Nat.le_of_eq (Nat.zero_mul _))
    exact ⟨kept, fun _ _ _ same pos => by cases same; exact absurd rfl pos, fun _ _ same => by cases same; exact loaded,
      nofun, notes⟩
  | some (off, count + 1, crc) =>
    let x : FlashRange := ⟨off, min 4096 ((count + 1) * 19)⟩
    have more := State.directoryGo_more (s := u) (d := ⟨off, count + 1, crc, []⟩) (Nat.mul_pos (Nat.succ_pos _) (by decide))
    replace more : u.beginDirectory (some (off, count + 1, crc)) = u.askRead x (.directory ⟨off, count + 1, crc, []⟩) := more
    have kept := (u.askRead_startKept x (.directory ⟨off, count + 1, crc, []⟩)).trans (State.giveNext_settle_startKept _)
    obtain ⟨settled, arbiter⟩ := u.askRead_settled x (.directory ⟨off, count + 1, crc, []⟩)
    rw [more]
    refine ⟨kept, fun _ _ _ same _ => ?_, fun _ _ same => by simp at same, nofun,
      fun _ => congrArg (·.startUp.status.notes) settled⟩
    cases same
    refine ⟨congrArg (·.cache.work) settled, (congrArg (·.startUp.starting) settled).trans starting,
      State.asks_of (a := u.arbiter) (arbiter.trans ?_) h.queues h.range h.turn⟩
    rw [← h.free]

section
variable (awake : s.startUp.resetPin = false) (granted : s.arbiter.grant = some (.loader r))
include awake granted

/-- The read of an image that is taken, from flash or from the built-in defaults. -/
theorem exec_loaderReadEnd_applies (work : s.cache.work = .startConfig m)
    (applies : (imageValid (s.flashRead r) = true ∧ c = parseImage (s.flashRead r))
      ∨ (imageValid (s.flashRead r) = false ∧ m = .four ∧ c = defaultImage)) :
    exec .loaderReadEnd s = .next
      ((s.ungranted.inMode (if imageValid (s.flashRead r) then s.arbiter.mode else .one)).applyImage c
        (!imageValid (s.flashRead r))).giveNext.settle := by
  rw [exec_loaderReadEnd awake granted, State.loaderStep_startConfig (s := s.ungranted) work]
  rcases applies with ⟨valid, rfl⟩ | ⟨invalid, rfl, rfl⟩
  · simp only [State.startConfigStep, valid]
    rfl
  · simp only [State.startConfigStep, invalid]
    rfl

/-- An image that is not valid is read in the next mode. -/
theorem exec_loaderReadEnd_rereads (work : s.cache.work = .startConfig m) (invalid : imageValid (s.flashRead r) = false)
    (modes : (m = .one ∧ m' = .two) ∨ (m = .two ∧ m' = .four)) :
    exec .loaderReadEnd s = .next (s.ungranted.readImage m').giveNext.settle := by
  rw [exec_loaderReadEnd awake granted, State.loaderStep_startConfig (s := s.ungranted) work]
  rcases modes with ⟨rfl, rfl⟩ | ⟨rfl, rfl⟩ <;> simp only [State.startConfigStep, invalid] <;> rfl

end

end Sys2Proof.Machine
end

section
/-! SUPPORT. LOADER READ END at start-up (R188 to R192): the notes of an image, the next read mode, and the fallback load. -/

namespace Sys2Proof.Machine

variable {s t u v : State} {m m' : ReadMode} {r : FlashRange} {data : List Byte} {d : DirLoad} {off k : Nat} {crc run : Word32}

/-- The notes of an image, by its fields and its two sources (R189, R190). -/
theorem Image.notes_eq (c : Image) (d f : Bool) : ({ c.notes d with fallbackFailed := f } : ConfigNotes) =
    (let x := c.timing.o0
     let y := c.timing.o1
     { defaultsUsed := d
       output0Disabled := x.flag && !x.enabled, output1Disabled := y.flag && !y.enabled
       lineBudget0 := x.enabled && (x.lineBudget < 4096 || 65536 < x.lineBudget)
       lineBudget1 := y.enabled && (y.lineBudget < 4096 || 65536 < y.lineBudget)
       wakeFields0 := x.enabled && (x.wakeFields = 0 || 64 < x.wakeFields)
       wakeFields1 := y.enabled && (y.wakeFields = 0 || 64 < y.wakeFields)
       flashSize := c.flashMiB = 0 || 256 < c.flashMiB, directoryCount := 4096 < c.dirCount
       directoryRange := c.dirOffset != none && dirSource c.dirOffset c.dirCount c.dirCrc c.flashBytes == none
       fallbackRange := c.fallback != none && c.fallbackSource == none, fallbackFailed := f
       budgetsReduced := 16320 < c.sections.a.budget + c.sections.b.budget + c.posters
       timesA := 1000 < c.sections.a.quiet || 10000 < c.sections.a.hold
       timesB := 1000 < c.sections.b.quiet || 10000 < c.sections.b.hold }) := by
  simp only [Image.notes, TimingRecord.disabledNote_eq, TimingRecord.budgetNote, TimingRecord.wakeNote, lt_one_or,
    dirRangeNote_eq _ _ _ c.dirCrc, fallbackRangeNote_eq]
  rfl

section
variable (awake : s.startUp.resetPin = false) (granted : s.arbiter.grant = some (.loader r))
include awake granted

/-! ## An image that is not valid (R188) -/

theorem exec_loaderReadEnd_nextMode (work : s.cache.work = .startConfig m) (invalid : imageValid (s.flashRead r) = false)
    (modes : (m = .one ∧ m' = .two) ∨ (m = .two ∧ m' = .four)) (alone : s.arbiter.queues = ⟨[], []⟩) :
    ∃ t, exec .loaderReadEnd s = .next t
      ∧ t = { s with
              cache := { s.cache with work := .startConfig m' }, arbiter := t.arbiter, ports := t.ports
              counters := { s.counters with port := t.counters.port } }
      ∧ t.arbiter.mode = m' ∧ t.arbiter.grant = some (.loader ⟨0, 95⟩) := by
  obtain ⟨settled, arbiter⟩ := (s.ungranted.inMode m').askRead_settled imageRange (.startConfig m')
  refine ⟨_, exec_loaderReadEnd_rereads awake granted work invalid modes, settled, ?_, ?_⟩
  · exact (congrArg Arbiter.mode arbiter).trans (Arbiter.giveNext_mode _)
  · refine (congrArg Arbiter.grant arbiter).trans (congrArg Arbiter.grant (Arbiter.giveNext_loader ?_ rfl ?_))
    · rfl
    · exact alone

/-! ## A directory (R112) -/

section
variable (work : s.cache.work = .directory d)
include work

theorem exec_loaderReadEnd_directory : exec .loaderReadEnd s =
    .next (s.ungranted.directoryGo { d with got := d.got ++ s.flashRead r }).giveNext.settle := by
  have step : s.ungranted.loaderStep (s.flashRead r) = s.ungranted.directoryGo { d with got := d.got ++ s.flashRead r } := by
    simp only [State.loaderStep, show s.ungranted.cache.work = .directory d from work]
  rw [exec_loaderReadEnd awake granted, step]

theorem exec_loaderReadEnd_directory_more (more : (d.got ++ s.flashRead r).length < d.count * 19) :
    ∃ t, exec .loaderReadEnd s = .next t
      ∧ t = { s with
              cache := { s.cache with work := .directory { d with got := d.got ++ s.flashRead r } }, arbiter := t.arbiter
              ports := t.ports, counters := { s.counters with port := t.counters.port } }
      ∧ s.Asks t ⟨d.offset + (d.got ++ s.flashRead r).length,
          min 4096 (d.count * 19 - (d.got ++ s.flashRead r).length)⟩ := by
  refine ⟨_, exec_loaderReadEnd_directory awake granted work, ?_⟩
  rw [State.directoryGo_more (d := { d with got := d.got ++ s.flashRead r }) more]
  obtain ⟨settled, arbiter⟩ := s.ungranted.askRead_settled
    ⟨d.offset + (d.got ++ s.flashRead r).length, min 4096 (d.count * 19 - (d.got ++ s.flashRead r).length)⟩
    (.directory { d with got := d.got ++ s.flashRead r })
  exact ⟨settled, State.asks_of arbiter rfl rfl rfl⟩

end

/-! ## The fallback load (R191) -/

section
variable (work : s.cache.work = .fallback off crc k run)
include work

theorem exec_loaderReadEnd_fallback : exec .loaderReadEnd s =
    .next (s.ungranted.fallbackStep off crc k run (s.flashRead r)).giveNext.settle := by
  have step : s.ungranted.loaderStep (s.flashRead r) = s.ungranted.fallbackStep off crc k run (s.flashRead r) := by
    simp only [State.loaderStep, show s.ungranted.cache.work = .fallback off crc k run from work]
  rw [exec_loaderReadEnd awake granted, step]

theorem exec_loaderReadEnd_fallback_more (more : (k + 1) * 4096 < 172800) : ∃ t, exec .loaderReadEnd s = .next t
    ∧ t = { s with
            frame := t.frame, cache := { s.cache with work := .fallback off crc (k + 1) (crc32Run run (s.flashRead r)) }
            arbiter := t.arbiter, ports := t.ports, counters := { s.counters with port := t.counters.port } }
    ∧ s.Asks t ⟨off + (k + 1) * 4096, min 4096 (172800 - (k + 1) * 4096)⟩
    ∧ s.StoredPage t (s.flashRead r) r.length 0 k := by
  have step : s.ungranted.fallbackStep off crc k run (s.flashRead r) = (s.ungranted.stored 0 k (s.flashRead r)).askRead
      ⟨off + (k + 1) * 4096, min 4096 (172800 - (k + 1) * 4096)⟩
      (.fallback off crc (k + 1) (crc32Run run (s.flashRead r))) := if_pos more
  refine ⟨_, exec_loaderReadEnd_fallback awake granted work, ?_⟩
  rw [step]
  obtain ⟨settled, arbiter⟩ := (s.ungranted.stored 0 k (s.flashRead r)).askRead_settled
    ⟨off + (k + 1) * 4096, min 4096 (172800 - (k + 1) * 4096)⟩ (.fallback off crc (k + 1) (crc32Run run (s.flashRead r)))
  have frame := congrArg State.frame settled
  refine ⟨?_, State.asks_of arbiter rfl rfl rfl, State.storedPage_of_frame _ _ (s.length_flashRead r) frame⟩
  rw [frame]
  exact settled

theorem exec_loaderReadEnd_fallback_ends (all : 172800 ≤ (k + 1) * 4096) : ∃ t, exec .loaderReadEnd s = .next t
    ∧ s.Finished t ∧ t.surfaces = s.surfaces ∧ t.cache = { s.cache with work := .idle }
    ∧ (crc32Final (crc32Run run (s.flashRead r)) = crc →
        t.startUp.status = s.startUp.status ∧ s.StoredPage t (s.flashRead r) r.length 0 k)
    ∧ (crc32Final (crc32Run run (s.flashRead r)) ≠ crc → s.FallbackFilled t) := by
  let u := s.ungranted.stored 0 k (s.flashRead r)
  have starts : s.StartsFrom u := s.startsFrom_ungranted.stored k (s.flashRead r)
  have step : s.ungranted.fallbackStep off crc k run (s.flashRead r) =
      if crc32Final (crc32Run run (s.flashRead r)) = crc then u.finishStart else u.fallbackFail.finishStart :=
    if_neg (Nat.not_lt.mpr all)
  refine ⟨_, exec_loaderReadEnd_fallback awake granted work, ?_⟩
  rw [step]
  by_cases agrees : crc32Final (crc32Run run (s.flashRead r)) = crc
  · rw [if_pos agrees]
    obtain ⟨surfaces, cache, frame, status⟩ := u.finishStart_leaves
    exact ⟨starts.finished, surfaces, cache,
      fun _ => ⟨status, State.storedPage_of_frame _ _ (s.length_flashRead r) frame⟩, fun differs => absurd agrees differs⟩
  · rw [if_neg agrees]
    obtain ⟨surfaces, cache, -, -⟩ := u.fallbackFail.finishStart_leaves
    exact ⟨starts.fallbackFail.finished, surfaces, cache, fun same => absurd same agrees, fun _ => starts.filled⟩

end

end

end Sys2Proof.Machine
end

section
/-! SUPPORT. LOADER READ END (O56): the values of a configuration, and the parts of the statement put together. -/

namespace Sys2Proof.Machine

theorem ConfigStatus.eq_of_mode {a b : ConfigStatus} (mode : a.mode = b.mode) :
    a = { b with notes := a.notes, directory := a.directory, records := a.records } := by rw [← mode]

/-- Settles O56: by the loader's work, each part from the lemma on its step. -/
theorem loaderReadEndTaken : Obligations.LoaderReadEndTaken := by
  intro s awake
  refine ⟨exec_loaderReadEnd_idle, ?_⟩
  intro r granted data pc answers asks stored freed usable loaded
  refine ⟨s.length_flashRead r, State.flashRead_bytes, State.flashRead_garbled, State.flashRead_silent, imageValid_iff data,
    ?more, ?ends, ?nextMode, ?configures, ?directory, ?fallback, ?reload⟩
  case more =>
    exact fun l work more => exec_loaderReadEnd_fill_more awake granted work more
  case ends =>
    exact fun l e q y x work all queue entry body poster loading =>
      ⟨exec_loaderReadEnd_fill_agrees awake granted work all queue entry body poster,
        exec_loaderReadEnd_fill_differs awake granted work all queue entry body poster loading⟩
  case nextMode =>
    exact fun m m' work invalid modes alone => exec_loaderReadEnd_nextMode awake granted work invalid modes alone
  case configures =>
    intro m c work starting applies
    let mode : ReadMode := if imageValid data then s.arbiter.mode else .one
    let u := (s.ungranted.inMode mode).configure c (!imageValid data)
    have run : exec .loaderReadEnd s = .next (u.beginDirectory u.startUp.dirSource).giveNext.settle :=
      exec_loaderReadEnd_applies awake granted work applies
    have starts : s.StartsFrom u := State.configure_startsFrom s mode c _
    obtain ⟨kept, reads, empty, none', notes⟩ := starts.beginDirectory starting u.startUp.dirSource
    refine ⟨_, run, ?_⟩
    clear run
    generalize (u.beginDirectory u.startUp.dirSource).giveNext.settle = t at kept reads empty none' notes
    have usable_eq (x : TimingRecord) : usable x = x.enabled := x.enabled_eq.symm
    have dirSource' : t.startUp.dirSource = dirSource c.dirOffset c.dirCount c.dirCrc c.flashBytes := kept.dirSource
    have fallbackSource : t.startUp.fallbackSource = c.fallbackSource := kept.fallbackSource
    have size : t.arbiter.deviceSize = c.flashBytes := kept.deviceSize
    have settings (p : Port) := (kept.settings p).trans (State.configure_settings c (!imageValid data) _ p)
    obtain ⟨posters, ports, both, onlyA, onlyB⟩ :=
      settleBudgets_cases s.startUp.straps c.sections.a.budget c.sections.b.budget c.posters
    have within := reduceBudgets_sum c.sections.a.budget c.sections.b.budget c.posters
    refine ⟨?timing, kept.colour, size, ?sum, ?budgets, ?settings, kept.mode, ?notes, ?reads, ?empty, ?none, ?dirSource,
      ?failed, ?fallbackSource⟩
    case timing =>
      intro o x
      rw [usable_eq, kept.timing o, State.configure_timing]
      rfl
    case sum =>
      rw [← ports, ← posters] at within
      rw [kept.surfaces]
      exact within
    case budgets =>
      rw [reduceBudgets_eq] at posters ports both onlyA onlyB
      rw [kept.surfaces]
      exact ⟨posters, both, onlyA, onlyB, ports⟩
    case settings =>
      intro p
      simpa only [PortState.settings, Prod.mk.injEq] using settings p
    case notes =>
      simp only [usable_eq, dirSource', fallbackSource]
      exact kept.notes.trans (c.notes_eq _ _)
    case reads => exact fun off count crc src more => reads off count crc (kept.dirSource ▸ src) more
    case empty => exact fun off crc src => empty off crc (kept.dirSource ▸ src)
    case none => exact fun src => none' (kept.dirSource ▸ src)
    case dirSource =>
      intro off count crc
      rw [dirSource', size]
      exact dirSource_eq_some
    case failed => exact fun src => congrArg (·.fallbackFailed) (notes (kept.fallbackSource ▸ src))
    case fallbackSource =>
      intro off crc
      rw [fallbackSource, size]
      exact Image.fallbackSource_eq_some
  case directory =>
    refine fun d work => ⟨fun more => exec_loaderReadEnd_directory_more awake granted work more, fun all starting => ?_⟩
    obtain ⟨kept, ended, notes⟩ :=
      s.startsFrom_ungranted.directoryGo (d := { d with got := d.got ++ s.flashRead r }) starting all
    refine ⟨_, exec_loaderReadEnd_directory awake granted work, ?_, kept.fallbackSource, kept.deviceSize, notes, ended⟩
    exact ConfigStatus.eq_of_mode kept.mode
  case fallback =>
    exact fun off crc k run work => ⟨exec_loaderReadEnd_fallback_more awake granted work,
      exec_loaderReadEnd_fallback_ends awake granted work⟩
  case reload =>
    intro w work started invalid reload
    have step : s.ungranted.loaderStep data = s.ungranted.reloadFinish none .noDirectory := by
      simp only [State.loaderStep, show s.ungranted.cache.work = .reloadConfig from work]
      exact State.reloadConfigStep_bad invalid
    refine ⟨_, exec_loaderReadEnd awake granted, ?_⟩
    rw [show s.flashRead r = data from rfl, step]
    exact State.reloadFinish_fails reload _

end Sys2Proof.Machine
end

section
/-! SUPPORT. FLASH READ, FLASH PROGRAM and FLASH ERASE (R139 to R141): the fields of their payloads, their checks, and the grant
that an accepted operation takes on an idle device (R137, R142, R144, R145). -/

namespace Sys2Proof.Machine

variable {s u : State} {p : Port} {c : Cmd} {f : Frame} {rest : List Frame} {a : Arbiter} {op : FlashOp} {k : FlashOpKind}
  {off len : Nat} {data : List Byte}

/-! ## Fields of the payloads (Table 10-10) -/

theorem u32_b32_append (bound : off < 4294967296) (bs : List Byte) : u32 (b32 off ++ bs) 0 = off := by
  simp only [u32, u16, u8, b32, List.cons_append, List.nil_append, List.getD_cons_zero, List.getD_cons_succ, toNat_byte]
  omega

theorem u16_b32_append (bound : len < 65536) : u16 (b32 off ++ b16 len) 4 = len := by
  simp only [u16, u8, b32, b16, List.cons_append, List.nil_append, List.getD_cons_zero, List.getD_cons_succ, toNat_byte]
  omega

/-- A FLASH PROGRAM carries 1 to 256 bytes. -/
theorem Takes.program_length (takes : Takes s p .flashProgram f rest) (payload : f.payload = b32 off ++ data) :
    1 ≤ data.length ∧ data.length ≤ 256 := by
  have fits := Frame.fits_of_cmd? takes.head.command
  simp only [Cmd.fits, payload, List.length_append, Bool.and_eq_true, decide_eq_true_eq, show (b32 off).length = 4 from rfl]
    at fits
  omega

/-! ## The checks (R139, R140, R141) -/

section
variable (bound : off < 4294967296)
include bound

theorem flashRead_eq (short : len < 65536) (payload : f.payload = b32 off ++ b16 len) : flashRead p f u =
    if len = 0 ∨ 256 < len then u.complete p f .badCommand .none
    else if u.arbiter.deviceSize < off + len then u.complete p f .outOfRange .none
    else queueFlashOp p f (.read off len) u := by
  simp only [flashRead, payload, u32_b32_append bound, u16_b32_append short]

theorem flashProgram_eq (length : 1 ≤ data.length ∧ data.length ≤ 256) (payload : f.payload = b32 off ++ data) :
    flashProgram p f u =
      if !(u.ports.get p).maintainer then u.complete p f .denied .none
      else if u.arbiter.deviceSize < off + data.length ∨ off / 256 ≠ (off + data.length - 1) / 256 then
        u.complete p f .outOfRange .none
      else queueFlashOp p f (.program off data) u := by
  have bytes : (b32 off ++ data).drop 4 = data := rfl
  have fits : ¬ (data.length = 0 ∨ 256 < data.length) := by omega
  simp only [flashProgram, payload, u32_b32_append bound, bytes, if_neg fits]

theorem flashErase_eq (payload : f.payload = b32 off) : flashErase p f u =
    if !(u.ports.get p).maintainer then u.complete p f .denied .none
    else if off % 65536 ≠ 0 ∨ u.arbiter.deviceSize < off + 65536 then u.complete p f .outOfRange .none
    else queueFlashOp p f (.erase off) u := by
  have offset : u32 (b32 off) 0 = off := u32_b32_append bound []
  simp only [flashErase, payload, offset]

end

@[simp] theorem State.dequeued_arbiter : (s.dequeued p rest).arbiter = s.arbiter := rfl

@[simp] theorem State.dequeued_maintainer : ((s.dequeued p rest).ports.get p).maintainer = (s.ports.get p).maintainer := by
  simp [State.dequeued]

/-! ## An accepted operation (R135, R137, R177) -/

/-- The arbiter whose queue of a port an operation has joined at the tail. -/
def Arbiter.joined (a : Arbiter) (p : Port) (op : FlashOp) : Arbiter :=
  { a with queues := a.queues.set p (a.queues.get p ++ [op]) }

/-- An operation that the port queues gets an in-flight entry, and the next grant goes round. -/
theorem Takes.queuesFlashOp {owner : Frame → State → State} (takes : Takes s p c f rest)
    (own : owner f (s.dequeued p rest) = queueFlashOp p f k (s.dequeued p rest)) :
    s.taking p c owner = { s.dequeued p rest with
      ports := (s.dispatched p f rest).ports, arbiter := (s.arbiter.joined p ⟨f.tag, k⟩).giveNext } := by
  refine (takes.taking owner).trans (own.trans ?_)
  rw [queueFlashOp, State.dequeued, State.enter_taken]
  rfl

/-! ## The grant on an idle device (R137, R142, R144, R145) -/

theorem Arbiter.deferred_iff : a.deferred k = true ↔ ∃ x, k.range = some x ∧ (a.reread = true ∨ ∃ r, a.loadingRange = some r
    ∧ 0 < x.length ∧ 0 < r.length ∧ x.offset < r.offset + r.length ∧ r.offset < x.offset + x.length) := by
  rw [← Bool.not_eq_false, Arbiter.deferred_eq_false]
  grind

section
variable (quiet : a.request = none) (empty : a.queues = ⟨[], []⟩)
include quiet empty

/-- With one operation queued and no request of the loader, that operation alone can be eligible. -/
theorem Arbiter.may_joined_iff {g : Grant} :
    (a.joined p op).may g ↔ g = .port p op ∧ a.deferred op.kind = false := by
  have nothing (p' : Port) : a.queues.get p' = [] := by rw [empty]; cases p' <;> rfl
  cases g with
  | loader r => simp [Arbiter.may, Arbiter.joined, quiet]
  | port p' op' =>
    by_cases same : p' = p
    · subst same
      simp only [Arbiter.may, Arbiter.joined, PerPort.get_set, nothing, List.nil_append, List.head?_cons, Option.some.injEq,
        Grant.port.injEq, true_and, Arbiter.deferred_eq_false]
      constructor <;> (rintro ⟨rfl, allowed⟩; exact ⟨rfl, allowed⟩)
    · simp [Arbiter.may, Arbiter.joined, PerPort.get_set_ne _ _ _ _ same, nothing, same]

theorem Arbiter.joined_deferred (free : a.grant = none) (deferred : a.deferred op.kind = true) :
    (a.joined p op).giveNext = a.joined p op :=
  Arbiter.giveNext_none free fun g may => by
    obtain ⟨-, allowed⟩ := (Arbiter.may_joined_iff quiet empty).mp may
    simp [deferred] at allowed

theorem Arbiter.joined_granted (free : a.grant = none) (allowed : ¬ a.deferred op.kind = true) :
    (a.joined p op).giveNext = (a.joined p op).give (.port p op) := by
  have alone {g : Grant} := Arbiter.may_joined_iff (p := p) (op := op) (g := g) quiet empty
  refine Arbiter.giveNext_first free (alone.mpr ⟨rfl, by simpa using allowed⟩) fun g' may => ?_
  rw [(alone.mp may).1]

end

/-- Settles O57: each check as the owning block makes it, and the accepted operation, which the next grant reaches first on an
idle device. -/
theorem flashCommandsTaken : Obligations.FlashCommandsTaken := by
  intro s p f rest off bound a size maintainer refused queued
  have refuses {c : Cmd} {owner : Frame → State → State} {st : Status} (takes : Takes s p c f rest)
      (run : exec (c.instr p) s = .next (s.taking p c owner))
      (own : owner f (s.dequeued p rest) = (s.dequeued p rest).complete p f st .none) : refused c st :=
    run.trans (congrArg _ (takes.answers own))
  have queues {c : Cmd} {owner : Frame → State → State} {k : FlashOpKind} (takes : Takes s p c f rest)
      (run : exec (c.instr p) s = .next (s.taking p c owner))
      (own : owner f (s.dequeued p rest) = queueFlashOp p f k (s.dequeued p rest)) : queued c k := by
    have same : ({ a with queues := (a.joined p ⟨f.tag, k⟩).giveNext.queues } : Arbiter) = a.joined p ⟨f.tag, k⟩ := by
      rw [Arbiter.giveNext_queues]
      rfl
    refine ⟨_, run.trans (congrArg _ (takes.queuesFlashOp own)), rfl, Arbiter.giveNext_queues _, fun busy => ?_, fun free => ?_,
      fun free quiet empty => ⟨fun hindered => ?_, fun clear => ?_⟩⟩
    · exact (Arbiter.giveNext_busy (a := a.joined p ⟨f.tag, k⟩) busy).trans same.symm
    · exact (congrArg (Arbiter.NextGiven · _) same).mpr (Arbiter.nextGiven_giveNext (a := a.joined p ⟨f.tag, k⟩) free)
    · exact (Arbiter.joined_deferred quiet empty free (Arbiter.deferred_iff.mpr hindered)).trans same.symm
    · have given := Arbiter.joined_granted (p := p) (op := ⟨f.tag, k⟩) quiet empty free (mt Arbiter.deferred_iff.mp clear)
      dsimp only
      rw [given]
      cases k <;> exact ⟨rfl, rfl, rfl⟩
  refine ⟨fun len takes short payload => ?read, fun data takes payload => ?program, fun takes payload => ?erase⟩
  case read =>
    have check := flashRead_eq (p := p) (u := s.dequeued p rest) bound short payload
    refine ⟨fun bad => refuses takes rfl ?_, fun low high outside => refuses takes rfl ?_,
      fun low high inside => queues takes rfl ?_⟩
    · exact check.trans (if_pos bad)
    all_goals refine check.trans ((if_neg (by omega)).trans ?_)
    · exact if_pos outside
    · exact if_neg (Nat.not_lt.mpr inside)
  case program =>
    have check := flashProgram_eq (p := p) (u := s.dequeued p rest) bound (takes.program_length payload) payload
    rw [State.dequeued_maintainer] at check
    refine ⟨fun plain => refuses takes rfl ?_, fun allowed outside => refuses takes rfl ?_,
      fun allowed inside onePage => queues takes rfl ?_⟩
    · exact check.trans (if_pos (by simpa using plain))
    all_goals refine check.trans ((if_neg (by simpa using allowed)).trans ?_)
    · exact if_pos outside
    · exact if_neg (not_or.mpr ⟨Nat.not_lt.mpr inside, not_not_intro onePage⟩)
  case erase =>
    have check := flashErase_eq (p := p) (u := s.dequeued p rest) bound payload
    rw [State.dequeued_maintainer] at check
    refine ⟨fun plain => refuses takes rfl ?_, fun allowed outside => refuses takes rfl ?_,
      fun allowed aligned inside => queues takes rfl ?_⟩
    · exact check.trans (if_pos (by simpa using plain))
    all_goals refine check.trans ((if_neg (by simpa using allowed)).trans ?_)
    · exact if_pos outside
    · exact if_neg (not_or.mpr ⟨not_not_intro aligned, Nat.not_lt.mpr inside⟩)

end Sys2Proof.Machine
end

section
/-! SUPPORT. The ends of pass-through operations (R134, R139, R142, R147): the end of a grant, the answer to a waiting loader
(R146), and the next grant between them (R137). -/

namespace Sys2Proof.Machine

variable {s t u : State} {p : Port} {op : FlashOp} {st : Status} {res : Result} {off len us : Nat} {tag : Byte}
  {data : List Byte} {r : FlashRange}

/-! ## What an answer to a waiting loader leaves (R146) -/

/-- Whether the flash keeps its bytes, the ports keep their notices, the flash queues stay, and a grant under way goes on. -/
structure State.KeepsDevice (s t : State) : Prop where
  flash : t.flash = s.flash
  freeCount : t.freeCount = s.freeCount
  notices : s.KeepsNotices t
  queues : t.arbiter.queues = s.arbiter.queues
  busy : s.arbiter.grant ≠ none → t.arbiter.grant = s.arbiter.grant ∧ t.arbiter.turn = s.arbiter.turn
    ∧ t.arbiter.timer = s.arbiter.timer

theorem State.keepsDevice_refl (s : State) : s.KeepsDevice s := ⟨rfl, rfl, s.keepsNotices_refl, rfl, fun _ => ⟨rfl, rfl, rfl⟩⟩

theorem State.KeepsDevice.trans (h : s.KeepsDevice t) (k : t.KeepsDevice u) : s.KeepsDevice u where
  flash := k.flash.trans h.flash
  freeCount := k.freeCount.trans h.freeCount
  notices := h.notices.trans k.notices
  queues := k.queues.trans h.queues
  busy granted := by
    obtain ⟨grant, turn, timer⟩ := h.busy granted
    obtain ⟨grant', turn', timer'⟩ := k.busy (grant ▸ granted)
    exact ⟨grant'.trans grant, turn'.trans turn, timer'.trans timer⟩

/-- Work on posters changes the surfaces, the layer records, the cache and the counters. -/
theorem State.posterWork_keepsDevice (m : SurfaceManager) (ls : List LayerRecord) (c : PosterCache) (k : Counters) (s : State) :
    s.KeepsDevice { s with surfaces := m, layers := ls, cache := c, counters := k } :=
  ⟨rfl, rfl, s.keepsNotices_refl.of_ports rfl, rfl, fun _ => ⟨rfl, rfl, rfl⟩⟩

/-- A change of the loader's request and of the loading range. -/
theorem State.asking_keepsDevice (request range : Option FlashRange) (s : State) :
    s.KeepsDevice (s.modArbiter (fun a => { a with request := request, loadingRange := range })) :=
  ⟨rfl, rfl, s.keepsNotices_refl.of_ports rfl, rfl, fun _ => ⟨rfl, rfl, rfl⟩⟩

theorem State.PortsOnly.keepsDevice (only : s.PortsOnly t) (notices : s.KeepsNotices t) : s.KeepsDevice t := by
  unfold State.PortsOnly at only
  exact ⟨by rw [only], by rw [only], notices, by rw [only], fun _ => by rw [only]; exact ⟨rfl, rfl, rfl⟩⟩

theorem State.giveNext_keepsDevice (s : State) : s.KeepsDevice s.giveNext where
  flash := rfl
  freeCount := rfl
  notices := s.keepsNotices_refl.of_ports rfl
  queues := Arbiter.giveNext_queues _
  busy granted := by
    rw [show s.giveNext.arbiter = s.arbiter from Arbiter.giveNext_busy granted]
    exact ⟨rfl, rfl, rfl⟩

theorem State.settle_keepsDevice (s : State) : s.KeepsDevice s.settle := by
  have linked := s.settle_linked.eq
  exact ⟨by rw [linked], by rw [linked], s.keepsNotices_refl.settle, by rw [linked], fun _ => by
    rw [linked]; exact ⟨rfl, rfl, rfl⟩⟩

theorem State.failHead_keepsDevice (why : PlaceholderReason) (s : State) : s.KeepsDevice (s.failHead why) := by
  cases queue : s.cache.queue with
  | nil =>
    rw [State.failHead, queue]
    exact s.keepsDevice_refl
  | cons e q =>
    rw [State.failHead_eq queue]
    exact (s.posterWork_keepsDevice _ _ _ _).trans
      ((s.headGone.answerWaiters_portsOnly ..).keepsDevice (State.Serves.keepsNotices (s.headGone.answerWaiters_serves _ _ _ _)))

theorem State.evict_keepsDevice (i : Nat) (s : State) : s.KeepsDevice (s.evict i) := by
  rw [(s.evict_evicted i).1]
  exact s.posterWork_keepsDevice _ _ _ _

theorem State.allocatePoster_keepsDevice (fmt : Format) (width height : Nat) : ∀ (fuel : Nat) (s : State),
    s.KeepsDevice (State.allocatePoster fmt width height fuel s).2
  | 0, s => s.keepsDevice_refl
  | fuel + 1, s => by
    unfold State.allocatePoster
    split
    · exact s.posterWork_keepsDevice _ _ _ _
    · split
      · exact (s.evict_keepsDevice _).trans (State.allocatePoster_keepsDevice fmt width height fuel _)
      · exact s.keepsDevice_refl

/-- A request of the loader waits behind a grant under way (R137, R138). -/
theorem State.requestRead_keepsDevice (r : FlashRange) (s : State) : s.KeepsDevice (s.requestRead r) :=
  (s.asking_keepsDevice (some r) s.arbiter.loadingRange).trans (State.giveNext_keepsDevice _)

theorem State.loaderAllocate_keepsDevice (d : DirRecord) (s : State) : s.KeepsDevice (s.loaderAllocate d) := by
  have evicts := s.allocatePoster_keepsDevice d.format d.width d.height (s.cache.idle.length + 1)
  unfold State.loaderAllocate
  split
  · exact s.failHead_keepsDevice _
  · split <;> rename_i found <;> rw [found] at evicts
    · exact evicts.trans (State.failHead_keepsDevice _ _)
    · exact evicts.trans ((State.posterWork_keepsDevice _ _ _ _ _).trans
        ((State.asking_keepsDevice _ _ _).trans (State.requestRead_keepsDevice _ _)))

theorem State.loaderBegin_keepsDevice (s : State) : s.KeepsDevice s.loaderBegin := by
  unfold State.loaderBegin
  split
  · exact s.keepsDevice_refl
  · split
    · exact s.posterWork_keepsDevice _ _ _ _
    · split
      · exact s.failHead_keepsDevice _
      · split
        · exact s.posterWork_keepsDevice _ _ _ _
        · exact s.loaderAllocate_keepsDevice _

theorem State.answerLoader_keepsDevice (s : State) : s.KeepsDevice s.answerLoader := by
  unfold State.answerLoader
  split
  · exact s.loaderBegin_keepsDevice
  · exact s.keepsDevice_refl

/-! ## The end of an operation (R135, R136, R137, R142) -/

/-- An operation has left its queue and completed, and the next grant has been given. -/
def State.flashOpEnded (u : State) (p : Port) (op : FlashOp) (st : Status) (res : Result) : State :=
  ((u.modArbiter (fun a => a.endPort p op)).completeHeld p op.kind.cmd op.tag st none res).giveNext

/-- What changes at the end of an operation with no loader waiting: the flash, the arbiter, and the ports with their counters. -/
def State.FlashServed (s t : State) : Prop :=
  t = { s with flash := t.flash, freeCount := t.freeCount, arbiter := t.arbiter, ports := t.ports
               counters := { s.counters with port := t.counters.port } }

/-- How an operation of a port ends, from `s` to `t`: it leaves its queue and completes, its in-flight entry is freed, and the next
grant goes round from the turn, before a waiting loader is answered (R135, R137, R142, R146). -/
def State.EndsOp (s t : State) (p : Port) (op : FlashOp) (code : Byte) (st : Status) (res : Result) : Prop :=
  t.arbiter.queues = s.arbiter.queues.set p ((s.arbiter.queues.get p).erase op)
  ∧ (s.cache.work ≠ .waiting → s.FlashServed t)
  ∧ ((s.ports.get p).status ≠ .resetting → Notice.completion op.tag code st none res ∈ (t.ports.get p).notices)
  ∧ ((s.ports.get p).status = .attached → s.cache.work ≠ .waiting →
      (t.ports.get p).inFlight = (s.ports.get p).inFlight.erase ⟨code, op.tag⟩)
  ∧ ∃ b, Arbiter.NextGiven
      { s.arbiter with grant := none, timer := .stopped, recovering := false, queues := t.arbiter.queues } b
    ∧ (s.cache.work ≠ .waiting ∨ op.kind.range = none → t.arbiter = b)
    ∧ (b.grant ≠ none → t.arbiter.grant = b.grant ∧ t.arbiter.turn = b.turn ∧ t.arbiter.timer = b.timer)

theorem State.completeHeld_modArbiter (p : Port) (c : Cmd) (tag : Byte) (st : Status) (why : Option PlaceholderReason)
    (res : Result) (f : Arbiter → Arbiter) (u : State) :
    (u.completeHeld p c tag st why res).modArbiter f = (u.modArbiter f).completeHeld p c tag st why res := by
  unfold State.completeHeld State.deliver
  exact apply_ite (fun v : State => v.modArbiter f) _ _ _

/-- The end of an operation in its parts: the grant and the queue, the completion, the next grant. -/
theorem State.flashOpEnded_eq (p : Port) (op : FlashOp) (st : Status) (res : Result) (u : State) :
    u.flashOpEnded p op st res = { u with
      arbiter := (u.arbiter.endPort p op).giveNext, ports := (u.completeHeld p op.kind.cmd op.tag st none res).ports } := by
  rw [State.flashOpEnded, ← State.completeHeld_modArbiter]
  conv_lhs => rw [u.completeHeld_portsOnly p]
  rfl

/-- An operation ends, from `s` with the flash `m` and the count `n` of free values. -/
theorem State.flashOpEnded_served (m : Memory) (n : Nat) :
    s.FlashServed (({ s with flash := m, freeCount := n } : State).flashOpEnded p op st res).settle := by
  rw [State.flashOpEnded_eq, State.FlashServed, (State.settle_linked _).eq]

/-- The same, and an answer to a waiting loader follows, if any. -/
theorem State.endsOp (m : Memory) (n : Nat) {v x : State}
    (ends : v = ({ s with flash := m, freeCount := n } : State).flashOpEnded p op st res) (answer : v.KeepsDevice x)
    (unanswered : s.cache.work ≠ .waiting ∨ op.kind.range = none → x = v) :
    s.EndsOp x.settle p op op.kind.cmd.code st res ∧ x.settle.flash = m ∧ x.settle.freeCount = n := by
  let u : State := { s with flash := m, freeCount := n }
  have parts : v = { u with
      arbiter := (s.arbiter.endPort p op).giveNext, ports := (u.completeHeld p op.kind.cmd op.tag st none res).ports } :=
    ends.trans (u.flashOpEnded_eq p op st res)
  obtain ⟨flash, freeCount, notices, queues, busy⟩ := answer.trans x.settle_keepsDevice
  rw [parts] at flash freeCount queues busy
  have queues' : x.settle.arbiter.queues = (s.arbiter.endPort p op).queues := queues.trans (Arbiter.giveNext_queues _)
  refine ⟨⟨queues', fun quiet => ?_, fun alive => ?_, fun attached quiet => ?_, (s.arbiter.endPort p op).giveNext, ?_,
    fun alone => ?_, busy⟩, flash, freeCount⟩
  · rw [unanswered (.inl quiet), ends]
    exact State.flashOpEnded_served m n
  · refine (notices p).mem ?_
    rw [parts]
    exact State.mem_completeHeld (s := u) alive
  · have port : v.ports.get p = (u.completeHeld p op.kind.cmd op.tag st none res).ports.get p := by rw [parts]
    rw [State.completeHeld_get (s := u) (show (s.ports.get p).status ≠ .resetting by simp [attached])] at port
    have settled := State.settle_noticed (s := v) (p := p) (by rw [port]; exact attached)
    obtain ⟨-, inFlight, -⟩ := settled.account
    rw [unanswered (.inl quiet), inFlight, port]
    rfl
  · rw [queues']
    exact Arbiter.nextGiven_giveNext rfl
  · rw [unanswered alone, v.settle_linked.eq, parts]

/-- A program or an erase ends, and a waiting loader is answered. -/
theorem State.endsOp_answered (m : Memory) (n : Nat) (range : op.kind.range = some r) :
    let t := (({ s with flash := m, freeCount := n } : State).flashOpEnded p op st res).answerLoader.settle
    s.EndsOp t p op op.kind.cmd.code st res ∧ t.flash = m ∧ t.freeCount = n := by
  refine State.endsOp m n rfl (State.answerLoader_keepsDevice _) fun alone => if_neg ?_
  rw [State.flashOpEnded_eq]
  exact alone.resolve_right (by simp [range])

/-! ## The bytes a program or an erase leaves (R134, R147) -/

theorem getD_of_lt {bs : List Byte} {k : Nat} (within : k < bs.length) (b c : Byte) : bs.getD k b = bs.getD k c := by
  rw [List.getD_eq_getElem _ _ within, List.getD_eq_getElem _ _ within]

/-- What a timed-out program leaves of a byte of its range, by any free value: some of the bits it would clear are cleared. -/
theorem FlashOpKind.timedOut_program_at {j : Nat} (within : j < data.length) (free old : Byte) :
    let new := (FlashOpKind.program off data).timedOut free (off + j) old
    old &&& new = new ∧ old &&& data.getD j 0 &&& new = old &&& data.getD j 0 := by
  have bounds := FlashOpKind.timedOut_program off data free (off + j) old
  rwa [Nat.add_sub_cancel_left, getD_of_lt within 0xFF 0] at bounds

/-- What a timed-out operation leaves outside its range, in that of a program, and in that of an erase (log 8). -/
theorem State.read_timedOut {k : FlashOpKind} {m : Memory} (range : k.range = some r)
    (spoiled : m = (s.spoilFlash r k.timedOut).flash) :
    let read (m : Memory) (x : Nat) : Byte := m.read Config.flashBlank x
    (∀ x, x < r.offset ∨ r.offset + r.length ≤ x → read m x = read s.flash x)
    ∧ (∀ off data, k = .program off data → ∀ j, j < data.length →
        let old := read s.flash (off + j)
        let new := read m (off + j)
        old &&& new = new ∧ old &&& data.getD j 0 &&& new = old &&& data.getD j 0)
    ∧ (∀ off, k = .erase off → ∀ x, off ≤ x → x < off + 65536 → read m x = 0xFF ∨ read m x = read s.flash x) := by
  subst spoiled
  dsimp only
  simp only [State.read_spoilFlash]
  refine ⟨fun x outside => if_neg (by omega), ?_, ?_⟩
  · rintro off data rfl j lt
    cases range
    rw [if_pos ⟨Nat.le_add_right _ _, Nat.add_lt_add_left lt off⟩]
    exact FlashOpKind.timedOut_program_at lt _ _
  · rintro off rfl x low high
    cases range
    rw [if_pos ⟨low, high⟩]
    exact FlashOpKind.timedOut_erase off _ x _

/-! ## The commands of the device (R139, R142, R147) -/

section
variable (awake : s.startUp.resetPin = false)
include awake

theorem exec_flashReadEnd (granted : s.arbiter.grant = some (.port p ⟨tag, .read off len⟩)) :
    exec .flashReadEnd s =
      .next (s.flashOpEnded p ⟨tag, .read off len⟩ .ok (.flashRead off len (s.flashRead ⟨off, len⟩))).settle := by
  simp only [exec, execFlashReadEnd, awake, granted]
  rfl

theorem exec_flashOperationDone_program (granted : s.arbiter.grant = some (.port p ⟨tag, .program off data⟩))
    (timer : s.arbiter.timer = .running us) : exec .flashOperationDone s =
      .next ({ s with flash := programFlash s.flash off data }.flashOpEnded p ⟨tag, .program off data⟩ .ok
        (.flashProgram off data.length)).answerLoader.settle := by
  simp only [exec, execFlashOperationDone, awake, granted, timer]
  rfl

theorem exec_flashOperationDone_erase (granted : s.arbiter.grant = some (.port p ⟨tag, .erase off⟩))
    (timer : s.arbiter.timer = .running us) : exec .flashOperationDone s =
      .next ({ s with flash := eraseFlash s.flash off }.flashOpEnded p ⟨tag, .erase off⟩ .ok
        (.flashErase off)).answerLoader.settle := by
  simp only [exec, execFlashOperationDone, awake, granted, timer]
  rfl

theorem exec_operationTimerExpiry (granted : s.arbiter.grant = some (.port p op)) (range : op.kind.range = some r)
    (timer : s.arbiter.timer = .running us) : exec .operationTimerExpiry s =
      .next (s.modArbiter (fun a => { a with timer := .stopped, recovering := true })) := by
  have writes : op.kind.writes = true := by
    cases kind : op.kind with
    | read => simp [kind, FlashOpKind.range] at range
    | program | erase => rfl
  simp [exec, execOperationTimerExpiry, awake, granted, timer, writes]

theorem exec_deviceAcceptsCommands (granted : s.arbiter.grant = some (.port p op)) (range : op.kind.range = some r)
    (recovering : s.arbiter.recovering = true) : exec .deviceAcceptsCommands s =
      .next ((s.spoilFlash r op.kind.timedOut).flashOpEnded p op .flashTimeout .none).answerLoader.settle := by
  simp only [exec, execDeviceAcceptsCommands, awake, granted, range, recovering]
  rfl

end

/-- Settles O58: every end is the same end of an operation, from the flash that the read, the program, the erase or the timeout
leaves. -/
theorem flashOperationsEnd : Obligations.FlashOperationsEnd := by
  intro s awake a same ended read
  refine ⟨fun p tag off len granted => ?read, fun p tag off data us granted timer => ?program,
    fun p tag off us granted timer => ?erase, fun p op r granted range => ⟨fun us timer => ?expiry, fun recovering => ?timeout⟩,
    fun stopped => ?stopped, fun settled => ?settled, fun free => ?free⟩
  case read =>
    obtain ⟨ends, flash, freeCount⟩ := State.endsOp (s := s) (p := p) (op := ⟨tag, .read off len⟩) (st := .ok)
      (res := .flashRead off len (s.flashRead ⟨off, len⟩)) s.flash s.freeCount rfl (State.keepsDevice_refl _) fun _ => rfl
    exact ⟨_, exec_flashReadEnd awake granted, State.flashOpEnded_served s.flash s.freeCount, flash, freeCount, _,
      State.length_flashRead _ _, State.flashRead_bytes, ends⟩
  case program =>
    obtain ⟨ends, flash, freeCount⟩ := State.endsOp_answered (s := s) (p := p) (op := ⟨tag, .program off data⟩) (st := .ok)
      (res := .flashProgram off data.length) (programFlash s.flash off data) s.freeCount rfl
    refine ⟨_, exec_flashOperationDone_program awake granted timer, freeCount, ends, fun x => ?_⟩
    refine (congrArg (fun m : Memory => m.read Config.flashBlank x) flash).trans
      ((read_programFlash s.flash off data x).trans (ite_congr rfl (fun within => ?_) fun _ => rfl))
    rw [getD_of_lt (by omega) 0xFF 0]
  case erase =>
    obtain ⟨ends, flash, freeCount⟩ := State.endsOp_answered (s := s) (p := p) (op := ⟨tag, .erase off⟩) (st := .ok)
      (res := .flashErase off) (eraseFlash s.flash off) s.freeCount rfl
    refine ⟨_, exec_flashOperationDone_erase awake granted timer, freeCount, ends, fun x => ?_⟩
    exact (congrArg (fun m : Memory => m.read Config.flashBlank x) flash).trans (read_eraseFlash s.flash off x)
  case expiry => exact exec_operationTimerExpiry awake granted range timer
  case timeout =>
    obtain ⟨ends, flash, freeCount⟩ := State.endsOp_answered (s := s) (p := p) (op := op) (st := .flashTimeout) (res := .none)
      (s.spoilFlash r op.kind.timedOut).flash (s.freeCount + 1) range
    refine ⟨_, exec_deviceAcceptsCommands awake granted range recovering, freeCount, ?_, State.read_timedOut range flash⟩
    obtain ⟨tag, kind⟩ := op
    cases kind with
    | read => exact nomatch range
    | program | erase => exact ends
  case stopped =>
    constructor
    · simp [exec, execFlashOperationDone, show s.arbiter.timer = .stopped from stopped]
    · simp [exec, execOperationTimerExpiry, show s.arbiter.timer = .stopped from stopped]
  case settled => simp [exec, execDeviceAcceptsCommands, show s.arbiter.recovering = false from settled]
  case free => simp [exec, execFlashReadEnd, show s.arbiter.grant = none from free]

end Sys2Proof.Machine
end

section
/-! SUPPORT. The error block (chapter 8): which commands write the bad page list, the capture record and the FAULT flag, and
READ ERROR and CLEAR ERROR by their owning block (R157, R158). -/

namespace Sys2Proof.Machine

variable {s t : State} {p : Port} {c : Instr} {f : Frame} {rest : List Frame}

/-! ## What changes of surfaces, layers and posters leave as it is -/

theorem State.CuratedTo.pending (h : s.CuratedTo t) : t.pending = s.pending := by obtain ⟨_, _, _, rfl⟩ := h; rfl
theorem State.CuratedTo.startUp (h : s.CuratedTo t) : t.startUp = s.startUp := by obtain ⟨_, _, _, rfl⟩ := h; rfl
theorem State.CuratedTo.errors (h : s.CuratedTo t) : t.errors = s.errors := by obtain ⟨_, _, _, rfl⟩ := h; rfl
theorem State.CuratedTo.counters (h : s.CuratedTo t) : t.counters = s.counters := by obtain ⟨_, _, _, rfl⟩ := h; rfl

/-! ## Properties of the error block -/

/-- A property that reads nothing of a state but the error block. -/
abbrev OfErrors (P : State → Prop) : Prop := ∀ s t : State, t.errors = s.errors → P s → P t

theorem ofErrors (Q : MemoryErrors → Prop) : OfErrors (fun u => Q u.errors) := fun _ _ same => by
  dsimp only
  rw [same]
  exact id

/-- The common changes leave the error block as it is. -/
theorem OfErrors.stable {P : State → Prop} (h : OfErrors P) : Stable P where
  startUp _ _ := h _ _ rfl
  ports _ _ := h _ _ rfl
  outputs _ _ := h _ _ rfl
  streams _ _ := h _ _ rfl
  cache _ _ := h _ _ rfl
  arbiter _ _ := h _ _ rfl
  freeCount _ _ := h _ _ rfl
  counters _ _ _ := h _ _ rfl
  surface _ _ _ _ := h _ _ rfl
  free s i := h _ _ (s.becomeFree_curated i).errors
  allocate _ _ _ _ _ _ _ _ _ _ _ _ := h _ _ rfl

/-- A property of the error block is kept by a command if its own changes of that block keep it. -/
theorem OfErrors.keptBy {P : State → Prop} (h : OfErrors P)
    (blocks : (∃ p, c = .restart p) → ∀ s, P s → P s.restartBlocks)
    (note : (∃ r b, c = .eccUncorrectable r b) → ∀ r b s, P s → P (s.noteResult r b))
    (faulted : ∀ s, P s → P { s with errors := { s.errors with fault := true } })
    (clear : ∀ s, P s → P { s with errors := { s.errors with capture := s.errors.capture.clear } })
    (cold : ∀ a b, c = .coldReset a b → ∀ s, P s → P (s.coldReset a b)) : KeptBy P c s where
  toStable := h.stable
  layers _ _ _ := h _ _ rfl
  frame _ _ _ _ _ := h _ _ rfl
  configure _ _ _ _ _ := h _ _ rfl
  program _ _ _ _ := h _ _ rfl
  erase _ _ _ := h _ _ rfl
  spoil _ _ _ _ := h _ _ rfl
  blocks := blocks
  note r b e _ s := note ⟨r, b, e⟩ r b s
  faulted _ := faulted
  clear _ := clear
  cold := cold

/-! ## The bad page list and the FAULT flag (R152, R160) -/

/-- An uncorrectable result appends to the list at the tail, or leaves it (R152). -/
theorem MemoryErrors.badAfter_grows (e : MemoryErrors) (page : Nat) : e.bad <+: e.badAfter page := by
  unfold MemoryErrors.badAfter
  split
  · exact List.prefix_append _ _
  · exact List.prefix_rfl

/-- Every command but COLD RESET leaves the pages of the bad page list in their places (R152). -/
theorem keptBy_badGrows (e : MemoryErrors) (cold : ∀ a b, c ≠ .coldReset a b) :
    KeptBy (fun u => e.bad <+: u.errors.bad) c s :=
  (ofErrors (fun e' => e.bad <+: e'.bad)).keptBy
    (blocks := fun _ _ => id)
    (note := fun _ _ _ _ grown => grown.trans (MemoryErrors.badAfter_grows _ _))
    (faulted := fun _ => id)
    (clear := fun _ => id)
    (cold := fun a b h => absurd h (cold a b))

/-- Only an uncorrectable result and COLD RESET change the bad page list (R152). -/
theorem keptBy_badSame (e : MemoryErrors) (cold : ∀ a b, c ≠ .coldReset a b) (ecc : ∀ r b, c ≠ .eccUncorrectable r b) :
    KeptBy (fun u => u.errors.bad = e.bad) c s :=
  (ofErrors (fun e' => e'.bad = e.bad)).keptBy
    (blocks := fun _ _ => id)
    (note := fun ⟨r, b, h⟩ => absurd h (ecc r b))
    (faulted := fun _ => id)
    (clear := fun _ => id)
    (cold := fun a b h => absurd h (cold a b))

/-- Only RESTART and COLD RESET leave FAULT (R160). -/
theorem keptBy_fault (cold : ∀ a b, c ≠ .coldReset a b) (restart : ∀ p, c ≠ .restart p) :
    KeptBy (fun u => u.errors.fault = true) c s :=
  (ofErrors (fun e => e.fault = true)).keptBy
    (blocks := fun ⟨p, h⟩ => absurd h (restart p))
    (note := fun _ _ _ _ => id)
    (faulted := fun _ _ => rfl)
    (clear := fun _ => id)
    (cold := fun a b h => absurd h (cold a b))

/-- Settles O13: of the changes of the error block, only an uncorrectable result writes the bad page list, at its tail, and
only the RESTART state clears the FAULT flag. -/
theorem badListGrowsAndFaultStays : Obligations.BadListGrowsAndFaultStays := fun _ s _ e cold =>
  ⟨(keptBy_badGrows s.errors cold).exec List.prefix_rfl e,
    fun ecc => (keptBy_badSame s.errors cold ecc).exec rfl e,
    fun restart fault => (keptBy_fault cold restart).exec fault e⟩

/-! ## The capture record (R153, R158) -/

/-- What R153 and R158 say of a capture record. -/
def Capture.Sound (c : Capture) : Prop :=
  c.sequence ≤ 65535 ∧ (c.locked = true → c.sequence ≠ 0) ∧ (c.locked = false → c.lost = false)
    ∧ (c.lost = true ↔ 0 < c.lostCount) ∧ c.lostCount ≤ 255

theorem captureSound_iff : CaptureSound s ↔ s.errors.capture.Sound := Iff.rfl

theorem Capture.sound_reset : Capture.reset.Sound := by simp [Capture.Sound, Capture.reset]

theorem satSucc255_eq (n : Nat) : satSucc255 n = if n < 255 then n + 1 else n := rfl

/-- A count that saturates at 255 is above 0 once it rose, and stays within its range. -/
theorem satSucc255_bounds {n : Nat} (h : n ≤ 255) : 0 < satSucc255 n ∧ satSucc255 n ≤ 255 := by
  rw [satSucc255_eq]
  split <;> omega

/-- A capture sequence is never 0 after a result, and stays within its range (R153). -/
theorem nextSequence_bounds {n : Nat} (h : n ≤ 65535) : nextSequence n ≠ 0 ∧ nextSequence n ≤ 65535 := by
  unfold nextSequence
  split <;> omega

theorem Capture.record_locked {c : Capture} (h : c.locked = true) (r : Reader) (b : Burst) (owner : Option Handle)
    (added : Bool) : c.record r b owner added = { c with lost := true, lostCount := satSucc255 c.lostCount } := by
  simp [Capture.record, h]

theorem Capture.record_unlocked {c : Capture} (h : c.locked = false) (r : Reader) (b : Burst) (owner : Option Handle)
    (added : Bool) : c.record r b owner added =
      { c with
        sequence := nextSequence c.sequence, page := some b.page, surface := owner, reader := some r
        offset := some b.offset, pageAdded := added, locked := true } := by
  simp [Capture.record, h]

/-- A result keeps a sound record so: it is counted as lost, or it fills the record with the next sequence (R153). -/
theorem Capture.Sound.record {c : Capture} (h : c.Sound) (r : Reader) (b : Burst) (owner : Option Handle) (added : Bool) :
    (c.record r b owner added).Sound := by
  obtain ⟨sequence, locked, unlocked, lost, count⟩ := h
  cases l : c.locked with
  | true =>
    obtain ⟨pos, top⟩ := satSucc255_bounds count
    rw [Capture.record_locked l]
    exact ⟨sequence, fun _ => locked l, fun e => by simp [l] at e, by simp [pos], top⟩
  | false =>
    obtain ⟨pos, top⟩ := nextSequence_bounds sequence
    rw [Capture.record_unlocked l]
    exact ⟨top, fun _ => pos, nofun, lost, count⟩

/-- A cleared record keeps its sequence, with nothing lost (R158). -/
theorem Capture.Sound.clear {c : Capture} (h : c.Sound) : c.clear.Sound := by
  obtain ⟨sequence, -⟩ := h
  exact ⟨sequence, nofun, fun _ => rfl, by simp [Capture.clear], by simp [Capture.clear]⟩

theorem keptBy_captureSound (c : Instr) (s : State) : KeptBy CaptureSound c s :=
  (ofErrors (fun e => e.capture.Sound)).keptBy
    (blocks := fun _ _ => id)
    (note := fun _ _ _ _ h => (captureSound_iff.mp h).record _ _ _ _)
    (faulted := fun _ => id)
    (clear := fun _ h => (captureSound_iff.mp h).clear)
    (cold := fun _ _ _ _ _ => Capture.sound_reset)

/-- Settles O10: a result and a CLEAR ERROR keep the record sound, and nothing else writes it but COLD RESET. -/
theorem stepKeepsCaptureSound : Obligations.StepKeepsCaptureSound := fun _ _ hs e =>
  step_keeps (fun _ _ => id) keptBy_captureSound hs e

/-! ## READ ERROR and CLEAR ERROR (R157, R158) -/

theorem exec_readError (takes : Takes s p .readError f rest) : exec (.readError p) s =
    .next (s.answered p f rest .ok (.errors s.errors.capture s.errors.fault s.errors.bad)) := by
  rw [exec, execReadError, takes.answers rfl]
  rfl

section
variable (takes : Takes s p .clearError f rest)
include takes

/-- The sequence of a locked record clears it (R158). -/
theorem exec_clearError_clears (locked : s.errors.capture.locked = true)
    (same : s.errors.capture.sequence = u16 f.payload 0) : exec (.clearError p) s =
      .next { s.answered p f rest .ok (.cleared s.errors.capture.lost s.errors.capture.lostCount) with
        errors := { s.errors with capture := s.errors.capture.clear } } := by
  have own : clearError p f (s.dequeued p rest) =
      ({ s.dequeued p rest with errors := { s.errors with capture := s.errors.capture.clear } } : State).complete p f .ok
        (.cleared s.errors.capture.lost s.errors.capture.lostCount) :=
    if_pos ⟨locked, same⟩
  rw [exec, execClearError, takes.completes own rfl]
  rfl

/-- Any other sequence is stale, and so is every sequence while the record is unlocked (R158). -/
theorem exec_clearError_stale (stale : s.errors.capture.locked = false ∨ s.errors.capture.sequence ≠ u16 f.payload 0) :
    exec (.clearError p) s =
      .next (s.answered p f rest .staleClear (.staleClear s.errors.capture.sequence s.errors.capture.locked)) := by
  have unclear : ¬ (s.errors.capture.locked = true ∧ s.errors.capture.sequence = u16 f.payload 0) :=
    fun ⟨locked, same⟩ => stale.elim (by simp [locked]) (· same)
  rw [exec, execClearError, takes.answers (if_neg unclear)]
  rfl

end

/-- Settles O60: READ ERROR only answers, and CLEAR ERROR clears where its sequence is that of a locked record, which in a
sound record is not 0. -/
theorem errorCommandsTaken : Obligations.ErrorCommandsTaken := by
  intro s p f rest c
  refine ⟨exec_readError, fun n takes small payload => ?_⟩
  have field : u16 f.payload 0 = n := payload ▸ u16_b16 small
  refine ⟨fun locked same => exec_clearError_clears takes locked (same.trans field.symm),
    fun stale => exec_clearError_stale takes (field.symm ▸ stale), fun sound zero => exec_clearError_stale takes ?_⟩
  obtain ⟨-, named, -⟩ := captureSound_iff.mp sound
  rw [field, zero]
  cases locked : s.errors.capture.locked with
  | false => exact .inl rfl
  | true => exact .inr (named locked)

end Sys2Proof.Machine
end

section
/-! SUPPORT. Every command completes (log 2), but an ECC result on a burst that frame memory does not have; the queue of waiting
commands is kept (log 1). -/

namespace Sys2Proof.Machine

variable {s t : State} {c : Instr}

/-! ## The queue of waiting commands (log 1) -/

/-- No change that a command makes reaches the queue. -/
theorem keptBy_pending (x : List Instr) (c : Instr) (s : State) : KeptBy (fun u => u.pending = x) c s where
  startUp _ _ := id
  ports _ _ := id
  outputs _ _ := id
  streams _ _ := id
  cache _ _ := id
  arbiter _ _ := id
  freeCount _ _ := id
  counters _ _ _ := id
  surface _ _ _ _ := id
  free u i := (u.becomeFree_curated i).pending.trans
  allocate _ _ _ _ _ _ _ _ _ _ _ _ := id
  layers _ _ _ := id
  frame _ _ _ _ _ := id
  configure _ _ _ _ _ := id
  program _ _ _ _ := id
  erase _ _ _ := id
  spoil _ _ _ _ := id
  blocks _ _ := id
  note _ _ _ _ _ := id
  faulted _ _ := id
  clear _ _ := id
  cold _ _ _ _ := id

/-! ## Outcomes -/

/-- Whether an outcome is a next state. -/
def Completes (o : Host.Outcome State Fault Refusal) : Prop := ∃ t, o = .next t

theorem completes_next (t : State) : Completes (.next t) := ⟨t, rfl⟩

theorem execEccCorrected_outcome (r : Reader) (b : Burst) (s : State) :
    (b.valid = true → Completes (execEccCorrected r b s))
      ∧ (b.valid = false → execEccCorrected r b s = .fault .noSuchBurst) := by
  refine ⟨fun valid => ?_, fun invalid => by simp [execEccCorrected, invalid]⟩
  simp only [execEccCorrected, valid, Bool.not_true, Bool.false_eq_true, if_false]
  split <;> exact completes_next _

theorem execEccUncorrectable_outcome (r : Reader) (b : Burst) (s : State) :
    (b.valid = true → Completes (execEccUncorrectable r b s))
      ∧ (b.valid = false → execEccUncorrectable r b s = .fault .noSuchBurst) := by
  refine ⟨fun valid => ?_, fun invalid => by simp [execEccUncorrectable, invalid]⟩
  simp only [execEccUncorrectable, valid, Bool.not_true, Bool.false_eq_true, if_false]
  split <;> exact completes_next _

/-- Every command but an ECC result completes: each case of its meaning is a next state. -/
theorem exec_completes (s : State) (corrected : ∀ r b, c ≠ .eccCorrected r b)
    (uncorrectable : ∀ r b, c ≠ .eccUncorrectable r b) : Completes (exec c s) := by
  cases c with
  | eccCorrected r b => exact absurd rfl (corrected r b)
  | eccUncorrectable r b => exact absurd rfl (uncorrectable r b)
  | portResetAssert p | portResetRelease p | commandFrame p bytes | noticeRead p max | statusRead p
  | quietTimerExpiry p | holdTimerExpiry p | loaderBegin | loaderReadEnd | flashReadEnd | flashOperationDone
  | operationTimerExpiry | deviceAcceptsCommands | fieldStart o | composeLine o part =>
    simp only [exec, execPortResetAssert, execPortResetRelease, execCommandFrame, execNoticeRead, execStatusRead,
      execQuietTimerExpiry, execHoldTimerExpiry, execLoaderBegin, execLoaderReadEnd, execFlashReadEnd,
      execFlashOperationDone, execOperationTimerExpiry, execDeviceAcceptsCommands, execFieldStart, execComposeLine]
    repeat' split
    all_goals exact completes_next _
  | _ => exact completes_next _

/-- What a command can come to: a next state, or the stop of an ECC result on a burst that does not exist. -/
theorem exec_outcome (c : Instr) (s : State) : Completes (exec c s)
    ∨ (c.wellFormed = false ∧ exec c s = .fault .noSuchBurst) := by
  cases c with
  | eccCorrected r b =>
    obtain ⟨completes, stops⟩ := execEccCorrected_outcome r b s
    cases valid : b.valid with
    | true => exact .inl (completes valid)
    | false => exact .inr ⟨valid, stops valid⟩
  | eccUncorrectable r b =>
    obtain ⟨completes, stops⟩ := execEccUncorrectable_outcome r b s
    cases valid : b.valid with
    | true => exact .inl (completes valid)
    | false => exact .inr ⟨valid, stops valid⟩
  | _ => exact .inl (exec_completes s nofun nofun)

/-- Settles O2: a well-formed command cannot stop, no command is refused, and no change that a command makes reaches the
queue. -/
theorem everyCommandCompletes : Obligations.EveryCommandCompletes := by
  intro c s
  refine ⟨fun formed => ?_, fun r b invalid ecc => ?_, fun why refused => ?_, fun t e =>
    (keptBy_pending s.pending c s).exec rfl e⟩
  · refine (exec_outcome c s).resolve_right fun ⟨unformed, _⟩ => ?_
    rw [formed] at unformed
    cases unformed
  · rcases ecc with rfl | rfl
    · exact (execEccCorrected_outcome r b s).2 invalid
    · exact (execEccUncorrectable_outcome r b s).2 invalid
  · rcases exec_outcome c s with ⟨t, e⟩ | ⟨-, e⟩ <;> rw [refused] at e <;> cases e

end Sys2Proof.Machine
end

section
/-! SUPPORT. Damage marking (R116, R126, R127, R154): the owner of a page, what the poster cache does at a damage report, and
what a surface that leaves makes of its entry. -/

namespace Sys2Proof.Machine

variable {s t u : State} {h : Handle} {x : Surface} {i j page : Nat} {g : Byte} {P : SurfaceEntry → Prop}

/-! ## The owner of a page (R2) -/

theorem State.resolve_handleOf (i : Nat) (s : State) : s.resolve (s.handleOf i) = s.surfaceAt i := by
  unfold State.resolve State.handleOf State.surfaceAt
  cases s.surfaces.entries[i]? <;> simp

/-- The handle of a page's owner is up to date (R2, R6). -/
theorem State.resolve_of_pageOwner (owner : s.pageOwner page = some h) (at' : s.surfaceAt h.index = some x) :
    s.resolve h = some x := by
  obtain ⟨i, -, rfl⟩ := Option.map_eq_some_iff.mp owner
  exact (s.resolve_handleOf i).trans at'

theorem State.isPoster_of_resolve (hr : s.resolve h = some x) (hk : x.kind = .poster) : s.isPoster h.index = true := by
  simp [State.isPoster, State.surfaceAt_of_resolve hr, hk]

/-! ## A damage report, case by case (R116, R126, R127) -/

/-- Outside the map there is nothing to do (R126). -/
theorem State.damagedPoster_unlisted (out : ¬ s.inMap i = true) : s.damagedPoster i = s := if_neg out

section
variable (listed : s.inMap h.index = true) (hr : s.resolve h = some x)
include listed hr

theorem State.damagedPoster_resident (resident : x.state = .resident) :
    s.damagedPoster h.index = s.removeResident h.index := by
  simp [State.damagedPoster, listed, State.surfaceStateOf, State.surfaceAt_of_resolve hr, resident]

theorem State.damagedPoster_loading (loading : x.state = .loading) : s.damagedPoster h.index =
    (s.unmap h.index).modCache (fun c => { c with queue := markHeadRemoved c.queue }) := by
  simp [State.damagedPoster, listed, State.surfaceStateOf, State.surfaceAt_of_resolve hr, loading]

end

/-- An unpinned surface that leaves the map leaves the idle list and is given back (R116). -/
theorem State.removeResident_unpinned (unpinned : ¬ s.pinned i = true) : s.removeResident i = { s.freePoster i with
    cache := { s.cache with map := s.cache.map.filter (fun m => m.surface ≠ i), idle := s.cache.idle.erase i } } := by
  have given := s.freePoster_congr i
    { s.cache with map := s.cache.map.filter (fun m => m.surface ≠ i), idle := s.cache.idle.erase i } s.arbiter
  rw [State.removeResident, if_neg unpinned]
  refine Eq.trans given ?_
  rw [(s.freePoster_curated i).eq]

/-- What the cache's answer to a damage report can be. -/
theorem State.damagedPoster_cases (i : Nat) (s : State) :
    (¬ s.inMap i = true ∧ s.damagedPoster i = s)
    ∨ (s.surfaceStateOf i = some .resident ∧ s.damagedPoster i = s.removeResident i)
    ∨ (s.surfaceStateOf i ≠ some .resident
        ∧ ∃ f : List LoadEntry → List LoadEntry,
            s.damagedPoster i = (s.unmap i).modCache (fun c => { c with queue := f c.queue })) := by
  unfold State.damagedPoster
  split
  · split
    · next resident => exact .inr (.inl ⟨resident, rfl⟩)
    · next loading => exact .inr (.inr ⟨by simp [loading], markHeadRemoved, rfl⟩)
    · next other _ => exact .inr (.inr ⟨other, id, rfl⟩)
  · next out => exact .inl ⟨out, rfl⟩

theorem State.removeResident_curated (i : Nat) (s : State) : s.CuratedTo (s.removeResident i) := by
  by_cases pinned : s.pinned i = true
  · rw [State.removeResident_pinned pinned]
    exact ⟨_, _, _, rfl⟩
  · rw [State.removeResident_unpinned pinned]
    exact (s.freePoster_curated i).trans ⟨_, _, _, rfl⟩

theorem State.damagedPoster_curated (i : Nat) (s : State) : s.CuratedTo (s.damagedPoster i) := by
  rcases s.damagedPoster_cases i with ⟨-, e⟩ | ⟨-, e⟩ | ⟨-, f, e⟩ <;> rw [e]
  · exact s.curatedTo_refl
  · exact s.removeResident_curated i
  · exact ⟨_, _, _, rfl⟩

/-- A damaged surface leaves the map (R126, R127). -/
theorem State.damagedPoster_map (i : Nat) (s : State) :
    (s.damagedPoster i).cache.map = s.cache.map.filter (fun m => m.surface ≠ i) := by
  rcases s.damagedPoster_cases i with ⟨out, e⟩ | ⟨-, e⟩ | ⟨-, f, e⟩ <;> rw [e]
  · refine (List.filter_eq_self.mpr fun m mem => ?_).symm
    exact decide_eq_true fun e => out (State.inMap_iff.mpr ⟨m, mem, e⟩)
  · by_cases pinned : s.pinned i = true
    · rw [State.removeResident_pinned pinned]
      rfl
    · rw [State.removeResident_unpinned pinned]
  · rfl

/-- Only a RESIDENT surface is given back (R116). -/
theorem State.damagedPoster_surfaces (ne : s.surfaceStateOf i ≠ some .resident) :
    (s.damagedPoster i).surfaces = s.surfaces := by
  rcases s.damagedPoster_cases i with ⟨-, e⟩ | ⟨resident, -⟩ | ⟨-, f, e⟩
  · rw [e]
  · exact absurd resident ne
  · rw [e]
    rfl

theorem State.damagedPoster_entry_ne (ne : j ≠ i) :
    (s.damagedPoster i).surfaces.entries[j]? = s.surfaces.entries[j]? := by
  rcases s.damagedPoster_cases i with ⟨-, e⟩ | ⟨-, e⟩ | ⟨-, f, e⟩ <;> rw [e]
  · by_cases pinned : s.pinned i = true
    · rw [State.removeResident_pinned pinned]
      rfl
    · rw [State.removeResident_unpinned pinned]
      exact State.freePoster_entry_ne ne
  · rfl

theorem markHeadRemoved_eq (q : List LoadEntry) :
    markHeadRemoved q = (q.take 1).map (fun e => { e with removed := true }) ++ q.drop 1 := by
  cases q <;> rfl

/-- A damage report is answered as R116, R126 and R127 say. -/
theorem State.damagedPoster_reported (hr : s.resolve h = some x) (hk : x.kind = .poster) :
    s.DamageReported (s.damagedPoster h.index) h x := by
  refine ⟨fun listed resident pinned => ?_, fun listed resident unpinned => ?_, fun listed loading => ?_, fun out => ?_⟩
  · rw [State.damagedPoster_resident (State.inMap_iff.mpr listed) hr resident,
      State.removeResident_pinned ((State.pinned_iff hr).mpr pinned)]
    exact ⟨⟨rfl, rfl⟩, rfl⟩
  · rw [State.damagedPoster_resident (State.inMap_iff.mpr listed) hr resident,
      State.removeResident_unpinned (mt (State.pinned_iff hr).mp unpinned), State.freePoster_resident hr hk resident]
    exact ⟨State.retireOrFree_givenBack hr (by simp [hk]), rfl⟩
  · rw [State.damagedPoster_loading (State.inMap_iff.mpr listed) hr loading, ← markHeadRemoved_eq]
    exact ⟨⟨rfl, rfl⟩, rfl⟩
  · rw [State.damagedPoster_unlisted (mt State.inMap_iff.mp out)]
    exact ⟨⟨rfl, rfl⟩, rfl⟩

/-- A damage report reads the surfaces, the layer records, the hold sets, the cache and the bad page list, and answers in the
first two and the cache. -/
theorem State.DamageReported.congr {s' t' : State} (reported : s.DamageReported t h x) (surfaces : s'.surfaces = s.surfaces)
    (layers : s'.layers = s.layers) (outputs : s'.outputs = s.outputs) (cache : s'.cache = s.cache)
    (bad : s'.errors.bad = s.errors.bad) (surfaces' : t'.surfaces = t.surfaces) (layers' : t'.layers = t.layers)
    (cache' : t'.cache = t.cache) : s'.DamageReported t' h x := by
  unfold State.DamageReported State.GivenBack State.drawn at reported ⊢
  rw [surfaces, layers, outputs, cache, bad, surfaces', layers', cache']
  exact reported

/-! ## Damage marking (R154) -/

/-- The state in which the surface `x` of a handle is marked as damaged (R22). -/
def State.damageMarked (h : Handle) (x : Surface) (s : State) : State :=
  { s with surfaces := { s.surfaces with
      entries := s.surfaces.entries.set h.index ⟨h.gen, some { x with damaged := true }⟩ } }

theorem State.damageMarked_resolve (hr : s.resolve h = some x) :
    (s.damageMarked h x).resolve h = some { x with damaged := true } := by
  obtain ⟨lt, -⟩ := List.getElem?_eq_some_iff.mp (State.resolve_eq_some.mp hr)
  rw [State.resolve_eq_some]
  simp [State.damageMarked, lt]

/-- A POSTER surface that owns the page is marked and reported (R154). -/
theorem State.markDamage_poster (owner : s.pageOwner page = some h) (hr : s.resolve h = some x) (hk : x.kind = .poster) :
    s.markDamage page = (s.damageMarked h x).damagedPoster h.index := by
  simp only [State.markDamage, owner, State.isPoster_of_resolve hr hk, if_true, State.modSurface_of_resolve hr]
  rfl

/-- A page that no POSTER surface owns marks nothing (R154). -/
theorem State.markDamage_plain
    (plain : ∀ h x, s.pageOwner page = some h → s.surfaceAt h.index = some x → x.kind ≠ .poster) :
    s.markDamage page = s := by
  unfold State.markDamage
  split
  · next h owner =>
    refine if_neg fun poster => ?_
    unfold State.isPoster at poster
    split at poster
    · next x at' => exact plain h x owner at' (eq_of_beq poster)
    · cases poster
  · rfl

/-- What damage marking can do. -/
theorem State.markDamage_cases (page : Nat) (s : State) : s.markDamage page = s
    ∨ ∃ h x, s.resolve h = some x ∧ s.markDamage page = (s.damageMarked h x).damagedPoster h.index := by
  by_cases plain : ∀ h x, s.pageOwner page = some h → s.surfaceAt h.index = some x → x.kind ≠ .poster
  · exact .inl (State.markDamage_plain plain)
  · push Not at plain
    obtain ⟨h, x, owner, at', poster⟩ := plain
    have hr := State.resolve_of_pageOwner owner at'
    exact .inr ⟨h, x, hr, State.markDamage_poster owner hr poster⟩

theorem State.markDamage_curated (page : Nat) (s : State) : s.CuratedTo (s.markDamage page) := by
  rcases s.markDamage_cases page with e | ⟨h, x, -, e⟩ <;> rw [e]
  · exact s.curatedTo_refl
  · exact State.CuratedTo.trans ⟨_, _, _, rfl⟩ (State.damagedPoster_curated h.index _)

/-- A RETIRING surface stays so, but for its mark. -/
theorem State.markDamage_retiring (entry : s.surfaces.entries[j]? = some ⟨g, some x⟩) (retiring : x.state = .retiring)
    (page : Nat) : ∃ d, (s.markDamage page).surfaces.entries[j]? = some ⟨g, some { x with damaged := d }⟩ := by
  rcases s.markDamage_cases page with e | ⟨h, y, hr, e⟩ <;> rw [e]
  · exact ⟨x.damaged, entry⟩
  by_cases same : j = h.index
  · subst same
    have marked := State.damageMarked_resolve hr
    have own := State.resolve_eq_some.mp hr
    rw [entry] at own
    cases own
    rw [State.damagedPoster_surfaces (by simp [State.surfaceStateOf, State.surfaceAt_of_resolve marked, retiring])]
    exact ⟨true, State.resolve_eq_some.mp marked⟩
  · rw [State.damagedPoster_entry_ne same]
    exact ⟨x.damaged, by simpa [State.damageMarked, Ne.symm same] using entry⟩

/-! ## The entry of a surface that leaves -/

/-- A property of an entry that stays as its surface leaves: detached from its stream (R106), RETIRING (R20), FREE (R18). -/
structure SurfaceEntry.Lasting (P : SurfaceEntry → Prop) : Prop where
  detached : ∀ g x, P ⟨g, some x⟩ → P ⟨g, some { x with attached := none }⟩
  retiring : ∀ g x, P ⟨g, some x⟩ → P ⟨g, some { x with state := .retiring }⟩
  freed : ∀ g x, P ⟨g, some x⟩ → P ⟨g + 1, none⟩

/-- Whether the table has an entry of a number, with a property. -/
def State.EntryHas (i : Nat) (P : SurfaceEntry → Prop) (t : State) : Prop := ∃ e, t.surfaces.entries[i]? = some e ∧ P e

theorem State.EntryHas.of_surfaces (has : s.EntryHas i P) (surfaces : t.surfaces = s.surfaces) : t.EntryHas i P := by
  unfold State.EntryHas
  rw [surfaces]
  exact has

theorem State.EntryHas.modSurface (has : s.EntryHas i P) {f : Surface → Surface}
    (keeps : ∀ g x, P ⟨g, some x⟩ → P ⟨g, some (f x)⟩) (j : Nat) : (s.modSurface j f).EntryHas i P := by
  obtain ⟨⟨g, b⟩, entry, holds⟩ := has
  by_cases same : i = j
  · subst same
    obtain ⟨lt, e⟩ := List.getElem?_eq_some_iff.mp entry
    refine ⟨⟨g, b.map f⟩, by simp [State.modSurface, SurfaceManager.modSurface, lt, e], ?_⟩
    cases b with
    | none => exact holds
    | some x => exact keeps g x holds
  · exact ⟨_, (State.modSurface_entry_ne same f).trans entry, holds⟩

section
variable (last : SurfaceEntry.Lasting P)
include last

theorem State.EntryHas.becomeFree (has : s.EntryHas i P) (j : Nat) : (s.becomeFree j).EntryHas i P := by
  by_cases same : i = j
  · subst same
    obtain ⟨⟨g, b⟩, entry, holds⟩ := has
    cases b with
    | none => exact ⟨_, by simp [State.becomeFree, entry], holds⟩
    | some x =>
      by_cases fallback : x.kind = .fallback
      · rw [State.becomeFree_fallback entry fallback]
        exact ⟨_, entry, holds⟩
      · obtain ⟨lt, -⟩ := List.getElem?_eq_some_iff.mp entry
        have hr : s.resolve ⟨i, g⟩ = some x := State.resolve_eq_some.mpr entry
        rw [State.becomeFree_of_resolve hr fallback]
        exact ⟨⟨g + 1, none⟩, by simp [SurfaceManager.release, lt], last.freed g x holds⟩
  · obtain ⟨e, entry, holds⟩ := has
    exact ⟨e, (State.becomeFree_entry_ne same).trans entry, holds⟩

theorem State.EntryHas.retireOrFree (has : s.EntryHas i P) (j : Nat) : (s.retireOrFree j).EntryHas i P := by
  unfold State.retireOrFree
  split
  · exact has.modSurface last.retiring j
  · exact has.becomeFree last j

theorem State.EntryHas.freePoster (has : s.EntryHas i P) (j : Nat) : (s.freePoster j).EntryHas i P := by
  unfold State.freePoster
  split
  · split
    · exact has
    · split
      · exact has.becomeFree last j
      · exact has.retireOrFree last j
      · exact has
  · exact has

theorem State.EntryHas.damagedPoster (has : s.EntryHas i P) (j : Nat) : (s.damagedPoster j).EntryHas i P := by
  rcases s.damagedPoster_cases j with ⟨-, e⟩ | ⟨-, e⟩ | ⟨-, f, e⟩ <;> rw [e]
  · exact has
  · by_cases pinned : s.pinned j = true
    · rw [State.removeResident_pinned pinned]
      exact has
    · rw [State.removeResident_unpinned pinned]
      exact has.freePoster last j
  · exact has

theorem State.EntryHas.releaseStream (has : s.EntryHas i P) (k : StreamId) : (s.releaseStream k).EntryHas i P := by
  obtain ⟨xs, closed⟩ := State.finishClose_detached k (s.slotsReleased k)
  have released := has.of_surfaces (s.slotsReleased_streamed k).surfaces
  have detached : (detachSlots xs (s.slotsReleased k)).EntryHas i P :=
    foldl_keeps (P := State.EntryHas i P) (fun _ x ht => ht.modSurface last.detached x.surface.index) xs released
  exact detached.of_surfaces closed.surfaces

theorem State.EntryHas.freeRetired (has : s.EntryHas i P) : s.freeRetired.EntryHas i P :=
  foldl_keeps (P := State.EntryHas i P) (fun _ j ht => by
    split
    · exact ht.becomeFree last j
    · exact ht) _ has

/-- The report of a hold-set replacement takes a surface no further than to leave. -/
theorem State.EntryHas.reportHoldSets (has : s.EntryHas i P) : s.reportHoldSets.EntryHas i P := by
  obtain ⟨surfaces, -⟩ := s.reportHoldSets_rest
  exact (((has.releaseStream last .s0).releaseStream last .s1).freeRetired last).of_surfaces surfaces

end

/-- A damaged surface stays marked while it leaves (R22). -/
theorem SurfaceEntry.lasting_damaged : SurfaceEntry.Lasting (fun e => ∀ y, e.body = some y → y.damaged = true) where
  detached _ x damaged := by rintro y ⟨⟩; exact damaged x rfl
  retiring _ x damaged := by rintro y ⟨⟩; exact damaged x rfl
  freed _ _ _ := nofun

/-- An entry that is FREE stays as it is. -/
theorem SurfaceEntry.lasting_free (g : Byte) : SurfaceEntry.Lasting (fun e => e = ⟨g, none⟩) where
  detached _ _ := nofun
  retiring _ _ := nofun
  freed _ _ := nofun

end Sys2Proof.Machine
end

section
/-! SUPPORT. The entry into FAULT (R49, R159) and an uncorrectable result up to its notices (R156): the outputs whose sets are
empty, the report of the emptied hold sets, and what both leave as it is. -/

namespace Sys2Proof.Machine

variable {s t u : State} {h : Handle} {x : Surface} {i : Nat} {g : Byte} {b : Burst} {P : SurfaceEntry → Prop}

/-! ## The report of a hold-set replacement, once more (R43) -/

theorem State.FieldTo.errors (f : s.FieldTo t) : t.errors = s.errors := by
  obtain ⟨_, _, _, _, _, _, _, _, rfl⟩ := f
  rfl

/-- The report counts nothing of a stream. -/
theorem State.reportHoldSets_streamCounters (s : State) : s.reportHoldSets.counters.stream = s.counters.stream := by
  have curated := (State.freeRetired_curated s.slotsTested).trans (State.drainToIdle_curated _)
  obtain ⟨_, _, settled⟩ := s.slotsTested.freeRetired.drainToIdle.settle_linked
  rw [State.reportHoldSets_eq, settled]
  dsimp only
  rw [curated.counters]
  exact (State.releaseStream_counters .s1 _).trans (s.releaseStream_counters .s0)

/-- Of the cache the report changes the idle list only (R115). -/
theorem State.reportHoldSets_cache (s : State) :
    s.reportHoldSets.cache = { s.cache with idle := s.reportHoldSets.cache.idle } := by
  obtain ⟨-, -, -, -, cache⟩ := s.reportHoldSets_rest
  obtain ⟨is, drained⟩ := s.slotsTested.freeRetired.drainToIdle_idles
  rw [cache, drained]
  dsimp only
  rw [State.freeRetired_cache, State.slotsTested_cache]

theorem State.SetsTested.linked (tested : s.SetsTested t) (k : t.LinkedTo u) : s.SetsTested u := by
  obtain ⟨_, _, rfl⟩ := k
  exact tested

/-- The tests at a hold-set replacement are the same from a state before, if its RETIRING surfaces are there but for their
marks. -/
theorem State.SetsTested.of_retiring (tested : u.SetsTested t)
    (retains : ∀ (i : Nat) (g : Byte) (x : Surface), s.surfaces.entries[i]? = some ⟨g, some x⟩ → x.state = .retiring →
      ∃ d, u.surfaces.entries[i]? = some ⟨g, some { x with damaged := d }⟩) : s.SetsTested t := by
  obtain ⟨freed, left, idle⟩ := tested
  refine ⟨?_, left, idle⟩
  rintro i ⟨g, b⟩ x lt entry rfl retiring kind undrawn free
  obtain ⟨d, after⟩ := retains i g x entry retiring
  exact freed i ⟨g, some { x with damaged := d }⟩ { x with damaged := d } lt after rfl retiring kind undrawn free

/-! ## The entry into FAULT (R159) -/

theorem OutputState.enterFault_eq (q : OutputState) : q.enterFault = { q with
    forcedBlank := q.forcedBlank || q.timing.enabled, layers := [], holdSet := []
    work := q.work.map (fun w => { w with fetched := [] })
    ahead := List.replicate q.ahead.length q.timing.background } := by
  rw [OutputState.enterFault, List.map_const']

/-- The state in FAULT with the sets of both outputs empty, before the report of them (R159). -/
def State.setsEmptied (s : State) : State :=
  { s with
    errors := { s.errors with fault := true }
    outputs := ⟨s.outputs.o0.enterFault, s.outputs.o1.enterFault⟩ }

theorem State.setsEmptied_output (o : OutputId) (s : State) :
    s.setsEmptied.outputs.get o = (s.outputs.get o).enterFault := by cases o <;> rfl

theorem State.setsEmptied_undrawn (i : Nat) (s : State) : ¬ s.setsEmptied.drawn i := fun drawn =>
  drawn.elim (List.not_mem_nil (a := i)) (List.not_mem_nil (a := i))

theorem State.enterFault_starting (starting : s.startUp.starting = true) :
    s.enterFault = { s with errors := { s.errors with fault := true } } := if_pos starting

theorem State.enterFault_running (started : s.startUp.starting = false) :
    s.enterFault = s.setsEmptied.reportHoldSets := if_neg (by simp [started])

/-- The entry into FAULT sets the flag, and else changes no more than a field does; no stream counts. -/
theorem State.enterFault_field (s : State) :
    ({ s with errors := { s.errors with fault := true } } : State).FieldTo s.enterFault
      ∧ s.enterFault.counters.stream = s.counters.stream := by
  cases started : s.startUp.starting with
  | true =>
    rw [State.enterFault_starting started]
    exact ⟨(State.curatedTo_refl _).field, rfl⟩
  | false =>
    have emptied : ({ s with errors := { s.errors with fault := true } } : State).FieldTo s.setsEmptied :=
      ⟨_, _, _, _, _, _, _, _, rfl⟩
    rw [State.enterFault_running started]
    exact ⟨emptied.trans s.setsEmptied.reportHoldSets_field, s.setsEmptied.reportHoldSets_streamCounters⟩

theorem State.enterFault_cache (s : State) : s.enterFault.cache = { s.cache with idle := s.enterFault.cache.idle } := by
  cases started : s.startUp.starting with
  | true => rw [State.enterFault_starting started]
  | false =>
    rw [State.enterFault_running started]
    exact s.setsEmptied.reportHoldSets_cache

theorem State.EntryHas.enterFault (has : s.EntryHas i P) (last : SurfaceEntry.Lasting P) : s.enterFault.EntryHas i P := by
  cases started : s.startUp.starting with
  | true =>
    rw [State.enterFault_starting started]
    exact has
  | false =>
    have emptied : s.setsEmptied.EntryHas i P := has
    rw [State.enterFault_running started]
    exact emptied.reportHoldSets last

/-- A RETIRING surface that no stream holds is FREE once the sets are empty (R17). -/
theorem State.enterFault_frees (started : s.startUp.starting = false) (lt : i < 160)
    (entry : s.surfaces.entries[i]? = some ⟨g, some x⟩) (retiring : x.state = .retiring) (kind : x.kind ≠ .fallback)
    (free : x.attached = none) : s.enterFault.surfaces.entries[i]? = some ⟨g + 1, none⟩ := by
  obtain ⟨freed, -, -⟩ := s.setsEmptied.reportHoldSets_tested
  rw [State.enterFault_running started]
  exact freed i ⟨g, some x⟩ x lt entry rfl retiring kind
    (mt State.reportHoldSets_drawn.mp (State.setsEmptied_undrawn i s)) free

/-! ## A result before its notices (R156) -/

/-- Whether a result on a page enters FAULT (R152, R159). -/
def MemoryErrors.enters (e : MemoryErrors) (page : Nat) : Bool := e.overflows page && !e.fault

/-- The state after steps 1 to 3 of R156: the lists, the record, and the damage marked. -/
def State.resultMarked (r : Reader) (b : Burst) (s : State) : State := (s.noteResult r b).markDamage b.page

/-- The state in which a result is handled but for its notices (R156). -/
def State.resultHandled (r : Reader) (b : Burst) (s : State) : State :=
  if s.errors.enters b.page then (s.resultMarked r b).enterFault else s.resultMarked r b

theorem State.resultMarked_curated (r : Reader) (b : Burst) (s : State) :
    (s.noteResult r b).CuratedTo (s.resultMarked r b) := (s.noteResult r b).markDamage_curated b.page

theorem State.resultHandled_enters (enters : s.errors.enters b.page = true) (r : Reader) :
    s.resultHandled r b = (s.resultMarked r b).enterFault := if_pos enters

theorem State.resultHandled_stays (stays : s.errors.enters b.page = false) (r : Reader) :
    s.resultHandled r b = s.resultMarked r b := if_neg (by simp [stays])

/-- The state in which a result is noted, and FAULT with it where it is entered. -/
def State.resultNoted (r : Reader) (b : Burst) (s : State) : State :=
  { s.noteResult r b with
    errors := { (s.noteResult r b).errors with fault := s.errors.fault || s.errors.enters b.page } }

/-- A result changes the error block and its counter, and else no more than a field does; no stream counts. -/
theorem State.resultHandled_field (r : Reader) (b : Burst) (s : State) :
    (s.resultNoted r b).FieldTo (s.resultHandled r b)
      ∧ (s.resultHandled r b).counters.stream = s.counters.stream := by
  have marked := s.resultMarked_curated r b
  have counters : (s.resultMarked r b).counters.stream = s.counters.stream := by rw [marked.counters]; rfl
  cases enters : s.errors.enters b.page with
  | false =>
    have noted : s.resultNoted r b = s.noteResult r b := by
      rw [State.resultNoted, enters, Bool.or_false]
      rfl
    rw [State.resultHandled_stays enters, noted]
    exact ⟨marked.field, counters⟩
  | true =>
    have noted : s.resultNoted r b =
        { s.noteResult r b with errors := { (s.noteResult r b).errors with fault := true } } := by
      rw [State.resultNoted, enters, Bool.or_true]
    have flagged : (s.resultNoted r b).CuratedTo
        { s.resultMarked r b with errors := { (s.resultMarked r b).errors with fault := true } } := by
      obtain ⟨_, _, _, e⟩ := marked
      rw [noted, e]
      exact ⟨_, _, _, rfl⟩
    obtain ⟨entered, same⟩ := (s.resultMarked r b).enterFault_field
    rw [State.resultHandled_enters enters]
    exact ⟨flagged.field.trans entered, same.trans counters⟩

theorem State.resultHandled_errors (r : Reader) (b : Burst) (s : State) :
    (s.resultHandled r b).errors = (s.resultNoted r b).errors := by
  obtain ⟨field, -⟩ := s.resultHandled_field r b
  exact field.errors

/-- Of the cache the entry into FAULT changes the idle list only. -/
theorem State.resultHandled_cache (r : Reader) (b : Burst) (s : State) : (s.resultHandled r b).cache =
    { (s.resultMarked r b).cache with idle := (s.resultHandled r b).cache.idle } := by
  cases enters : s.errors.enters b.page with
  | false => rw [State.resultHandled_stays enters]
  | true =>
    rw [State.resultHandled_enters enters]
    exact State.enterFault_cache _

/-- Without an entry into FAULT while the part runs, the surfaces, the layer records and the cache are as the damage marking
left them. -/
theorem State.resultHandled_marked (still : s.errors.enters b.page = false ∨ s.startUp.starting = true) (r : Reader) :
    (s.resultHandled r b).surfaces = (s.resultMarked r b).surfaces
      ∧ (s.resultHandled r b).layers = (s.resultMarked r b).layers
      ∧ (s.resultHandled r b).cache = (s.resultMarked r b).cache := by
  cases enters : s.errors.enters b.page with
  | false =>
    rw [State.resultHandled_stays enters]
    exact ⟨rfl, rfl, rfl⟩
  | true =>
    have starting : (s.resultMarked r b).startUp.starting = true := by
      rw [(s.resultMarked_curated r b).startUp]
      exact still.resolve_left (by simp [enters])
    rw [State.resultHandled_enters enters, State.enterFault_starting starting]
    exact ⟨rfl, rfl, rfl⟩

/-! ## The POSTER surface that owns the page (R154) -/

section
variable (owner : s.pageOwner b.page = some h) (hr : s.resolve h = some x) (hk : x.kind = .poster) (r : Reader)
include owner hr hk

theorem State.resultMarked_poster :
    s.resultMarked r b = ((s.noteResult r b).damageMarked h x).damagedPoster h.index :=
  State.markDamage_poster (s := s.noteResult r b) owner hr hk

/-- The damage report of the marked surface (R126, R127). -/
theorem State.resultMarked_reported :
    ((s.noteResult r b).damageMarked h x).DamageReported (s.resultMarked r b) h { x with damaged := true } := by
  have marked : ((s.noteResult r b).damageMarked h x).resolve h = some { x with damaged := true } :=
    State.damageMarked_resolve hr
  rw [State.resultMarked_poster owner hr hk]
  exact State.damagedPoster_reported marked hk

/-- The surface leaves the map (R126). -/
theorem State.resultHandled_unmapped : ∀ m ∈ (s.resultHandled r b).cache.map, m.surface ≠ h.index := by
  intro m mem
  rw [State.resultHandled_cache, State.resultMarked_poster owner hr hk] at mem
  have kept := List.mem_filter.mp (State.damagedPoster_map h.index _ ▸ mem)
  exact of_decide_eq_true kept.2

/-- Where the entry still holds a surface, it is the marked one (R22). -/
theorem State.resultHandled_damaged : ∀ y, (s.resultHandled r b).surfaceAt h.index = some y → y.damaged = true := by
  have last := SurfaceEntry.lasting_damaged
  have before : ((s.noteResult r b).damageMarked h x).EntryHas h.index (fun e => ∀ y, e.body = some y → y.damaged = true) :=
    ⟨_, State.resolve_eq_some.mp (State.damageMarked_resolve (s := s.noteResult r b) hr), by rintro y ⟨⟩; rfl⟩
  have marked := before.damagedPoster last h.index
  rw [← State.resultMarked_poster owner hr hk] at marked
  have handled : (s.resultHandled r b).EntryHas h.index (fun e => ∀ y, e.body = some y → y.damaged = true) := by
    cases enters : s.errors.enters b.page with
    | false => rwa [State.resultHandled_stays enters]
    | true =>
      rw [State.resultHandled_enters enters]
      exact marked.enterFault last
  obtain ⟨e, entry, damaged⟩ := handled
  intro y at'
  rw [State.surfaceAt, entry] at at'
  exact damaged y at'

section
variable (listed : ∃ m ∈ s.cache.map, m.surface = h.index) (resident : x.state = .resident)
include listed resident

/-- A pinned RESIDENT surface is on the stale list, also in FAULT (R116). -/
theorem State.resultHandled_stale (pinned : x.refs.a ≠ 0 ∨ x.refs.b ≠ 0 ∨ namesHandle s.layers h) :
    (s.resultHandled r b).cache.stale =
      if h.index ∈ s.cache.stale then s.cache.stale else s.cache.stale ++ [h.index] := by
  obtain ⟨stale, -⟩ := State.resultMarked_reported owner hr hk r
  obtain ⟨-, cache⟩ := stale listed resident pinned
  rw [State.resultHandled_cache, cache]
  rfl

section
variable (unpinned : ¬ (x.refs.a ≠ 0 ∨ x.refs.b ≠ 0 ∨ namesHandle s.layers h))
include unpinned

/-- An unpinned one leaves the stale list as it is (R116). -/
theorem State.resultHandled_unstale : (s.resultHandled r b).cache.stale = s.cache.stale := by
  obtain ⟨-, back, -⟩ := State.resultMarked_reported owner hr hk r
  obtain ⟨-, cache⟩ := back listed resident unpinned
  rw [State.resultHandled_cache, cache]
  rfl

/-- An unpinned one that no stream holds is FREE after the entry into FAULT: at once, or once the hold sets are empty (R17,
R20). -/
theorem State.resultHandled_freed (enters : s.errors.enters b.page = true) (started : s.startUp.starting = false)
    (lt : h.index < 160) (free : x.attached = none) :
    (s.resultHandled r b).surfaces.entries[h.index]? = some ⟨h.gen + 1, none⟩ := by
  obtain ⟨-, back, -⟩ := State.resultMarked_reported owner hr hk r
  obtain ⟨⟨retires, frees⟩, -⟩ := back listed resident unpinned
  have running : (s.resultMarked r b).startUp.starting = false := by
    rw [(s.resultMarked_curated r b).startUp]
    exact started
  obtain ⟨inTable, -⟩ := List.getElem?_eq_some_iff.mp (State.resolve_eq_some.mp hr)
  rw [State.resultHandled_enters enters]
  by_cases drawn : s.drawn h.index
  · obtain ⟨-, surfaces⟩ := retires (.inl drawn)
    refine State.enterFault_frees running lt
      (x := { x with damaged := true, state := .retiring }) ?_ rfl (by simp [hk]) free
    rw [surfaces]
    simp [State.damageMarked, State.noteResult, inTable]
  · obtain ⟨surfaces, -⟩ := frees drawn free
    have freed : (s.resultMarked r b).EntryHas h.index (fun e => e = ⟨h.gen + 1, none⟩) := by
      refine ⟨_, ?_, rfl⟩
      rw [surfaces]
      simp [SurfaceManager.without, State.damageMarked, State.noteResult, inTable]
    obtain ⟨e, entry, rfl⟩ := freed.enterFault (SurfaceEntry.lasting_free _)
    exact entry

end
end
end

end Sys2Proof.Machine
end

section
/-! SUPPORT. The notices of an uncorrectable result (R155, R156, R159), and ECC results settled (O59): the frame, the error
block, the POSTER surface that owns the page, and the entry into FAULT. -/

namespace Sys2Proof.Machine

variable {s t u : State} {p p' : Port} {n n' : Notice} {q : PortState} {r : Reader} {b : Burst} {page offset : Nat}

/-! ## An event notice offered to one port (R179) -/

/-- A port that was offered an event notice: it queued it, counted it as lost, or was not ATTACHED (R179). -/
def PortState.offered (q : PortState) (n : Notice) : PortState :=
  if q.status = .attached then
    if q.notices.length + q.owed < 32 then q.join n else { q with lost := satSucc255 q.lost }
  else q

theorem PortState.offered_of_room (attached : q.status = .attached) (room : q.notices.length + q.owed < 32) (n : Notice) :
    q.offered n = q.join n := by
  rw [PortState.offered, if_pos attached, if_pos room]

theorem PortState.noticed_offered (q : PortState) (n : Notice) : q.noticed (q.offered n) := by
  unfold PortState.offered
  split
  · split
    · exact q.noticed_join n
    · exact q.noticed_lost
  · exact q.noticed_refl

/-- An ATTACHED port that lost no notice queued the one it was offered (R179). -/
theorem PortState.offered_of_kept (attached : q.status = .attached) (room : q.lost < 255)
    (kept : (q.offered n).lost = q.lost) : q.offered n = q.join n := by
  rw [PortState.offered, if_pos attached] at kept ⊢
  split at kept
  · next fits => rw [if_pos fits]
  · have still : satSucc255 q.lost = q.lost := kept
    rw [satSucc255_eq, if_pos room] at still
    omega

theorem State.notify_get (p : Port) (n : Notice) (s : State) :
    (s.notify p n).ports.get p = (s.ports.get p).offered n := by
  rcases s.notify_cases p n with ⟨away, e⟩ | ⟨attached, room, e⟩ | ⟨attached, full, e⟩ <;> rw [e, PortState.offered]
  · rw [if_neg away]
  · simp [attached, room]
  · simp [attached, Nat.not_lt.mpr full]

theorem State.notify_get_ne (ne : p' ≠ p) (n : Notice) (s : State) :
    (s.notify p n).ports.get p' = s.ports.get p' := by
  rcases s.notify_cases p n with ⟨-, e⟩ | ⟨-, -, e⟩ | ⟨-, -, e⟩ <;> simp [e, PerPort.get_set_ne _ _ _ _ ne]

/-! ## A notice to both ports (R155, R159) -/

/-- The state in which both ports were offered a notice, port A first (R156). -/
def State.notifyBoth (n : Notice) (s : State) : State := State.notify .b n (State.notify .a n s)

theorem State.notifyBoth_linked (n : Notice) (s : State) : s.LinkedTo (s.notifyBoth n) :=
  (s.notify_linked .a n).trans (State.notify_linked .b n _)

theorem State.notifyBoth_get (p : Port) (n : Notice) (s : State) :
    (s.notifyBoth n).ports.get p = (s.ports.get p).offered n := by
  unfold State.notifyBoth
  cases p with
  | a => rw [State.notify_get_ne (by decide), State.notify_get]
  | b => rw [State.notify_get, State.notify_get_ne (by decide)]

/-- Notices to the ports leave the streams, the hold sets and the surfaces, and take no notice back. -/
theorem State.notifyBoth_follows (i : StreamId) (n : Notice) (s : State) : s.Follows i (s.notifyBoth n) := by
  have linked := s.notifyBoth_linked n
  have noticed := (s.leavesLatches_refl.notify .a n).notify .b n
  exact ⟨linked.sameStream i, fun _ => State.drawn_of_outputs linked.streamed.outputs, noticed.keepsNotices,
    fun p _ => noticed.serves p, fun _ loose => loose.of_surfaces linked.streamed.surfaces⟩

/-- A port that was offered two notices and lost none ends with both (R179). -/
theorem PortState.offered_twice {q₀ : PortState} (attached : q.status = .attached) (before : q₀.lost ≤ q.lost)
    (room : q₀.lost < 255) (kept : ((q.offered n).offered n').lost = q₀.lost) :
    n ∈ ((q.offered n).offered n').notices ∧ ((q.offered n).offered n').notices.getLast? = some n' := by
  have first := q.noticed_offered n
  have second := (q.offered n).noticed_offered n'
  have rises : q.lost ≤ (q.offered n).lost := first.2.1
  have rises' : (q.offered n).lost ≤ ((q.offered n).offered n').lost := second.2.1
  have joined : q.offered n = q.join n := PortState.offered_of_kept attached (by omega) (by omega)
  have joined' : (q.offered n).offered n' = (q.offered n).join n' :=
    PortState.offered_of_kept (first.account.1.trans attached) (by omega) (by omega)
  rw [joined', joined]
  simp

/-! ## The whole result (R156) -/

/-- The MEMORY ERROR of a result that came on the state `s` and was handled in `t` (R155). -/
def State.errorNotice (r : Reader) (b : Burst) (s t : State) : Notice :=
  .memoryError b.page r b.offset (s.pageOwner b.page) (s.errors.appends b.page) t.errors.bad.length
    (if s.errors.capture.locked then 0 else t.errors.capture.sequence) t.errors.capture.lostCount

theorem State.uncorrectable_stays (stays : s.errors.enters b.page = false) (r : Reader) :
    s.uncorrectable r b = (s.resultHandled r b).notifyBoth (s.errorNotice r b (s.resultHandled r b)) := by
  have off : (s.errors.overflows b.page && !s.errors.fault) = false := stays
  rw [State.resultHandled_stays stays, State.errorNotice]
  simp only [State.uncorrectable, off, Bool.false_eq_true, if_false]
  cases s.errors.capture.locked <;> rfl

theorem State.uncorrectable_enters (enters : s.errors.enters b.page = true) (r : Reader) : s.uncorrectable r b =
    ((s.resultHandled r b).notifyBoth (s.errorNotice r b (s.resultHandled r b))).notifyBoth
      (.fault b.page r (s.resultHandled r b).errors.capture.sequence) := by
  have on : (s.errors.overflows b.page && !s.errors.fault) = true := enters
  rw [State.resultHandled_enters enters, State.errorNotice]
  simp only [State.uncorrectable, on, if_true]
  cases s.errors.capture.locked <;> rfl

/-- The notices of a result change the ports and their counters only. -/
theorem State.uncorrectable_linked (r : Reader) (b : Burst) (s : State) :
    (s.resultHandled r b).LinkedTo (s.uncorrectable r b) := by
  cases enters : s.errors.enters b.page with
  | false =>
    rw [State.uncorrectable_stays enters]
    exact State.notifyBoth_linked _ _
  | true =>
    rw [State.uncorrectable_enters enters]
    exact (State.notifyBoth_linked _ _).trans (State.notifyBoth_linked _ _)

theorem State.uncorrectable_errors (r : Reader) (b : Burst) (s : State) :
    (s.uncorrectable r b).errors = (s.resultNoted r b).errors := by
  rw [← s.resultHandled_errors r b]
  exact (s.uncorrectable_linked r b).streamed.field.errors

/-- What a result changes at all. -/
theorem State.uncorrectable_frame (r : Reader) (b : Burst) (s : State) : let t := s.uncorrectable r b
    t = { s with
      surfaces := t.surfaces, layers := t.layers, outputs := t.outputs, streams := t.streams, cache := t.cache
      errors := t.errors, ports := t.ports
      counters := { s.counters with
        memory := { s.counters.memory with uncorrectable := satSucc s.counters.memory.uncorrectable }
        port := t.counters.port } } := by
  intro t
  obtain ⟨field, streams⟩ := s.resultHandled_field r b
  have linked := s.uncorrectable_linked r b
  have counters : t.counters.stream = s.counters.stream := by
    obtain ⟨_, _, e⟩ := linked
    rw [← streams]
    exact congrArg (·.counters.stream) e
  have errors : t.errors = (s.resultNoted r b).errors := s.uncorrectable_errors r b
  have frame := (field.trans linked.streamed.field).eq
  rw [counters] at frame
  rw [errors]
  exact frame

/-! ## A result without an entry into FAULT -/

theorem State.uncorrectable_get (stays : s.errors.enters b.page = false) (p : Port) : (s.uncorrectable r b).ports.get p =
    (s.ports.get p).offered (s.errorNotice r b (s.uncorrectable r b)) := by
  have errors : (s.uncorrectable r b).errors = (s.resultHandled r b).errors :=
    (s.uncorrectable_errors r b).trans (s.resultHandled_errors r b).symm
  have same : s.errorNotice r b (s.uncorrectable r b) = s.errorNotice r b (s.resultHandled r b) := by
    rw [State.errorNotice, errors]
    rfl
  rw [same, State.uncorrectable_stays stays, State.notifyBoth_get, State.resultHandled_stays stays,
    (s.resultMarked_curated r b).ports]
  rfl

/-! ## A result with the entry into FAULT while the part runs (R159) -/

/-- The state of a result that enters FAULT, its damage marked and the sets empty, before the report of them. -/
def State.faultReached (r : Reader) (b : Burst) (s : State) : State := (s.resultMarked r b).setsEmptied

theorem State.faultReached_serves (r : Reader) (b : Burst) (s : State) : s.Serves (s.faultReached r b) :=
  State.serves_of_ports (s.resultMarked_curated r b).ports

theorem State.faultReached_streams (r : Reader) (b : Burst) (s : State) : (s.faultReached r b).streams = s.streams :=
  (s.resultMarked_curated r b).streams

section
variable (enters : s.errors.enters b.page = true) (started : s.startUp.starting = false)
include enters started

theorem State.resultHandled_reached (r : Reader) : s.resultHandled r b = (s.faultReached r b).reportHoldSets := by
  rw [State.resultHandled_enters enters]
  refine State.enterFault_running ?_
  rw [(s.resultMarked_curated r b).startUp]
  exact started

/-- The outputs (R49, R159). -/
theorem State.uncorrectable_output (o : OutputId) :
    (s.uncorrectable r b).outputs.get o = (s.outputs.get o).enterFault := by
  have marked : (s.resultMarked r b).outputs = s.outputs := (s.resultMarked_curated r b).outputs
  rw [(s.uncorrectable_linked r b).streamed.outputs, State.resultHandled_reached enters started,
    State.reportHoldSets_outputs, State.faultReached, State.setsEmptied_output, marked]

/-- The tests of surfaces and posters at the emptied hold sets (R17, R115). -/
theorem State.uncorrectable_setsTested : s.SetsTested (s.uncorrectable r b) := by
  have tested := (s.faultReached r b).reportHoldSets_tested
  rw [← State.resultHandled_reached enters started] at tested
  refine (tested.linked (s.uncorrectable_linked r b)).of_retiring fun i g x entry retiring => ?_
  exact State.markDamage_retiring (s := s.noteResult r b) entry retiring b.page

/-- What follows the slot tests of both streams. -/
theorem State.uncorrectable_follows (i : StreamId) :
    (s.faultReached r b).slotsTested.Follows i (s.uncorrectable r b) := by
  have report := (s.faultReached r b).slotsTested.testsEnded_follows i
  rw [← State.reportHoldSets_eq, ← State.resultHandled_reached enters started] at report
  rw [State.uncorrectable_enters enters]
  exact (report.trans (State.notifyBoth_follows i _ _)).trans (State.notifyBoth_follows i _ _)

/-- The tests of the slots of a stream at the emptied hold sets (R101, R106). -/
theorem State.uncorrectable_streamTested (i : StreamId) : s.StreamTested (s.uncorrectable r b) i := by
  have follows := State.uncorrectable_follows (r := r) enters started i
  have serves := s.faultReached_serves r b
  have streams := s.faultReached_streams r b
  cases i with
  | s0 =>
    refine State.streamTested_of serves ?_ (by rw [streams])
    exact (State.releaseStream_follows (by decide) _).trans follows
  | s1 =>
    obtain ⟨same, -⟩ := State.releaseStream_sameStream (i := .s1) (k := .s0) (by decide) (s.faultReached r b)
    exact State.streamTested_of (serves.trans (State.releaseStream_serves .s0 _)) follows (by rw [same, streams])

/-- A port that loses none of the notices is told of the error, and last of FAULT (R155, R159). -/
theorem State.uncorrectable_told (attached : (s.ports.get p).status = .attached) (room : (s.ports.get p).lost < 255)
    (kept : ((s.uncorrectable r b).ports.get p).lost = (s.ports.get p).lost) : let t := s.uncorrectable r b
    s.errorNotice r b t ∈ (t.ports.get p).notices
      ∧ (t.ports.get p).notices.getLast? = some (.fault b.page r t.errors.capture.sequence) := by
  intro t
  have errors : t.errors = (s.resultHandled r b).errors :=
    (s.uncorrectable_errors r b).trans (s.resultHandled_errors r b).symm
  have served : (s.ports.get p).served ((s.resultHandled r b).ports.get p) := by
    have emptied := s.faultReached_serves r b p
    have tested := (s.faultReached r b).slotsTested_serves p
    have report := (s.faultReached r b).slotsTested.testsEnded_follows .s0
    rw [State.resultHandled_reached enters started, State.reportHoldSets_eq]
    exact (emptied.trans tested).trans (report.served p ((emptied.trans tested).status.trans attached))
  rw [State.errorNotice, errors]
  rw [State.uncorrectable_enters enters, State.notifyBoth_get, State.notifyBoth_get] at kept
  rw [show t = _ from State.uncorrectable_enters enters r, State.notifyBoth_get, State.notifyBoth_get]
  exact PortState.offered_twice (served.status.trans attached) served.2.1 room kept

end

/-! ## ECC results settled -/

theorem exec_eccCorrected (awake : s.startUp.resetPin = false) (valid : b.valid = true) :
    exec (.eccCorrected r b) s = .next s.countCorrected := by
  simp [exec, execEccCorrected, valid, awake]

theorem exec_eccUncorrectable (awake : s.startUp.resetPin = false) (valid : b.valid = true) :
    exec (.eccUncorrectable r b) s = .next (s.uncorrectable r b) := by
  simp [exec, execEccUncorrectable, valid, awake]

/-- Settles O59: the result is noted, the owner of its page marked, FAULT entered by the report of the emptied hold sets, and
the notices reach no more than the ports. -/
theorem eccResultsTaken : Obligations.EccResultsTaken := by
  intro s r page offset awake inMemory inPage aligned k
  let b : Burst := ⟨page, offset⟩
  have valid : b.valid = true := by simp [b, Burst.valid, inMemory, inPage, aligned]
  refine ⟨exec_eccCorrected awake valid, s.uncorrectable r b, exec_eccUncorrectable awake valid, ?_⟩
  intro e c added entered owner error
  have errors := s.uncorrectable_errors r b
  have bad : (s.uncorrectable r b).errors.bad = e.badAfter page := congrArg MemoryErrors.bad errors
  have linked := (s.uncorrectable_linked r b).streamed
  refine ⟨s.uncorrectable_frame r b, bad, congrArg MemoryErrors.fault errors,
    fun locked => ?_, fun unlocked => ?_, fun h x owned at' poster => ?_, fun stays => ?_, fun enters started => ?_⟩
  · exact (congrArg MemoryErrors.capture errors).trans (Capture.record_locked locked ..)
  · exact (congrArg MemoryErrors.capture errors).trans (Capture.record_unlocked unlocked ..)
  · have hr := State.resolve_of_pageOwner owned at'
    rw [linked.cache, State.surfaceAt, linked.surfaces]
    refine ⟨State.resultHandled_unmapped (b := b) owned hr poster r,
      State.resultHandled_damaged (b := b) owned hr poster r, fun still => ?_, fun enters started listed resident =>
        ⟨State.resultHandled_stale (b := b) owned hr poster r listed resident, fun unpinned =>
          ⟨State.resultHandled_unstale (b := b) owned hr poster r listed resident unpinned,
            State.resultHandled_freed (b := b) owned hr poster r listed resident unpinned enters started⟩⟩⟩
    obtain ⟨surfaces, layers, cache⟩ := State.resultHandled_marked (b := b) still r
    exact (State.resultMarked_reported (b := b) owned hr poster r).congr rfl rfl rfl rfl bad
      (linked.surfaces.trans surfaces) (linked.layers.trans layers) (linked.cache.trans cache)
  · have handled := State.resultHandled_stays (b := b) stays r
    have marked := s.resultMarked_curated r b
    refine ⟨?_, ?_, fun plain => ?_, fun p attached room => ?_⟩
    · rw [linked.outputs, handled, marked.outputs]
      rfl
    · rw [(s.uncorrectable_linked r b).streams, handled, marked.streams]
      rfl
    · have unmarked : s.resultMarked r b = s.noteResult r b := State.markDamage_plain (s := s.noteResult r b) plain
      rw [linked.surfaces, linked.layers, linked.cache, handled, unmarked]
      exact ⟨rfl, rfl, rfl⟩
    · rw [State.uncorrectable_get (b := b) stays, PortState.offered_of_room attached room]
      rfl
  · refine ⟨fun o => ?_, fun i => ?_, ?_, fun p attached room kept => ?_⟩
    · exact (State.uncorrectable_output (b := b) enters started o).trans (OutputState.enterFault_eq _)
    · exact State.uncorrectable_streamTested (b := b) enters started i
    · exact State.uncorrectable_setsTested (b := b) enters started
    · exact State.uncorrectable_told (b := b) enters started attached room kept

end Sys2Proof.Machine
end

section
/-! SUPPORT. Ports that do not hand a command to its owning block (R163, R165, R177, R187): the answer of a port that is not
ATTACHED, and the occasions on which no command is taken. -/

namespace Sys2Proof.Machine

variable {s : State} {p : Port} {c : Cmd} {f : Frame} {rest : List Frame}

/-! ## Which meaning takes a command -/

/-- Every command of a command queue but ATTACH is taken for its owning block (R165, R177). -/
theorem exec_instr (ne : c ≠ .attach) (p : Port) (s : State) :
    ∃ owner, exec (c.instr p) s = .next (s.taking p c owner) := by
  cases c with
  | attach => exact absurd rfl ne
  | _ => exact ⟨_, rfl⟩

theorem State.taking_untaken (none' : s.takeHead p (some c) = none) (owner : Frame → State → State) :
    s.taking p c owner = s := by
  simp only [State.taking, none']

theorem exec_instr_untaken (none' : s.takeHead p (some c) = none) : exec (c.instr p) s = .next s := by
  by_cases e : c = .attach
  · subst e
    refine congrArg Host.Outcome.next ?_
    simp only [State.takeAttach, none']
  · obtain ⟨owner, run⟩ := exec_instr e p s
    rw [run, State.taking_untaken none']

/-! ## A port that is not ATTACHED (R165) -/

theorem PortStatus.takes_of_away {st : PortStatus} (away : st = .detached ∨ st = .detaching) :
    st.takes = true ∧ st ≠ .attached ∧ st ≠ .resetting := by
  rcases away with rfl | rfl <;> decide

/-- A command without a free entry to wait for is taken wherever it stands at the head. -/
theorem AtHead.takeHead_away {c? : Option Cmd} (head : AtHead s p c? f rest)
    (away : (s.ports.get p).status = .detached ∨ (s.ports.get p).status = .detaching) :
    s.takeHead p c? = some (f, s.modPort p (fun q => { q with queue := rest })) := by
  obtain ⟨takes, ne, -⟩ := PortStatus.takes_of_away away
  exact head.takeHead takes (fun attached => absurd attached ne)

/-- Settles O16: NOT_ATTACHED is decided by the state of the port, before the owning block and before the frame is judged. -/
theorem notAttachedAnswered : Obligations.NotAttachedAnswered := by
  intro s p f rest away
  obtain ⟨-, ne, alive⟩ := PortStatus.takes_of_away away
  refine ⟨fun c head unlessAttach => ?_, fun head => ?_⟩
  · by_cases e : c = .attach
    · subst e
      have detaching := unlessAttach rfl
      refine congrArg Host.Outcome.next ?_
      simp only [State.takeAttach, head.takeHead_away away, detaching]
      exact State.complete_taken _ _ alive
    · obtain ⟨owner, run⟩ := exec_instr e p s
      rw [run, head.taking_away away]
  · refine congrArg Host.Outcome.next ?_
    simp only [State.takeUnknown, head.takeHead_away away, if_neg ne]
    exact State.complete_taken _ _ alive

/-! ## No occasion (log 2) -/

/-- Whether a port has no occasion to take a command (R163, R177, R187): RESET is held, the part is STARTING, the port takes no
commands, another frame is at the head, or a long command waits for an entry of the in-flight table. -/
def State.withholds (s : State) (p : Port) (c : Cmd) : Prop :=
  s.startUp.resetPin = true ∨ s.startUp.starting = true
    ∨ (s.ports.get p).status = .absent ∨ (s.ports.get p).status = .resetting
    ∨ ((s.ports.get p).queue.head?).bind Frame.cmd? ≠ some c
    ∨ ((s.ports.get p).status = .attached ∧ c.isLong = true ∧ 8 ≤ (s.ports.get p).inFlight.length)

theorem State.takeHead_of_withholds (no : s.withholds p c) : s.takeHead p (some c) = none := by
  unfold State.takeHead
  dsimp only
  split
  · rfl
  · next open' =>
    simp only [Bool.or_eq_true, Bool.not_eq_true', not_or, Bool.not_eq_true, Bool.not_eq_false] at open'
    obtain ⟨⟨released, started⟩, takes⟩ := open'
    split
    · rfl
    · next f rest queue =>
      rcases no with held | starting | absent | resetting | other | ⟨attached, long, full⟩
      · rw [released] at held; cases held
      · rw [started] at starting; cases starting
      · rw [absent] at takes; cases takes
      · rw [resetting] at takes; cases takes
      · exact if_pos fun same => other (by simpa [queue] using same)
      · rw [if_pos (c := (s.ports.get p).status = .attached ∧ _) ⟨attached, long, full⟩, ite_self]

/-- Settles O17: without its occasion a command is not taken from the queue. -/
theorem nothingTaken : Obligations.NothingTaken := fun _ _ _ no =>
  exec_instr_untaken (State.takeHead_of_withholds no)

end Sys2Proof.Machine
end

section
/-! SUPPORT. RESTART (R172, R173): its two refusals, the other port's queue completed, and the state every block takes. -/

namespace Sys2Proof.Machine

variable {s : State} {p : Port} {f : Frame} {rest : List Frame}

/-! ## A queue completed as a whole -/

/-- Completions of commands that hold no entry change nothing but the port's notices, its timers and what it owes (R178). -/
theorem State.foldl_complete (st : Status) (fs : List Frame) : ∀ s : State, (s.ports.get p).status ≠ .resetting →
    ∃ quiet hold attention, fs.foldl (fun t f => t.complete p f st .none) s = s.modPort p (fun q => { q with
      notices := q.notices ++ fs.map (fun f => .completion f.tag f.code st none .none), owed := q.owed - fs.length
      quiet := quiet, hold := hold, attention := attention }) := by
  induction fs with
  | nil =>
    intro s _
    refine ⟨(s.ports.get p).quiet, (s.ports.get p).hold, (s.ports.get p).attention, ?_⟩
    have same : s.modPort p id = s := congrArg (fun ports => { s with ports := ports }) (PerPort.set_get ..)
    exact same.symm.trans (State.modPort_congr (by simp))
  | cons f fs ih =>
    intro s alive
    have first : s.complete p f st .none = _ := State.deliver_of_ne _ alive
    obtain ⟨quiet, hold, attention, e⟩ := ih (s.complete p f st .none) (by simpa [first] using alive)
    refine ⟨quiet, hold, attention, ?_⟩
    rw [List.foldl_cons, e, first, State.modPort_modPort]
    refine State.modPort_congr ?_
    simp [PortState.join, Nat.sub_sub, Nat.add_comm]

/-- The queue of a port that is not RESETTING leaves with NOT_ATTACHED for each command (R173). -/
theorem State.dropQueue_eq (alive : (s.ports.get p).status ≠ .resetting) :
    ∃ quiet hold attention, s.dropQueue p = s.modPort p (fun q => { q with
      queue := [], notices := q.notices ++ q.queue.map (fun f => .completion f.tag f.code .notAttached none .none)
      owed := q.owed - q.queue.length, quiet := quiet, hold := hold, attention := attention }) := by
  obtain ⟨quiet, hold, attention, e⟩ := State.foldl_complete (p := p) .notAttached (s.ports.get p).queue
    (s.modPort p (fun q => { q with queue := [] })) (by simpa using alive)
  refine ⟨quiet, hold, attention, ?_⟩
  rw [State.dropQueue, e, State.modPort_modPort]
  exact State.modPort_congr rfl

/-! ## The surface manager (R25) -/

theorem restartEntries_zero (es : List SurfaceEntry) : (restartEntries es)[0]? = es[0]? := by
  simp [restartEntries]

theorem restartEntries_pos {es : List SurfaceEntry} {i : Nat} {e : SurfaceEntry} (pos : 1 ≤ i) (at' : es[i]? = some e) :
    (restartEntries es)[i]? = some { gen := if e.body.isSome then e.gen + 1 else e.gen, body := none } := by
  obtain ⟨gen, body⟩ := e
  have ne : i ≠ 0 := by omega
  cases body <;> simp [restartEntries, at', ne]

theorem SurfaceManager.restart_account (m : SurfaceManager) (bad : List Nat) (a : Account) :
    ((m.restart bad).account a).charged = 0 ∧ ((m.restart bad).account a).entries = 0
      ∧ ((m.restart bad).account a).budget = (m.account a).budget := by
  cases a <;> exact ⟨rfl, rfl, rfl⟩

/-! ## The statement -/

theorem PortStatus.away_eq_true {st : PortStatus} : st.away = true ↔ st = .absent ∨ st = .detached := by
  cases st <;> simp [PortStatus.away]

/-- An accepted RESTART: the issuer keeps the RESTART alone, the other port's queue is completed, and every block takes its
state after RESTART. -/
theorem State.restartPart_eq (away : (s.ports.get p.other).status = .absent ∨ (s.ports.get p.other).status = .detached) :
    ∃ quiet hold attention, s.restartPart p f = { s.restartBlocks with
      startUp := { s.startUp with starting := true, restart := some ⟨p, f.tag, (s.ports.get p).notices.length⟩ }
      ports := (s.ports.set p { s.ports.get p with
          status := .detached, inFlight := (s.ports.get p).inFlight ++ [⟨f.code, f.tag⟩], notices := [], lost := 0, mask := 0
          baselines := Counters.zero, quiet := .stopped, hold := .stopped, attention := false, cancelled := 0 }).set p.other
        { s.ports.get p.other with
          queue := [], baselines := Counters.zero
          notices := (s.ports.get p.other).notices
            ++ (s.ports.get p.other).queue.map (fun g => .completion g.tag g.code .notAttached none .none)
          owed := (s.ports.get p.other).owed - (s.ports.get p.other).queue.length
          quiet := quiet, hold := hold, attention := attention } } := by
  let t := ((s.enter p f).modPort p PortState.restartIssuer).modPort p.other (fun q => { q with baselines := Counters.zero })
  have other : t.ports.get p.other = { s.ports.get p.other with baselines := Counters.zero } := by
    simp [t, State.enter]
  obtain ⟨quiet, hold, attention, e⟩ := State.dropQueue_eq (s := t) (p := p.other)
    (by rw [other]; rcases away with h | h <;> simp [h])
  have run : s.restartPart p f = { (t.dropQueue p.other).restartBlocks with
      startUp := { (t.dropQueue p.other).startUp with
        starting := true, restart := some ⟨p, f.tag, (s.ports.get p).notices.length⟩ } } := rfl
  refine ⟨quiet, hold, attention, run.trans ?_⟩
  rw [e]
  refine congrArg (fun ports => { s.restartBlocks with
    startUp := { s.startUp with starting := true, restart := some ⟨p, f.tag, (s.ports.get p).notices.length⟩ }
    ports := ports }) ?_
  simp only [State.restartBlocks, State.modPort_ports, other]
  simp [t, State.enter, PortState.restartIssuer, PortState.calm]

/-- Settles O22: the two refusals leave the blocks alone; an accepted RESTART gives each block its state after RESTART. -/
theorem restartTaken : Obligations.RestartTaken := by
  intro s p f rest takes other
  refine ⟨fun busy => ?_, fun alone free present away => ?_, fun alone free away => ?_⟩
  · refine congrArg Host.Outcome.next (takes.answers (if_pos ?_))
    rcases busy with h | h <;> simp [State.dequeued, h]
  · refine congrArg Host.Outcome.next (takes.answers ((if_neg ?_).trans (if_pos ?_)))
    · simp [State.dequeued, alone, free]
    · have not : ¬ ((s.dequeued p rest).ports.get p.other).status.away = true := by
        rw [PortStatus.away_eq_true]
        simpa [State.dequeued] using ⟨present, away⟩
      simpa using not
  · obtain ⟨quiet, hold, attention, e⟩ := State.restartPart_eq (s := s.dequeued p rest) (p := p) (f := f)
      (by simpa [State.dequeued] using away)
    have held : ((s.dequeued p rest).ports.get p).notices = (s.ports.get p).notices := by simp [State.dequeued]
    rw [held] at e
    have quietIssuer : ((s.dequeued p rest).ports.get p).queue = [] ∧ ((s.dequeued p rest).ports.get p).inFlight = [] := by
      simp [State.dequeued, alone, free]
    have quietOther : ((s.dequeued p rest).ports.get p.other).status.away = true := by
      rw [PortStatus.away_eq_true]
      simpa [State.dequeued] using away
    have run : restart p f (s.dequeued p rest) = (s.dequeued p rest).restartPart p f :=
      (if_neg (by simp [quietIssuer])).trans (if_neg (by simp [quietOther]))
    refine ⟨_, congrArg Host.Outcome.next ((takes.taking _).trans (run.trans e)), ?_, rfl, rfl, restartEntries_zero _,
      fun i _ pos at' => restartEntries_pos pos at', fun a => s.surfaces.restart_account _ a, ?_, ?_⟩
    · rfl
    · exact (PerPort.get_set_ne _ _ _ _ p.other_ne.symm).trans (by simp [State.dequeued, alone, free])
    · simp [State.dequeued, other]

end Sys2Proof.Machine
end

section
/-! SUPPORT. The release of a port's reset line (R171). -/

namespace Sys2Proof.Machine

variable {s : State} {p : Port}

/-- The end of a port's teardown leaves the state of the other port. -/
theorem State.settlePort_status_ne (p : Port) (s : State) :
    ((s.settlePort p).ports.get p.other).status = (s.ports.get p.other).status := by
  by_cases listens : (s.ports.get p.other).status = .attached
  · exact (State.settlePort_noticed p listens).account.1
  · rw [State.settlePort_get_ne p.other_ne listens]

/-- Only one teardown ends where the other port is in none. -/
theorem State.settle_alone (detaching : (s.ports.get p.other).status ≠ .detaching)
    (resetting : (s.ports.get p.other).status ≠ .resetting) : s.settle = s.settlePort p := by
  have still := State.settlePort_status_ne p s
  cases p with
  | a => exact State.settlePort_stays (p := .b) (by rwa [← still] at detaching) (by rwa [← still] at resetting)
  | b => exact congrArg (State.settlePort .b) (State.settlePort_stays (p := .a) detaching resetting)

/-- The level of the reset line takes no part in the end of a teardown. -/
theorem State.settlePort_released (resetting : (s.ports.get p).status = .resetting) :
    (s.TeardownOver p → (s.ports.get p).inFlight = [] →
      (s.modPort p (fun q => { q with resetLine := false })).settlePort p =
        State.notifyIf .portChange p.other (.portChange p .detached)
          (s.modPort p (fun q => { q with resetLine := false, status := .detached, cancelled := 0 })))
    ∧ (¬ s.TeardownOver p →
      (s.modPort p (fun q => { q with resetLine := false })).settlePort p
        = s.modPort p (fun q => { q with resetLine := false })) := by
  let t := s.modPort p (fun q => { q with resetLine := false })
  have port : t.ports.get p = { s.ports.get p with resetLine := false } := PerPort.get_set ..
  have same : t.TeardownOver p ↔ s.TeardownOver p := (s.modPort_linked p _).teardownOver
  rcases State.settlePort_resetting (s := t) (p := p) (by rw [port]; exact resetting) with
    ⟨goesOn, e⟩ | ⟨line, -⟩ | ⟨-, finished, e⟩
  · refine ⟨fun finished empty => ?_, fun _ => e⟩
    rcases goesOn with unfinished | full
    · exact absurd (same.mpr finished) unfinished
    · rw [port] at full
      exact absurd empty full
  · rw [port] at line
    cases line
  · refine ⟨fun _ empty => e.trans ?_, fun unfinished => absurd (same.mp finished) unfinished⟩
    have ended : t.resetEnded p = s.modPort p (fun q => { q with resetLine := false, status := .detached, cancelled := 0 }) :=
      (State.modPort_modPort ..).trans (State.modPort_congr (by rw [← empty]))
    rw [State.portChange, ended]
    simp

/-- Settles O21: a release ends the teardown whose blocks are done, and leaves one that goes on. -/
theorem portResetReleased : Obligations.PortResetReleased := by
  intro s p released
  have open' : ¬ s.startUp.resetPin = true := by simp [released]
  refine ⟨fun absent => ?_, fun resetting otherDetaching otherResetting => ?_⟩
  · simp only [exec, execPortResetRelease, if_neg open', absent]
  · have run : exec (.portResetRelease p) s
        = .next ((s.modPort p (fun q => { q with resetLine := false })).settlePort p) := by
      simp only [exec, execPortResetRelease, if_neg open', resetting]
      exact congrArg Host.Outcome.next (State.settle_alone (by simpa using otherDetaching) (by simpa using otherResetting))
    obtain ⟨ends, stays⟩ := State.settlePort_released resetting
    rw [run]
    exact ⟨fun finished empty => congrArg _ (ends finished empty), fun unfinished => congrArg _ (stays unfinished)⟩

end Sys2Proof.Machine
end

section
/-! SUPPORT. A port's wish on both outputs (R79, R81), and ATTACH (R165, R166). -/

namespace Sys2Proof.Machine

variable {s t : State} {p q : Port} {o : OutputId} {w : Option Wish} {f : Frame} {rest : List Frame}

/-! ## A wish on one output (R79, R81) -/

theorem State.modOut_congr {g h : OutputState → OutputState} (e : g (s.outputs.get o) = h (s.outputs.get o)) :
    s.modOut o g = s.modOut o h := by
  simp only [State.modOut, e]

theorem State.LinkedTo.outputs (h : s.LinkedTo t) : t.outputs = s.outputs := by
  obtain ⟨_, _, rfl⟩ := h
  rfl

/-- An output after a port's wish: an ASLEEP one starts its timing where the target changes to another (R81). -/
def OutputState.wished (q : OutputState) (p : Port) (w : Option Wish) : OutputState :=
  let ws := q.wishes.set p w
  let r := { q with wishes := ws }
  if q.panel = .asleep ∧ panelTarget ws ≠ panelTarget q.wishes ∧ panelTarget ws ≠ .asleep then
    r.start (if panelTarget ws = .active then .waking else .blanked)
  else r

theorem OutputState.wished_cases (q : OutputState) (p : Port) (w : Option Wish) :
    q.wished p w = { q with wishes := q.wishes.set p w }
    ∨ (q.panel = .asleep ∧ panelTarget (q.wishes.set p w) ≠ panelTarget q.wishes ∧ panelTarget (q.wishes.set p w) ≠ .asleep
      ∧ q.wished p w = ({ q with wishes := q.wishes.set p w } : OutputState).start
          (if panelTarget (q.wishes.set p w) = .active then .waking else .blanked)) := by
  unfold OutputState.wished
  dsimp only
  split
  · next h => exact .inr ⟨h.1, h.2.1, h.2.2, rfl⟩
  · exact .inl rfl

theorem OutputState.wished_awake {q : OutputState} (awake : q.panel ≠ .asleep) :
    q.wished p w = { q with wishes := q.wishes.set p w } := if_neg fun h => awake h.1

/-- A wish leaves an output its timing, its latches and what it shows. -/
theorem OutputState.wished_kept (q : OutputState) (p : Port) (w : Option Wish) :
    (q.wished p w).timing = q.timing ∧ (q.wished p w).wishes = q.wishes.set p w
      ∧ (q.wished p w).latches = q.latches ∧ (q.wished p w).internal = q.internal
      ∧ (q.wished p w).layers = q.layers ∧ (q.wished p w).holdSet = q.holdSet
      ∧ (q.wished p w).forcedBlank = q.forcedBlank := by
  rcases q.wished_cases p w with e | ⟨-, -, -, e⟩ <;> rw [e] <;> exact ⟨rfl, rfl, rfl, rfl, rfl, rfl, rfl⟩

/-- The state in which an enabled output has taken a port's wish, before its notice. -/
def State.wished (p : Port) (w : Option Wish) (o : OutputId) (s : State) : State :=
  if s.outputEnabled o then s.modOut o (·.wished p w) else s

theorem State.wished_outputs : (s.wished p w o).outputs.get o =
    if s.outputEnabled o then (s.outputs.get o).wished p w else s.outputs.get o := by
  unfold State.wished
  split <;> simp

theorem State.wished_outputs_ne {k : OutputId} (ne : k ≠ o) : (s.wished p w o).outputs.get k = s.outputs.get k := by
  unfold State.wished
  split
  · exact PerOutput.get_set_ne _ _ _ _ ne
  · rfl

theorem State.wished_eq (p : Port) (w : Option Wish) (o : OutputId) (s : State) :
    s.wished p w o = { s with outputs := (s.wished p w o).outputs } := by
  unfold State.wished
  split <;> rfl

/-- A wish acts on its output, and an output that it wakes says so (R81). -/
theorem State.setWish_cases (p : Port) (w : Option Wish) (o : OutputId) (s : State) :
    s.setWish p w o = s.wished p w o ∨ s.setWish p w o = (s.wished p w o).panelNotice o := by
  by_cases on : s.outputEnabled o = true
  · have act : s.setWish p w o =
        let t := s.modOut o (fun q => { q with wishes := q.wishes.set p w })
        if panelTarget ((s.outputs.get o).wishes.set p w) = panelTarget (s.outputs.get o).wishes then t
        else t.targetChanged o (panelTarget ((s.outputs.get o).wishes.set p w)) := by
      simp [State.setWish, on]
    rw [act, State.wished, if_pos on]
    dsimp only
    split
    · next same =>
      exact .inl (State.modOut_congr (if_neg fun h => h.2.1 same).symm)
    · next changes =>
      by_cases wakes : (s.outputs.get o).panel = .asleep ∧ panelTarget ((s.outputs.get o).wishes.set p w) ≠ .asleep
      · rw [State.targetChanged_asleep (by simpa using wakes.1) wakes.2, State.modOut_modOut]
        exact .inr (congrArg _ (State.modOut_congr (if_pos ⟨wakes.1, changes, wakes.2⟩).symm))
      · rw [State.targetChanged_awake (by simpa [Classical.or_iff_not_imp_left] using wakes)]
        exact .inl (State.modOut_congr (if_neg fun h => wakes ⟨h.1, h.2.2⟩).symm)
  · rw [State.setWish, if_neg on, State.wished, if_neg on]
    exact .inl rfl

theorem State.setWish_linked (p : Port) (w : Option Wish) (o : OutputId) (s : State) :
    (s.wished p w o).LinkedTo (s.setWish p w o) := by
  rcases s.setWish_cases p w o with e | e <;> rw [e]
  · exact State.linkedTo_refl _
  · exact State.publish_linked _ _ _

theorem State.setWish_noticed (p : Port) (w : Option Wish) (o : OutputId) (s : State) (q : Port) :
    (s.ports.get q).noticed ((s.setWish p w o).ports.get q) := by
  have same : (s.wished p w o).ports = s.ports := by rw [s.wished_eq]
  rcases s.setWish_cases p w o with e | e <;> rw [e, ← same]
  · exact PortState.noticed_refl _
  · exact ((State.leavesLatches_refl _).publish _ _).ports q

/-- A wish takes at most one of the places a port has left. -/
theorem State.setWish_hears {bit k : Nat} (h : (s.ports.get q).hears bit (k + 1)) :
    ((s.setWish p w o).ports.get q).hears bit k := by
  have same : (s.wished p w o).ports = s.ports := by rw [s.wished_eq]
  rw [← same] at h
  rcases s.setWish_cases p w o with e | e <;> rw [e]
  · obtain ⟨attached, subscribed, room⟩ := h
    exact ⟨attached, subscribed, by omega⟩
  · exact State.publish_hears h _ _

/-! ## A wish on both outputs -/

theorem State.setWish_outputs : (s.setWish p w o).outputs.get o =
    if s.outputEnabled o then (s.outputs.get o).wished p w else s.outputs.get o := by
  rw [(s.setWish_linked p w o).outputs, State.wished_outputs]

theorem State.setWish_outputs_ne {k : OutputId} (ne : k ≠ o) : (s.setWish p w o).outputs.get k = s.outputs.get k := by
  rw [(s.setWish_linked p w o).outputs, State.wished_outputs_ne ne]

theorem State.setWishes_outputs (p : Port) (w : Option Wish) (s : State) (o : OutputId) :
    (s.setWishes p w).outputs.get o = if s.outputEnabled o then (s.outputs.get o).wished p w else s.outputs.get o := by
  unfold State.setWishes
  cases o with
  | o0 => rw [State.setWish_outputs_ne (by decide), State.setWish_outputs]
  | o1 =>
    have same : (s.setWish p w .o0).outputs.get .o1 = s.outputs.get .o1 := State.setWish_outputs_ne (by decide)
    rw [State.setWish_outputs, State.outputEnabled, same]
    rfl

/-- Nothing differs but the outputs, the ports and the counters of the ports. -/
def State.WishedTo (s t : State) : Prop :=
  ∃ outs ps k, t = { s with outputs := outs, ports := ps, counters := { s.counters with port := k } }

theorem State.WishedTo.trans {u : State} (h : s.WishedTo t) (k : t.WishedTo u) : s.WishedTo u := by
  obtain ⟨_, _, _, rfl⟩ := h
  obtain ⟨_, _, _, rfl⟩ := k
  exact ⟨_, _, _, rfl⟩

theorem State.WishedTo.eq (h : s.WishedTo t) :
    t = { s with outputs := t.outputs, ports := t.ports, counters := t.counters } := by
  obtain ⟨_, _, _, rfl⟩ := h
  rfl

theorem State.LinkedTo.wishedTo (h : s.LinkedTo t) : s.WishedTo t := by
  obtain ⟨_, _, rfl⟩ := h
  exact ⟨_, _, _, rfl⟩

theorem State.setWish_wishedTo (p : Port) (w : Option Wish) (o : OutputId) (s : State) : s.WishedTo (s.setWish p w o) := by
  have own : s.WishedTo (s.wished p w o) := ⟨_, _, _, s.wished_eq p w o⟩
  exact own.trans (s.setWish_linked p w o).wishedTo

theorem State.setWishes_wishedTo (p : Port) (w : Option Wish) (s : State) : s.WishedTo (s.setWishes p w) :=
  (s.setWish_wishedTo p w .o0).trans (State.setWish_wishedTo p w .o1 _)

theorem State.setWishes_noticed (p : Port) (w : Option Wish) (s : State) (q : Port) :
    (s.ports.get q).noticed ((s.setWishes p w).ports.get q) :=
  (s.setWish_noticed p w .o0 q).trans (State.setWish_noticed p w .o1 _ q)

theorem State.setWishes_hears {bit k : Nat} (h : (s.ports.get q).hears bit (k + 2)) :
    ((s.setWishes p w).ports.get q).hears bit k := State.setWish_hears (State.setWish_hears h)

/-! ## ATTACH (R166) -/

/-- The report of ATTACH is the same before and after the port's wishes: it names no more than settings (R166). -/
theorem State.WishedTo.attachReport (h : s.WishedTo t) (timing : ∀ o, (t.outputs.get o).timing = (s.outputs.get o).timing)
    (maintainer : (t.ports.get p).maintainer = (s.ports.get p).maintainer) : t.attachReport p = s.attachReport p := by
  have geometry (o : OutputId) : (t.outputs.get o).geometry = (s.outputs.get o).geometry := by
    simp only [OutputState.geometry, timing o]
  have o0 := geometry .o0
  have o1 := geometry .o1
  obtain ⟨_, _, _, rfl⟩ := h
  simp only [State.attachReport, maintainer]
  exact congrArg₂ (fun x y => ({ s.attachReport p with outputs := ⟨x, y⟩ } : AttachReport)) o0 o1

/-- A part that has started is RUNNING, or in FAULT (R160). -/
theorem State.attachReport_started (started : s.startUp.starting = false) :
    s.attachReport p = { s.attachReport p with part := if s.errors.fault then .fault else .running } := by
  simp [State.attachReport, State.part, started]

/-- The state in which a port has become ATTACHED and its wishes act, before its completion (R166, R79). -/
def State.welcomed (p : Port) (s : State) : State := State.setWishes p (some .active) (s.setStatus p .attached)

theorem State.welcomed_wishedTo (p : Port) (s : State) : s.WishedTo (s.welcomed p) :=
  (s.modPort_linked p _).wishedTo.trans (State.setWishes_wishedTo p _ _)

theorem State.welcomed_outputs (p : Port) (s : State) (o : OutputId) : (s.welcomed p).outputs.get o =
    if s.outputEnabled o then (s.outputs.get o).wished p (some .active) else s.outputs.get o :=
  State.setWishes_outputs p _ _ o

theorem State.welcomed_noticed (p : Port) (s : State) :
    ({ s.ports.get p with status := .attached } : PortState).noticed ((s.welcomed p).ports.get p) := by
  have h := State.setWishes_noticed p (some .active) (s.setStatus p .attached) p
  rwa [State.setStatus, State.modPort_ports, PerPort.get_set] at h

theorem State.welcomed_hears {bit k : Nat} (h : (s.ports.get p.other).hears bit (k + 2)) :
    ((s.welcomed p).ports.get p.other).hears bit k :=
  State.setWishes_hears (by rwa [State.setStatus, State.modPort_get_ne p.other_ne])

theorem attachPort_linked (p : Port) (f : Frame) (s : State) : (s.welcomed p).LinkedTo (attachPort p f s) :=
  (State.deliver_linked p _ _).trans (State.notifyIf_linked _ _ _ _)

/-- The issuer's completion joins its notices last. -/
theorem attachPort_port (p : Port) (f : Frame) (s : State) : (attachPort p f s).ports.get p =
    let r := (s.welcomed p).ports.get p
    { r.join (.completion f.tag f.code .ok none (.attach ((s.welcomed p).attachReport p))) with owed := r.owed - 1 } := by
  have alive : ((s.welcomed p).ports.get p).status ≠ .resetting := by simp [(s.welcomed_noticed p).account.1]
  have told (t : State) : (t.portChange p).ports.get p = t.ports.get p := State.notifyIf_get_ne p.other_ne.symm _ _ _
  calc (attachPort p f s).ports.get p
      = ((s.welcomed p).complete p f .ok (.attach ((s.welcomed p).attachReport p))).ports.get p := told _
    _ = _ := by rw [State.complete, State.deliver_of_ne _ alive, State.modPort_ports, PerPort.get_set]

/-- PORT CHANGE joins the other port's notices last where it has room behind those of two outputs that wake. -/
theorem attachPort_other (h : (s.ports.get p.other).hears 3 3) :
    ((attachPort p f s).ports.get p.other).notices.getLast? = some (.portChange p .attached) := by
  let t := (s.welcomed p).complete p f .ok (.attach ((s.welcomed p).attachReport p))
  have alive : ((s.welcomed p).ports.get p).status ≠ .resetting := by simp [(s.welcomed_noticed p).account.1]
  have completed : t = (s.welcomed p).modPort p _ := State.deliver_of_ne _ alive
  have status : (t.ports.get p).status = .attached := by
    rw [completed, State.modPort_ports, PerPort.get_set]
    exact (s.welcomed_noticed p).account.1
  have other : t.ports.get p.other = (s.welcomed p).ports.get p.other := by rw [completed, State.modPort_get_ne p.other_ne]
  have told : (attachPort p f s).ports.get p.other = (t.ports.get p.other).join (.portChange p (t.ports.get p).status) :=
    State.notifyIf_get (s := t) (x := .portChange) (other ▸ State.welcomed_hears h) _
  rw [told, status]
  simp

/-- Settles O18: the state of the port decides, and the wishes act before the completion. -/
theorem attachTaken : Obligations.AttachTaken := by
  intro s p f rest head
  refine ⟨fun attached => congrArg Host.Outcome.next ?_, fun detached => ?_⟩
  · have takes : Takes s p .attach f rest := ⟨head, attached, nofun⟩
    simp only [State.takeAttach, head.takeHead (by simp [attached, PortStatus.takes]) (fun _ => nofun), attached]
    exact State.complete_taken _ _ takes.ne_resetting
  · let u := s.dequeued p rest
    have mine : u.ports.get p = { s.ports.get p with queue := rest } := PerPort.get_set ..
    have other : u.ports.get p.other = s.ports.get p.other := State.modPort_get_ne p.other_ne _
    have linked := attachPort_linked p f u
    have wished : s.WishedTo (attachPort p f u) :=
      ((s.modPort_linked p _).wishedTo.trans (u.welcomed_wishedTo p)).trans linked.wishedTo
    have port := attachPort_port p f u
    obtain ⟨-, -, kept⟩ := u.welcomed_noticed p
    have outputs (o : OutputId) : (attachPort p f u).outputs.get o =
        if s.outputEnabled o then (s.outputs.get o).wished p (some .active) else s.outputs.get o := by
      rw [linked.outputs]
      exact u.welcomed_outputs p o
    have report := (((s.modPort_linked p _).wishedTo).trans (u.welcomed_wishedTo p)).attachReport (p := p)
      (fun o => by rw [u.welcomed_outputs]; split <;> simp [OutputState.wished_kept, u]) (by rw [kept, mine])
    refine ⟨attachPort p f u, congrArg Host.Outcome.next ?_, wished.eq, ?_, ?_, ?_, ?_, ?_, ?_, ?_, ?_, ?_, ?_, ?_⟩
    · simp only [State.takeAttach, head.takeHead_away (.inl detached), detached]
      rfl
    · rw [port, kept]; rfl
    · rw [port, kept, mine]; rfl
    · rw [port, kept, mine]
    · rw [port, kept, mine]; rfl
    · rw [port, kept, mine]; rfl
    · rw [port, kept, mine]; rfl
    · rw [port, report, State.attachReport_started head.started]
      refine List.getLast?_concat.trans (congrArg (fun r => some (Notice.completion f.tag f.code .ok none (.attach r))) ?_)
      cases p <;> rfl
    · intro o off
      rw [outputs, if_neg (by simp [off])]
    · intro o on awake
      rw [outputs, if_pos on, OutputState.wished_awake awake]
    · intro o on asleep changes
      have target : panelTarget ((s.outputs.get o).wishes.set p (some .active)) = .active := by simp [panelTarget_set]
      have wakes : (s.outputs.get o).panel = .asleep ∧ panelTarget ((s.outputs.get o).wishes.set p (some .active))
          ≠ panelTarget (s.outputs.get o).wishes ∧ panelTarget ((s.outputs.get o).wishes.set p (some .active)) ≠ .asleep := by
        rw [target]
        exact ⟨asleep, changes.symm, nofun⟩
      rw [outputs, if_pos on, OutputState.wished, if_pos wakes, if_pos target]
      rfl
    · intro attached subscribed room
      refine attachPort_other ?_
      rw [other]
      exact ⟨attached, subscribed, by omega⟩

end Sys2Proof.Machine
end

section
/-! SUPPORT. What the two ports see of a teardown (R168, R178, R179): the notices that join, the entries that are freed, the
commands that are cancelled, and the silence of a port in RESETTING. -/

namespace Sys2Proof.Machine

variable {s t u : State} {p q : Port} {m n : Nat}

/-! ## Ports at a teardown -/

/-- A port that took notices and completions, `n` of its commands being counted as cancelled: a port in RESETTING takes
nothing but the freed entries (R178), and no entry of a DETACH is among those. -/
structure PortState.torn (n : Nat) (q r : PortState) : Prop where
  notices : q.notices <+: r.notices
  lost : q.lost ≤ r.lost
  rest : r = { q with
    inFlight := r.inFlight, notices := r.notices, owed := r.owed, lost := r.lost, quiet := r.quiet, hold := r.hold
    attention := r.attention, cancelled := q.cancelled + n }
  silent : q.status = .resetting → r = { q with inFlight := r.inFlight, cancelled := q.cancelled + n }
  detaches : ∀ tag, r.inFlight.count ⟨0x02, tag⟩ = q.inFlight.count ⟨0x02, tag⟩

theorem PortState.torn_refl (q : PortState) : q.torn 0 q := ⟨List.prefix_rfl, Nat.le_refl _, rfl, fun _ => rfl, fun _ => rfl⟩

theorem PortState.torn.trans {q r v : PortState} (h : q.torn m r) (k : r.torn n v) : q.torn (m + n) v where
  notices := h.notices.trans k.notices
  lost := h.lost.trans k.lost
  rest := k.rest.trans (by rw [h.rest]; simp [Nat.add_assoc])
  silent resetting := by
    have first := h.silent resetting
    exact (k.silent (by rw [first]; exact resetting)).trans (by rw [first]; simp [Nat.add_assoc])
  detaches tag := (k.detaches tag).trans (h.detaches tag)

theorem PortState.torn.status {q r : PortState} (h : q.torn n r) : r.status = q.status := by rw [h.rest]
theorem PortState.torn.mask {q r : PortState} (h : q.torn n r) : r.mask = q.mask := by rw [h.rest]
theorem PortState.torn.baselines {q r : PortState} (h : q.torn n r) : r.baselines = q.baselines := by rw [h.rest]
theorem PortState.torn.queue {q r : PortState} (h : q.torn n r) : r.queue = q.queue := by rw [h.rest]
theorem PortState.torn.cancelled {q r : PortState} (h : q.torn n r) : r.cancelled = q.cancelled + n := by rw [h.rest]

/-- Whether both ports saw no more than that, `n` commands of port `p` being cancelled. -/
def State.Tears (s t : State) (p : Port) (n : Nat) : Prop :=
  ∀ q, (s.ports.get q).torn (if q = p then n else 0) (t.ports.get q)

theorem State.tears_of_ports (e : t.ports = s.ports) : s.Tears t p 0 := fun q => by
  rw [e, ite_self]
  exact PortState.torn_refl _

theorem State.tears_refl (s : State) (p : Port) : s.Tears s p 0 := State.tears_of_ports rfl

theorem State.Tears.trans (h : s.Tears t p m) (k : t.Tears u p n) : s.Tears u p (m + n) := fun q => by
  have both := (h q).trans (k q)
  by_cases own : q = p
  · simpa only [if_pos own] using both
  · simpa only [if_neg own] using both

theorem State.Tears.andThen (h : s.Tears t p n) (k : t.Tears u p 0) : s.Tears u p n := h.trans k

theorem State.Tears.of_ports (h : s.Tears t p n) (e : u.ports = t.ports) : s.Tears u p n := h.trans (State.tears_of_ports e)

theorem State.Tears.since (h : t.Tears u p n) (e : t.ports = s.ports) : s.Tears u p n := by
  have both := (State.tears_of_ports (p := p) e).trans h
  rwa [Nat.zero_add] at both

theorem State.Tears.own (h : s.Tears t p n) : (s.ports.get p).torn n (t.ports.get p) := by
  have own := h p
  rwa [if_pos rfl] at own

theorem State.Tears.other (h : s.Tears t p n) : (s.ports.get p.other).torn 0 (t.ports.get p.other) := by
  have other := h p.other
  rwa [if_neg p.other_ne] at other

theorem State.Tears.status (h : s.Tears t p n) (q : Port) : (t.ports.get q).status = (s.ports.get q).status := (h q).status

theorem State.Tears.keepsNotices (h : s.Tears t p n) : s.KeepsNotices t := fun q => (h q).notices

theorem State.modPort_tears {f : PortState → PortState} (change : (s.ports.get q).torn 0 (f (s.ports.get q))) :
    s.Tears (s.modPort q f) p 0 := fun r => by
  rw [ite_self]
  by_cases e : r = q
  · subst e
    rw [State.modPort_ports, PerPort.get_set]
    exact change
  · rw [State.modPort_get_ne e]
    exact PortState.torn_refl _

/-- A loop of steps that cancel nothing. -/
theorem State.foldl_tears {α : Type} {F : State → α → State} (step : ∀ t a, State.Tears t (F t a) p 0) (as : List α)
    (s : State) : s.Tears (as.foldl F s) p 0 :=
  foldl_keeps (P := fun t => s.Tears t p 0) (fun t a ht => ht.andThen (step t a)) as (s.tears_refl p)

/-! ## Notices and completions -/

theorem State.notify_tears (q : Port) (note : Notice) (s : State) : s.Tears (s.notify q note) p 0 := by
  rcases s.notify_cases q note with ⟨-, e⟩ | ⟨attached, -, e⟩ | ⟨attached, -, e⟩ <;> rw [e]
  · exact s.tears_refl p
  · refine State.modPort_tears ⟨List.prefix_append _ _, Nat.le_refl _, rfl, fun resetting => ?_, fun _ => rfl⟩
    rw [attached] at resetting
    cases resetting
  · refine State.Tears.of_ports (State.modPort_tears (f := fun r => { r with lost := satSucc255 r.lost })
      ⟨List.prefix_rfl, le_satSucc255 _, rfl, fun resetting => ?_, fun _ => rfl⟩) rfl
    rw [attached] at resetting
    cases resetting

theorem State.notifyIf_tears (x : Topic) (q : Port) (note : Notice) (s : State) : s.Tears (s.notifyIf x q note) p 0 := by
  unfold State.notifyIf
  split
  · exact s.notify_tears q note
  · exact s.tears_refl p

theorem State.publish_tears (x : Topic) (note : Notice) (s : State) : s.Tears (s.publish x note) p 0 :=
  (s.notifyIf_tears x .a note).andThen (State.notifyIf_tears x .b note _)

theorem Cmd.code_eq_detach {c : Cmd} (h : c.code = 0x02) : c = .detach := by
  cases c <;> first | rfl | exact absurd h (by decide)

theorem State.completeHeld_tears {c : Cmd} (ne : c ≠ .detach) (q : Port) (tag : Byte) (st : Status)
    (why : Option PlaceholderReason) (res : Result) (s : State) : s.Tears (s.completeHeld q c tag st why res) p 0 := by
  have detaches (es : List InFlight) (tag' : Byte) :
      (es.erase ⟨c.code, tag⟩).count ⟨0x02, tag'⟩ = es.count ⟨0x02, tag'⟩ :=
    List.count_erase_of_ne fun e => ne (Cmd.code_eq_detach (congrArg InFlight.code e).symm)
  unfold State.completeHeld State.deliver
  split
  · exact State.modPort_tears ⟨List.prefix_rfl, Nat.le_refl _, rfl, fun _ => rfl, detaches _⟩
  · next alive =>
    rw [State.modPort_modPort]
    refine State.modPort_tears ⟨List.prefix_append _ _, Nat.le_refl _, rfl, fun resetting => ?_, detaches _⟩
    simp [resetting] at alive

/-! ## Wishes, layers and streams -/

theorem State.setWish_tears (q : Port) (w : Option Wish) (o : OutputId) (s : State) : s.Tears (s.setWish q w o) p 0 := by
  have same : (s.wished q w o).ports = s.ports := by rw [s.wished_eq]
  rcases s.setWish_cases q w o with e | e <;> rw [e]
  · exact State.tears_of_ports same
  · exact (State.tears_of_ports same).andThen (State.publish_tears _ _ _)

theorem State.setWishes_tears (q : Port) (w : Option Wish) (s : State) : s.Tears (s.setWishes q w) p 0 :=
  (s.setWish_tears q w .o0).andThen (State.setWish_tears q w .o1 _)

theorem completeLatches_tears (o : OutputId) (count : Word32) (es : List LatchEntry) (s : State) :
    s.Tears (completeLatches o count es s) p 0 := by
  unfold completeLatches
  exact State.foldl_tears (fun t e => t.completeHeld_tears (c := .latch) (by decide) e.port e.tag .ok none _) es s

theorem State.tearLayersOn_tears (q : Port) (o : OutputId) (s : State) : s.Tears (s.tearLayersOn q o) p 0 := by
  unfold State.tearLayersOn
  dsimp only
  split
  · exact s.tears_refl p
  · split
    · exact (completeLatches_tears _ _ _ _).since rfl
    · exact State.tears_of_ports rfl

theorem State.tearLayers_tears (q : Port) (s : State) : s.Tears (s.tearLayers q) p 0 := by
  unfold State.tearLayers
  exact (((State.tearLayersOn_tears q .o0 _).andThen (State.tearLayersOn_tears q .o1 _)).of_ports
    (State.reportUnnamed_curated _ _).ports).since rfl

theorem State.releaseSlot_tears (i : StreamId) (k : Nat) (s : State) : s.Tears (s.releaseSlot i k) p 0 := by
  unfold State.releaseSlot State.emptySlot State.slotFreed
  split
  · split
    · exact State.tears_of_ports rfl
    · split
      · exact (State.notify_tears _ _ _).since rfl
      · exact State.tears_of_ports rfl
  · exact s.tears_refl p

theorem State.haltStream_tears (i : StreamId) (s : State) : s.Tears (s.haltStream i) p 0 := by
  rw [State.haltStream_eq]
  exact ((State.foldl_tears (fun t k => t.releaseSlot_tears i k) _ _).andThen (State.tears_of_ports rfl)).since rfl

theorem State.finishClose_tears (i : StreamId) (s : State) : s.Tears (s.finishClose i) p 0 := by
  have detached := (s.detachSlots_curated (s.streams.get i).slots).ports
  have closed : s.Tears (s.streamClosed i) p 0 :=
    (State.publish_tears _ _ _).since (by exact detached)
  rcases s.finishClose_cases i with e | e | ⟨q, tag, e⟩ <;> rw [e]
  · exact s.tears_refl p
  · exact closed
  · exact closed.andThen (State.completeHeld_tears (c := .closeStream) nofun _ _ _ _ _ _)

theorem State.beginClose_tears (i : StreamId) (tag : Option Byte) (s : State) : s.Tears (s.beginClose i tag) p 0 := by
  have halted : s.Tears ((s.haltStream i).modStream i (fun r => { r with state := .closing, closeTag := tag })) p 0 :=
    (s.haltStream_tears i).of_ports rfl
  have closing : s.Tears (s.closingStream i tag) p 0 := halted.andThen (State.publish_tears _ _ _)
  rw [State.beginClose_eq]
  exact closing.andThen (State.finishClose_tears i _)

theorem State.tearStream_tears (q : Port) (i : StreamId) (s : State) : s.Tears (s.tearStream q i) p 0 := by
  unfold State.tearStream
  dsimp only
  split
  · exact s.beginClose_tears i none
  · exact s.tears_refl p

theorem State.tearStreams_tears (q : Port) (s : State) : s.Tears (s.tearStreams q) p 0 :=
  ((s.tearStream_tears q .s0).andThen (State.tearStream_tears q .s1 _)).of_ports (State.freeRetired_curated _).ports

/-! ## Cancelled commands (R130, R148, R169) -/

/-- A command of the in-flight table completes with CANCELLED and is counted. -/
def State.cancelHeld (p : Port) (c : Cmd) (s : State) (tag : Byte) : State :=
  (s.completeHeld p c tag .cancelled none .none).modPort p (fun q => { q with cancelled := q.cancelled + 1 })

theorem State.cancelHeld_tears {c : Cmd} (ne : c ≠ .detach) (tag : Byte) (s : State) :
    s.Tears (s.cancelHeld p c tag) p 1 := by
  have completed : s.Tears (s.completeHeld p c tag .cancelled none .none) p 0 := s.completeHeld_tears ne p tag _ _ _
  have counted (t : State) : t.Tears (t.modPort p (fun q => { q with cancelled := q.cancelled + 1 })) p 1 := fun q => by
    by_cases e : q = p
    · subst e
      rw [State.modPort_ports, PerPort.get_set, if_pos rfl]
      exact ⟨List.prefix_rfl, Nat.le_refl _, rfl, fun _ => rfl, fun _ => rfl⟩
    · rw [State.modPort_get_ne e, if_neg e]
      exact PortState.torn_refl _
  exact (completed.trans (counted _)).trans (State.tears_refl _ p)

theorem State.cancelHeld_portsOnly (p : Port) (c : Cmd) (tag : Byte) (s : State) : s.PortsOnly (s.cancelHeld p c tag) :=
  (s.completeHeld_portsOnly p c tag .cancelled none .none).trans rfl

theorem State.mem_cancelHeld {c : Cmd} {tag : Byte} (alive : (s.ports.get p).status ≠ .resetting) :
    Notice.completion tag c.code .cancelled none .none ∈ ((s.cancelHeld p c tag).ports.get p).notices := by
  have mem := State.mem_completeHeld (c := c) (tag := tag) (st := .cancelled) (why := none) (res := .none) alive
  rw [State.cancelHeld, State.modPort_ports, PerPort.get_set]
  exact mem

section
variable {α : Type} {F : State → α → State} (step : ∀ t a, State.Tears t (F t a) p 1)
include step

/-- A loop that cancels one command at each step counts them all. -/
theorem State.foldl_cancels (as : List α) : ∀ s : State, s.Tears (as.foldl F s) p as.length := by
  induction as with
  | nil => exact fun s => s.tears_refl p
  | cons a as ih =>
    intro s
    rw [List.length_cons, Nat.add_comm]
    exact (step s a).trans (ih _)

/-- What one item of the list has told the port is in its notices after all of them. -/
theorem State.mem_foldl_cancels {note : Notice} {a : α} {as : List α} (mem : a ∈ as)
    (tells : ∀ t : State, (t.ports.get p).status ≠ .resetting → note ∈ ((F t a).ports.get p).notices)
    (alive : (s.ports.get p).status ≠ .resetting) : note ∈ ((as.foldl F s).ports.get p).notices := by
  induction as generalizing s with
  | nil => cases mem
  | cons b as ih =>
    rcases List.mem_cons.mp mem with rfl | mem
    · exact ((State.foldl_cancels step as _).keepsNotices p).mem (tells s alive)
    · exact ih mem (by rwa [(step s b).status])

end

end Sys2Proof.Machine
end

section
/-! SUPPORT. What the loader's begin, asked in the course of a teardown, leaves (R120, R121, R130, R146; log 27): one closure
for every property, and the posters of a port whose counts are gone. -/

namespace Sys2Proof.Machine

variable {s t u : State} {p : Port} {i j n : Nat} {g : Byte} {x : Surface} {P : State → Prop}

/-! ## The steps of the loader's begin (R120, R121) -/

/-- A property that each step of the loader's begin keeps: its mode, a head that fails, an eviction, a fill that begins. -/
structure LoaderKeeps (P : State → Prop) : Prop where
  work : ∀ (t : State) w, P t → P (t.modCache (fun c => { c with work := w }))
  fail : ∀ (t : State) why, P t → P (t.failHead why)
  evict : ∀ (t : State) i, P t → P (t.evict i)
  fill : ∀ (t : State) r i, t.surfaces.lowestFree = some i → P t → P (t.fillBegun r i)

/-- An eviction leaves one idle poster fewer, so the allocation ends in a fill or in a head that fails. -/
theorem LoaderKeeps.loaderAllocate (h : LoaderKeeps P) (r : DirRecord) (s : State) (hs : P s) : P (s.loaderAllocate r) := by
  induction len : s.cache.idle.length using Nat.strong_induction_on generalizing s with
  | _ k ih =>
    by_cases poor : s.surfaces.posters.budget < pageCount (byteSize r.format r.width r.height)
    · rw [State.loaderAllocate_noBudget rfl poor]
      exact h.fail s _ hs
    by_cases room : s.posterRoom (pageCount (byteSize r.format r.width r.height))
    · obtain ⟨i, lowest⟩ := Option.ne_none_iff_exists'.mp (State.posterRoom_iff.mp room).2
      rw [State.loaderAllocate_room rfl room lowest]
      exact h.fill s r i lowest hs
    cases found : s.evictable with
    | none =>
      rw [State.loaderAllocate_stuck rfl room found]
      exact h.fail s _ hs
    | some j =>
      have fewer : (s.evict j).cache.idle.length < k := by
        have mem : j ∈ s.cache.idle := List.mem_of_find?_eq_some found
        have erased := List.length_erase_add_one mem
        rw [(s.evict_evicted j).1]
        dsimp only
        omega
      rw [State.loaderAllocate_evicts (Nat.not_lt.mp poor) room found]
      exact ih _ fewer _ (h.evict s j hs) rfl

theorem LoaderKeeps.loaderBegin (h : LoaderKeeps P) (hs : P s) : P s.loaderBegin := by
  unfold State.loaderBegin
  split
  · exact hs
  · split
    · exact h.work s _ hs
    · split
      · exact h.fail s _ hs
      · split
        · exact h.work s _ hs
        · exact h.loaderAllocate _ s hs

theorem LoaderKeeps.answerLoader (h : LoaderKeeps P) (hs : P s) : P s.answerLoader := by
  unfold State.answerLoader
  split
  · exact h.loaderBegin hs
  · exact hs

/-- A head that fails changes no surface, no layer and no arbiter. -/
theorem State.failHead_cases (why : PlaceholderReason) (s : State) :
    s.failHead why = s ∨ ∃ e q, s.cache.queue = e :: q
      ∧ s.failHead why = s.headGone.answerWaiters e.waiters .placeholder (some why) (.poster ⟨0, 0⟩ e.title none)
      ∧ s.headGone.PortsOnly (s.failHead why) := by
  cases queue : s.cache.queue with
  | nil => exact .inl (by rw [State.failHead, queue])
  | cons e q =>
    have fails := State.failHead_eq queue why
    exact .inr ⟨e, q, rfl, fails, by rw [fails]; exact s.headGone.answerWaiters_portsOnly ..⟩

/-! ## What the loader's begin leaves as it is -/

/-- Nothing differs but the surfaces, the layer records, the poster cache, the arbiter, the ports and the counters. -/
def State.ShelvedTo (s t : State) : Prop := ∃ m ls c a ps k,
  t = { s with surfaces := m, layers := ls, cache := c, arbiter := a, ports := ps, counters := k }

theorem State.ShelvedTo.trans (h : s.ShelvedTo t) (k : t.ShelvedTo u) : s.ShelvedTo u := by
  obtain ⟨_, _, _, _, _, _, rfl⟩ := h
  obtain ⟨_, _, _, _, _, _, rfl⟩ := k
  exact ⟨_, _, _, _, _, _, rfl⟩

theorem State.PortsOnly.shelvedTo (h : s.PortsOnly t) : s.ShelvedTo t := ⟨_, _, _, _, _, _, h⟩

theorem State.CuratedTo.shelvedTo (h : s.CuratedTo t) : s.ShelvedTo t := by
  obtain ⟨_, _, _, rfl⟩ := h
  exact ⟨_, _, _, _, _, _, rfl⟩

theorem shelvedTo_loaderKeeps (s : State) : LoaderKeeps s.ShelvedTo where
  work _ _ h := h.trans ⟨_, _, _, _, _, _, rfl⟩
  fail t why h := by
    rcases t.failHead_cases why with e | ⟨_, _, -, -, only⟩
    · rwa [e]
    · have gone : s.ShelvedTo t.headGone := h.trans ⟨_, _, _, _, _, _, rfl⟩
      exact gone.trans only.shelvedTo
  evict t i h := h.trans ⟨_, _, _, _, _, _, (t.evict_evicted i).1⟩
  fill _ _ _ _ h := h.trans ⟨_, _, _, _, _, _, rfl⟩

theorem State.answerWaiters_tears (ws : List Waiter) (st : Status) (why : Option PlaceholderReason) (res : Result)
    (s : State) : s.Tears (s.answerWaiters ws st why res) p 0 :=
  State.foldl_tears (fun t (w : Waiter) => t.completeHeld_tears (c := .loadPoster) (by decide) w.port w.tag st why res) ws s

/-- The ports see no more than the answers to the waiters of heads that fail (R120). -/
theorem tears_loaderKeeps (s : State) (p : Port) (n : Nat) : LoaderKeeps (fun t => s.Tears t p n) where
  work _ _ h := h.of_ports rfl
  fail t why h := by
    rcases t.failHead_cases why with e | ⟨e, _, -, fails, -⟩
    · rwa [e]
    · have gone : s.Tears t.headGone p n := h.of_ports rfl
      rw [fails]
      exact gone.andThen (State.answerWaiters_tears _ _ _ _ _)
  evict t i h := h.of_ports (by rw [(t.evict_evicted i).1])
  fill _ _ _ _ h := h.of_ports rfl

/-- Entries leave the load queue only at its head. -/
theorem queueSuffix_loaderKeeps (q : List LoadEntry) : LoaderKeeps (fun t => t.cache.queue <:+ q) where
  work _ _ h := h
  fail t why h := by
    rcases t.failHead_cases why with e | ⟨_, _, -, -, only⟩
    · rwa [e]
    · rw [only]
      exact (List.tail_suffix _).trans h
  evict t i h := by rwa [(t.evict_evicted i).1]
  fill _ _ _ _ h := h

/-! ## Posters without a count of a port (R130) -/

/-- An entry that holds no poster on which a port counts a reference. -/
def SurfaceEntry.uncounted (p : Port) (e : SurfaceEntry) : Prop :=
  ∀ x, e.body = some x → x.kind = .poster → x.refs.get p = 0

theorem SurfaceEntry.uncounted_lasting (p : Port) : SurfaceEntry.Lasting (SurfaceEntry.uncounted p) where
  detached _ x h _ e := by cases e; exact h x rfl
  retiring _ x h _ e := by cases e; exact h x rfl
  freed _ _ _ _ e := by cases e

theorem uncounted_loaderKeeps (i : Nat) (p : Port) : LoaderKeeps (State.EntryHas i (SurfaceEntry.uncounted p)) where
  work _ _ h := h
  fail t why h := by
    rcases t.failHead_cases why with e | ⟨_, _, -, -, only⟩
    · rwa [e]
    · exact h.of_surfaces (by rw [only]; rfl)
  evict t j h := (h.freePoster (SurfaceEntry.uncounted_lasting p) j).of_surfaces (by rw [State.evict_eq])
  fill t r j _ h := by
    obtain ⟨e, entry, holds⟩ := h
    by_cases same : j = i
    · subst same
      obtain ⟨lt, -⟩ := List.getElem?_eq_some_iff.mp entry
      exact ⟨_, List.getElem?_set_self lt, fun x body _ => by cases body; cases p <;> rfl⟩
    · exact ⟨e, (List.getElem?_set_ne same).trans entry, holds⟩

/-! ## Surfaces of the ports -/

/-- A surface as it was, but for the stream that it may have left and the counts of a poster. -/
def Surface.steady (x y : Surface) : Prop :=
  y = { x with attached := y.attached, refs := y.refs } ∧ (x.attached = none → y.attached = none)
    ∧ (x.kind = .port → y.refs = x.refs)

theorem Surface.steady_refl (x : Surface) : x.steady x := ⟨rfl, id, fun _ => rfl⟩

/-- Whether an entry still holds a DEFINED surface. -/
def State.HoldsDefined (i : Nat) (g : Byte) (x : Surface) (t : State) : Prop :=
  ∃ y, t.surfaces.entries[i]? = some ⟨g, some y⟩ ∧ x.steady y ∧ y.state = .defined

theorem State.HoldsDefined.of_surfaces (h : State.HoldsDefined i g x s) (e : t.surfaces = s.surfaces) :
    State.HoldsDefined i g x t := by
  unfold State.HoldsDefined
  rw [e]
  exact h

theorem State.HoldsDefined.of_entry (h : State.HoldsDefined i g x s)
    (e : t.surfaces.entries[i]? = s.surfaces.entries[i]?) : State.HoldsDefined i g x t := by
  unfold State.HoldsDefined
  rw [e]
  exact h

theorem State.HoldsDefined.unpinEvent (h : State.HoldsDefined i g x s) (j : Nat) :
    State.HoldsDefined i g x (s.unpinEvent j) := by
  obtain ⟨y, entry, same, defined⟩ := h
  exact ⟨y, State.unpinEvent_entry entry (by simp [defined]) j, same, defined⟩

theorem State.HoldsDefined.reportUnnamed (h : State.HoldsDefined i g x s) (before : State) :
    State.HoldsDefined i g x (State.reportUnnamed before s) := by
  obtain ⟨y, entry, same, defined⟩ := h
  exact ⟨y, State.reportUnnamed_entry before entry (by simp [defined]), same, defined⟩

/-- The cache gives back posters that are LOADING or RESIDENT only (R20). -/
theorem State.HoldsDefined.freePoster (h : State.HoldsDefined i g x s) (j : Nat) :
    State.HoldsDefined i g x (s.freePoster j) := by
  by_cases same : i = j
  · subst same
    obtain ⟨y, entry, -, defined⟩ := id h
    have stays : s.freePoster i = s := by
      simp only [State.freePoster, State.surfaceAt, entry, Option.bind_some, defined, ite_self]
    rwa [stays]
  · exact h.of_entry (State.freePoster_entry_ne same)

theorem State.HoldsDefined.detachSlots (h : State.HoldsDefined i g x s) (xs : List Slot) :
    State.HoldsDefined i g x (detachSlots xs s) :=
  foldl_keeps (P := State.HoldsDefined i g x) (fun t slot ht => by
    by_cases same : i = slot.surface.index
    · obtain ⟨y, entry, ⟨rest, -, refs⟩, defined⟩ := ht
      exact ⟨{ y with attached := .none }, same ▸ State.modSurface_entry (same ▸ entry) _,
        ⟨by rw [rest], fun _ => rfl, refs⟩, defined⟩
    · exact ht.of_entry (State.modSurface_entry_ne same _)) _ h

/-- The test of R17 passes a DEFINED surface by. -/
theorem State.HoldsDefined.freeRetired (h : State.HoldsDefined i g x s) : State.HoldsDefined i g x s.freeRetired :=
  foldl_keeps (P := State.HoldsDefined i g x) (fun t j ht => by
    split
    · next retired =>
      refine ht.of_entry (State.becomeFree_entry_ne ?_)
      rintro rfl
      obtain ⟨y, entry, -, defined⟩ := ht
      simp [State.retired, State.surfaceAt, entry, defined] at retired
    · exact ht) _ h

theorem State.HoldsDefined.dropRefs (h : State.HoldsDefined i g x s) (p : Port) (j : Nat) :
    State.HoldsDefined i g x (s.dropRefs p j) := by
  unfold State.dropRefs
  split
  · next z at' =>
    split
    · next counts =>
      refine State.HoldsDefined.unpinEvent ?_ j
      by_cases same : i = j
      · subst same
        obtain ⟨y, entry, ⟨rest, attached, refs⟩, defined⟩ := h
        obtain rfl : y = z := by simpa [State.surfaceAt, entry] using at'
        refine ⟨_, State.modSurface_entry entry _, ⟨by rw [rest], attached, fun port => ?_⟩, defined⟩
        rw [rest] at counts
        rw [port] at counts
        exact nomatch counts.1
      · exact h.of_entry (State.modSurface_entry_ne same _)
    · exact h
  · exact h

theorem holdsDefined_loaderKeeps (i : Nat) (g : Byte) (x : Surface) : LoaderKeeps (State.HoldsDefined i g x) where
  work _ _ h := h
  fail t why h := by
    rcases t.failHead_cases why with e | ⟨_, _, -, -, only⟩
    · rwa [e]
    · exact h.of_surfaces (by rw [only]; rfl)
  evict t j h := (h.freePoster j).of_surfaces (by rw [State.evict_eq])
  fill t r j lowest h := by
    obtain ⟨-, ⟨_, free⟩, -⟩ := SurfaceManager.lowestFree_eq_some.mp lowest
    refine h.of_entry (List.getElem?_set_ne ?_)
    rintro rfl
    obtain ⟨y, entry, -, -⟩ := h
    rw [free] at entry
    cases entry

end Sys2Proof.Machine
end

section
/-! SUPPORT. The poster cache's and the arbiter's part of a teardown (R130, R148; log 27). -/

namespace Sys2Proof.Machine

variable {s t u : State} {p : Port} {i j n : Nat} {g : Byte} {x : Surface}

/-- What one item of a list establishes, and each item keeps, holds after all of them. -/
theorem State.foldl_reaches {α : Type} {F : State → α → State} {Q P : State → Prop} {a : α} {as : List α} (mem : a ∈ as)
    (reaches : ∀ t, Q t → P (F t a)) (before : ∀ t b, Q t → Q (F t b)) (after : ∀ t b, P t → P (F t b)) (start : Q s) :
    P (as.foldl F s) := by
  induction as generalizing s with
  | nil => cases mem
  | cons b as ih =>
    rcases List.mem_cons.mp mem with rfl | mem
    · exact foldl_keeps after as (reaches s start)
    · exact ih mem (before s b start)

/-! ## The load queue without a port's waiters (R130) -/

/-- An entry of the load queue without the waiters of a port. -/
def LoadEntry.without (p : Port) (e : LoadEntry) : LoadEntry := { e with waiters := e.waiters.filter (fun w => w.port ≠ p) }

theorem dropWaiters_cons (p : Port) (begun : Bool) (e : LoadEntry) (q : List LoadEntry) :
    dropWaiters p begun (e :: q) =
      (if begun = true ∨ (e.without p).waiters ≠ [] then [e.without p] else [])
        ++ (q.map (·.without p)).filter (fun e => !e.waiters.isEmpty) := by
  have later (k : Nat) : ((q.zipIdx (k + 1)).map (fun x => (x.1.without p, x.2))).filterMap
      (fun x => if x.1.waiters.isEmpty && !(begun && x.2 == 0) then none else some x.1)
        = (q.map (·.without p)).filter (fun e => !e.waiters.isEmpty) := by
    induction q generalizing k with
    | nil => rfl
    | cons d q ih =>
      rw [List.zipIdx_cons, List.map_cons, List.filterMap_cons, ih, List.map_cons, List.filter_cons]
      cases (d.without p).waiters.isEmpty <;> simp
  have all : dropWaiters p begun (e :: q) = (((e :: q).zipIdx).map (fun x => (x.1.without p, x.2))).filterMap
      (fun x => if x.1.waiters.isEmpty && !(begun && x.2 == 0) then none else some x.1) := rfl
  rw [all, List.zipIdx_cons, List.map_cons, List.filterMap_cons, later]
  cases begun <;> cases (e.without p).waiters <;> simp

/-- No load of the port waits in what is left. -/
theorem dropWaiters_waits {begun : Bool} {q : List LoadEntry} {e : LoadEntry} (mem : e ∈ dropWaiters p begun q) :
    ∀ w ∈ e.waiters, w.port ≠ p := by
  have without (d : LoadEntry) : ∀ w ∈ (d.without p).waiters, w.port ≠ p := fun w hw => by
    simpa using (List.mem_filter.mp hw).2
  cases q with
  | nil => cases mem
  | cons d q =>
    rw [dropWaiters_cons] at mem
    rcases List.mem_append.mp mem with head | tail
    · split at head
      · obtain rfl := List.mem_singleton.mp head
        exact without d
      · cases head
    · obtain ⟨d', -, rfl⟩ := List.mem_map.mp (List.mem_filter.mp tail).1
      exact without d'

theorem dropWaiters_idle (p : Port) (q : List LoadEntry) :
    dropWaiters p false q = (q.map (·.without p)).filter (fun e => !e.waiters.isEmpty) := by
  cases q with
  | nil => rfl
  | cons e q =>
    rw [dropWaiters_cons, List.map_cons, List.filter_cons]
    cases (e.without p).waiters <;> simp

theorem dropWaiters_serving (p : Port) (q : List LoadEntry) :
    dropWaiters p true q = (q.take 1).map (·.without p)
      ++ ((q.drop 1).map (·.without p)).filter (fun e => !e.waiters.isEmpty) := by
  cases q with
  | nil => rfl
  | cons e q => rw [dropWaiters_cons, if_pos (.inl rfl)]; rfl

theorem waiterTags_eq (p : Port) (s : State) : waiterTags p s.cache.queue = (s.waitersOf p).map (·.tag) := by
  unfold waiterTags State.waitersOf
  induction s.cache.queue with
  | nil => rfl
  | cons e q ih => simp [List.flatMap_cons, List.filter_append, ih]

theorem LoaderWork.serving_iff {w : LoaderWork} : w.serving = true ↔ ∃ l, w = .filling l := by
  cases w <;> simp [LoaderWork.serving]

/-! ## A poster's counts (R130) -/

theorem State.EntryHas.unpinEvent {P : SurfaceEntry → Prop} (last : SurfaceEntry.Lasting P) (has : s.EntryHas i P) (j : Nat) :
    (s.unpinEvent j).EntryHas i P := by
  unfold State.unpinEvent
  split
  · exact has
  · split
    · split
      · split
        · exact has
        · exact has
      · split
        · exact State.EntryHas.freePoster (s := s.modCache _) last has j
        · exact has
    · exact has

theorem State.dropRefs_curated (p : Port) (s : State) (i : Nat) : s.CuratedTo (s.dropRefs p i) := by
  unfold State.dropRefs
  split
  · split
    · exact State.CuratedTo.trans ⟨_, _, _, rfl⟩ (State.unpinEvent_curated i _)
    · exact s.curatedTo_refl
  · exact s.curatedTo_refl

theorem State.dropRefs_relisted (p : Port) (s : State) (i : Nat) : s.cache.relisted (s.dropRefs p i).cache := by
  unfold State.dropRefs
  split
  · split
    · exact State.unpinEvent_relisted i _
    · exact s.cache.relisted_refl
  · exact s.cache.relisted_refl

theorem State.EntryHas.dropRefs (has : s.EntryHas i (SurfaceEntry.uncounted p)) (j : Nat) :
    (s.dropRefs p j).EntryHas i (SurfaceEntry.uncounted p) := by
  unfold State.dropRefs
  split
  · split
    · refine State.EntryHas.unpinEvent (SurfaceEntry.uncounted_lasting p) (has.modSurface (fun g x h y e => ?_) j) j
      cases e
      exact fun _ => PerPort.get_set ..
    · exact has
  · exact has

/-- The step on an entry takes its counts of the port to 0. -/
theorem State.dropRefs_uncounted (has : s.EntryHas i fun _ => True) :
    (s.dropRefs p i).EntryHas i (SurfaceEntry.uncounted p) := by
  obtain ⟨⟨g, b⟩, entry, -⟩ := has
  have at' : s.surfaceAt i = b := by simp [State.surfaceAt, entry]
  unfold State.dropRefs
  rw [at']
  cases b with
  | none => exact ⟨_, entry, fun _ e => nomatch e⟩
  | some x =>
    dsimp only
    split
    · refine State.EntryHas.unpinEvent (SurfaceEntry.uncounted_lasting p) ⟨_, State.modSurface_entry entry _, fun y e => ?_⟩ i
      cases e
      exact fun _ => PerPort.get_set ..
    · next counts =>
      refine ⟨_, entry, fun y e poster => ?_⟩
      cases e
      exact Nat.eq_zero_of_not_pos fun pos => counts ⟨poster, pos⟩

theorem State.EntryHas.dropRefs_any (has : s.EntryHas i fun _ => True) (j : Nat) :
    (s.dropRefs p j).EntryHas i fun _ => True := by
  unfold State.dropRefs
  have any : SurfaceEntry.Lasting fun _ => True := ⟨fun _ _ _ => trivial, fun _ _ _ => trivial, fun _ _ _ => trivial⟩
  split
  · split
    · exact State.EntryHas.unpinEvent any (has.modSurface (fun _ _ _ => trivial) j) j
    · exact has
  · exact has

/-! ## The poster cache's part (R130) -/

/-- The state in which the port's loads have left the queue, and have completed. -/
def State.loadsCancelled (p : Port) (s : State) : State :=
  (waiterTags p s.cache.queue).foldl (fun t tag => t.cancelLoad p tag)
    (s.modCache (fun c => { c with queue := dropWaiters p s.cache.work.serving c.queue }))

/-- The state in which the port's counts are 0 as well, before the loader takes a new head. -/
def State.countsDropped (p : Port) (s : State) : State :=
  surfaceIndices.foldl (fun t i => t.dropRefs p i) (s.loadsCancelled p)

theorem State.tearPosters_cases (p : Port) (s : State) : s.tearPosters p = s.countsDropped p
    ∨ (s.cache.work = .waiting ∧ s.tearPosters p = (s.countsDropped p).loaderBegin) := by
  unfold State.tearPosters
  dsimp only
  split
  · next h => exact .inr ⟨h.1, rfl⟩
  · exact .inl rfl

theorem LoaderKeeps.tearPosters {P : State → Prop} (h : LoaderKeeps P) (hs : P (s.countsDropped p)) : P (s.tearPosters p) := by
  rcases s.tearPosters_cases p with e | ⟨-, e⟩ <;> rw [e]
  · exact hs
  · exact h.loaderBegin hs

theorem State.loadsCancelled_portsOnly (p : Port) (s : State) :
    (s.modCache (fun c => { c with queue := dropWaiters p s.cache.work.serving c.queue })).PortsOnly (s.loadsCancelled p) :=
  foldl_keeps (P := State.PortsOnly _) (fun t tag ht => ht.trans (t.cancelHeld_portsOnly p .loadPoster tag)) _
    (State.portsOnly_refl _)

theorem State.loadsCancelled_tears (p : Port) (s : State) : s.Tears (s.loadsCancelled p) p (s.waitersOf p).length := by
  have cancels := State.foldl_cancels (p := p) (F := fun t tag => t.cancelLoad p tag)
    (fun t tag => t.cancelHeld_tears (c := .loadPoster) (by decide) tag) (waiterTags p s.cache.queue)
    (s.modCache (fun c => { c with queue := dropWaiters p s.cache.work.serving c.queue }))
  rw [waiterTags_eq, List.length_map, ← waiterTags_eq] at cancels
  exact cancels.since rfl

theorem State.countsDropped_curated (p : Port) (s : State) : (s.loadsCancelled p).CuratedTo (s.countsDropped p) :=
  foldl_keeps (P := State.CuratedTo _) (fun t j ht => ht.trans (t.dropRefs_curated p j)) _ (State.curatedTo_refl _)

theorem State.countsDropped_relisted (p : Port) (s : State) : (s.loadsCancelled p).cache.relisted (s.countsDropped p).cache :=
  foldl_keeps (P := fun t => (s.loadsCancelled p).cache.relisted t.cache) (fun t j ht => ht.trans (t.dropRefs_relisted p j)) _
    (PosterCache.relisted_refl _)

theorem State.countsDropped_shelvedTo (p : Port) (s : State) : s.ShelvedTo (s.countsDropped p) := by
  have first : s.ShelvedTo (s.modCache (fun c => { c with queue := dropWaiters p s.cache.work.serving c.queue })) :=
    ⟨_, _, _, _, _, _, rfl⟩
  exact (first.trans (s.loadsCancelled_portsOnly p).shelvedTo).trans (s.countsDropped_curated p).shelvedTo

theorem State.countsDropped_tears (p : Port) (s : State) : s.Tears (s.countsDropped p) p (s.waitersOf p).length :=
  (s.loadsCancelled_tears p).of_ports (s.countsDropped_curated p).ports

theorem State.countsDropped_cache (p : Port) (s : State) :
    (s.countsDropped p).cache.queue = dropWaiters p s.cache.work.serving s.cache.queue
      ∧ (s.countsDropped p).cache.work = s.cache.work ∧ (s.countsDropped p).arbiter = s.arbiter := by
  have only := s.loadsCancelled_portsOnly p
  obtain ⟨rest, -, -⟩ := s.countsDropped_relisted p
  rw [rest, (s.countsDropped_curated p).eq, only]
  exact ⟨rfl, rfl, rfl⟩

theorem State.tearPosters_shelvedTo (p : Port) (s : State) : s.ShelvedTo (s.tearPosters p) :=
  (shelvedTo_loaderKeeps s).tearPosters (s.countsDropped_shelvedTo p)

theorem State.tearPosters_tears (p : Port) (s : State) : s.Tears (s.tearPosters p) p (s.waitersOf p).length :=
  (tears_loaderKeeps s p _).tearPosters (s.countsDropped_tears p)

/-- Each load of the port that waited completes with CANCELLED (R130). -/
theorem State.mem_tearPosters {w : Waiter} (mem : w ∈ s.waitersOf p) (alive : (s.ports.get p).status ≠ .resetting) :
    Notice.completion w.tag 0x40 .cancelled none .none ∈ ((s.tearPosters p).ports.get p).notices := by
  have tag : w.tag ∈ waiterTags p s.cache.queue := by
    rw [waiterTags_eq]
    exact List.mem_map_of_mem mem
  have completed : Notice.completion w.tag 0x40 .cancelled none .none ∈ ((s.loadsCancelled p).ports.get p).notices :=
    State.mem_foldl_cancels (F := fun t tag => t.cancelLoad p tag)
      (fun t tag => t.cancelHeld_tears (c := .loadPoster) (by decide) tag) tag
      (fun _ alive => State.mem_cancelHeld (c := .loadPoster) alive) alive
  have later := (tears_loaderKeeps (s.loadsCancelled p) p 0).tearPosters
    (State.tears_of_ports (s.countsDropped_curated p).ports)
  exact (later.keepsNotices p).mem completed

/-- No load of the port waits any more (R130). -/
theorem State.tearPosters_waits (p : Port) (s : State) : ∀ e ∈ (s.tearPosters p).cache.queue, ∀ w ∈ e.waiters, w.port ≠ p := by
  have suffix := (queueSuffix_loaderKeeps _).tearPosters (s := s) (p := p) List.suffix_rfl
  rw [(s.countsDropped_cache p).1] at suffix
  exact fun e mem => dropWaiters_waits (suffix.mem mem)

theorem State.tearPosters_keepsDevice (p : Port) (s : State) : (s.countsDropped p).KeepsDevice (s.tearPosters p) := by
  rcases s.tearPosters_cases p with e | ⟨-, e⟩ <;> rw [e]
  · exact State.keepsDevice_refl _
  · exact State.loaderBegin_keepsDevice _

/-- Where the loader does not wait, no new head is taken. -/
theorem State.tearPosters_settled (still : s.cache.work ≠ .waiting) : s.tearPosters p = s.countsDropped p := by
  rcases s.tearPosters_cases p with e | ⟨waiting, -⟩
  · exact e
  · exact absurd waiting still

theorem State.tearPosters_uncounted (lt : i < 160) (has : s.EntryHas i fun _ => True) :
    (s.tearPosters p).EntryHas i (SurfaceEntry.uncounted p) := by
  have first : (s.loadsCancelled p).EntryHas i fun _ => True := has.of_surfaces (by rw [s.loadsCancelled_portsOnly p]; rfl)
  have mem : i ∈ surfaceIndices := List.mem_range.mpr lt
  exact (uncounted_loaderKeeps i p).tearPosters (State.foldl_reaches mem (fun _ => State.dropRefs_uncounted)
    (fun _ j h => h.dropRefs_any j) (fun _ j h => h.dropRefs j) first)

theorem State.HoldsDefined.tearPosters (h : State.HoldsDefined i g x s) (p : Port) :
    State.HoldsDefined i g x (s.tearPosters p) := by
  have first : State.HoldsDefined i g x (s.loadsCancelled p) := h.of_surfaces (by rw [s.loadsCancelled_portsOnly p]; rfl)
  exact (holdsDefined_loaderKeeps i g x).tearPosters
    (foldl_keeps (P := State.HoldsDefined i g x) (fun _ j ht => ht.dropRefs p j) _ first)

/-! ## The arbiter's part (R148) -/

theorem FlashOpKind.cmd_code (k : FlashOpKind) :
    k.cmd.code = (match k with | .read _ _ => 0x50 | .program _ _ => 0x51 | .erase _ => 0x52) := by
  cases k <;> rfl

theorem FlashOpKind.cmd_ne (k : FlashOpKind) : k.cmd ≠ .detach := by cases k <;> nofun

/-- The state in which only the operation that holds the grant is left of the port's flash queue. -/
def State.opsRemoved (p : Port) (s : State) : State :=
  s.modArbiter (fun a => { a with queues := a.queues.set p (if a.grantedTo p then (a.queues.get p).take 1 else []) })

theorem State.cancelFlash_portsOnly (p : Port) (s : State) : (s.opsRemoved p).PortsOnly (s.cancelFlash p) :=
  foldl_keeps (P := State.PortsOnly _) (fun t (op : FlashOp) ht => ht.trans (t.cancelHeld_portsOnly p op.kind.cmd op.tag)) _
    (State.portsOnly_refl _)

theorem State.cancelFlash_tears (p : Port) (s : State) : s.Tears (s.cancelFlash p) p (s.cancelledOps p).length :=
  (State.foldl_cancels (p := p) (F := fun t op => t.cancelOp p op)
    (fun t (op : FlashOp) => t.cancelHeld_tears op.kind.cmd_ne op.tag) (s.cancelledOps p) (s.opsRemoved p)).since rfl

theorem LoaderKeeps.tearFlash {P : State → Prop} (h : LoaderKeeps P) (hs : P (s.cancelFlash p)) : P (s.tearFlash p) := by
  unfold State.tearFlash
  dsimp only
  split
  · exact h.answerLoader hs
  · exact hs

theorem State.tearFlash_shelvedTo (p : Port) (s : State) : s.ShelvedTo (s.tearFlash p) := by
  have first : s.ShelvedTo (s.opsRemoved p) := ⟨_, _, _, _, _, _, rfl⟩
  exact (shelvedTo_loaderKeeps s).tearFlash (first.trans (s.cancelFlash_portsOnly p).shelvedTo)

theorem State.tearFlash_tears (p : Port) (s : State) : s.Tears (s.tearFlash p) p (s.cancelledOps p).length :=
  (tears_loaderKeeps s p _).tearFlash (s.cancelFlash_tears p)

/-- Each operation that does not hold the grant completes with CANCELLED (R148). -/
theorem State.mem_tearFlash {op : FlashOp} (mem : op ∈ s.cancelledOps p) (alive : (s.ports.get p).status ≠ .resetting) :
    Notice.completion op.tag (match op.kind with | .read _ _ => 0x50 | .program _ _ => 0x51 | .erase _ => 0x52) .cancelled none
      .none ∈ ((s.tearFlash p).ports.get p).notices := by
  have completed : Notice.completion op.tag op.kind.cmd.code .cancelled none .none
      ∈ ((s.cancelFlash p).ports.get p).notices :=
    State.mem_foldl_cancels (F := fun t op => t.cancelOp p op)
      (fun t (op : FlashOp) => t.cancelHeld_tears op.kind.cmd_ne op.tag) mem (fun _ alive => State.mem_cancelHeld alive) alive
  rw [FlashOpKind.cmd_code] at completed
  exact (((tears_loaderKeeps (s.cancelFlash p) p 0).tearFlash (State.tears_refl _ p)).keepsNotices p).mem completed

theorem State.tearFlash_keepsDevice (p : Port) (s : State) : (s.cancelFlash p).KeepsDevice (s.tearFlash p) := by
  unfold State.tearFlash
  dsimp only
  split
  · exact State.answerLoader_keepsDevice _
  · exact State.keepsDevice_refl _

theorem State.tearFlash_settled (still : s.cache.work ≠ .waiting) : s.tearFlash p = s.cancelFlash p := by
  unfold State.tearFlash
  dsimp only
  split
  · rw [State.answerLoader, if_neg]
    rw [s.cancelFlash_portsOnly p]
    exact still
  · rfl

/-- The flash queues after the removal: the other port's as it was, of the port's no more than what holds the grant. -/
theorem State.tearFlash_queues (p : Port) (s : State) :
    (s.tearFlash p).arbiter.queues.get p.other = s.arbiter.queues.get p.other
      ∧ (s.tearFlash p).arbiter.queues.get p = (if s.arbiter.grantedTo p then (s.arbiter.queues.get p).take 1 else [])
      ∧ (s.arbiter.grant ≠ none → (s.tearFlash p).arbiter.grant = s.arbiter.grant) := by
  have removed : (s.cancelFlash p).arbiter = (s.opsRemoved p).arbiter := by rw [s.cancelFlash_portsOnly p]
  have device := s.tearFlash_keepsDevice p
  rw [device.queues, removed]
  refine ⟨PerPort.get_other_set .., PerPort.get_set .., fun busy => ?_⟩
  exact (device.busy (by rw [removed]; exact busy)).1.trans (by rw [removed]; rfl)

theorem State.HoldsDefined.tearFlash (h : State.HoldsDefined i g x s) (p : Port) : State.HoldsDefined i g x (s.tearFlash p) :=
  (holdsDefined_loaderKeeps i g x).tearFlash (h.of_surfaces (by rw [s.cancelFlash_portsOnly p]; rfl))

theorem State.EntryHas.tearFlash (has : s.EntryHas i (SurfaceEntry.uncounted p)) :
    (s.tearFlash p).EntryHas i (SurfaceEntry.uncounted p) :=
  (uncounted_loaderKeeps i p).tearFlash (has.of_surfaces (by rw [s.cancelFlash_portsOnly p]; rfl))

end Sys2Proof.Machine
end

section
/-! SUPPORT. The layer block's and the stream block's part of a teardown (R46, R47, R109; logs 32 and 34). -/

namespace Sys2Proof.Machine

variable {s t u : State} {p : Port} {o k : OutputId} {i j : Nat} {g : Byte} {x : Surface} {r : LayerRecord}

/-! ## One output (R46, R47) -/

/-- An enabled output after the layer teardown: an ASLEEP one lets the port's latches go, another has an internal latch. -/
def OutputState.torn (p : Port) (q : OutputState) : OutputState :=
  if q.panel = .asleep then { q with latches := q.latches.filter (fun e => e.port ≠ p) }
  else { q with internal := q.internal.set p true }

theorem OutputState.torn_kept (p : Port) (q : OutputState) :
    (q.torn p).timing = q.timing ∧ (q.torn p).panel = q.panel ∧ (q.torn p).wishes = q.wishes ∧ (q.torn p).layers = q.layers
      ∧ (q.torn p).holdSet = q.holdSet ∧ (q.torn p).forcedBlank = q.forcedBlank := by
  unfold OutputState.torn
  split <;> exact ⟨rfl, rfl, rfl, rfl, rfl, rfl⟩

theorem OutputState.torn_asleep {q : OutputState} (asleep : q.panel = .asleep) :
    q.torn p = { q with latches := q.latches.filter (fun e => e.port ≠ p) } := if_pos asleep

theorem OutputState.torn_awake {q : OutputState} (awake : q.panel ≠ .asleep) :
    q.torn p = { q with internal := q.internal.set p true } := if_neg awake

/-- Whether the layer teardown writes a port's records on an output at once (R47). -/
def State.writesNow (s : State) (o : OutputId) : Prop := s.outputEnabled o = true ∧ (s.outputs.get o).panel = .asleep

/-- The layer teardown on one output, before the LATCHes complete. -/
def State.layersTorn (p : Port) (o : OutputId) (s : State) : State :=
  if s.outputEnabled o then
    { s with
      layers := if (s.outputs.get o).panel = .asleep then latchWrite s.layers p o else s.layers
      outputs := s.outputs.set o ((s.outputs.get o).torn p) }
  else s

theorem State.tearLayersOn_linked (p : Port) (o : OutputId) (s : State) : (s.layersTorn p o).LinkedTo (s.tearLayersOn p o) := by
  unfold State.layersTorn State.tearLayersOn
  dsimp only
  by_cases on : s.outputEnabled o = true
  · have not : ¬ (!s.outputEnabled o) = true := by simp [on]
    rw [if_pos on, if_neg not]
    by_cases asleep : (s.outputs.get o).panel = .asleep
    · rw [if_pos asleep, if_pos asleep, OutputState.torn_asleep asleep]
      exact completeLatches_linked _ _ _ _
    · rw [if_neg asleep, if_neg asleep, OutputState.torn_awake asleep]
      exact State.linkedTo_refl _
  · have not : (!s.outputEnabled o) = true := by simpa using on
    rw [if_neg on, if_pos not]
    exact s.linkedTo_refl

theorem State.LinkedTo.layersTorn (h : s.LinkedTo t) (p : Port) (o : OutputId) :
    (s.layersTorn p o).LinkedTo (t.layersTorn p o) := by
  obtain ⟨ps, k, rfl⟩ := h
  let t : State := { s with ports := ps, counters := { s.counters with port := k } }
  by_cases on : s.outputEnabled o = true
  · have mine : s.layersTorn p o = _ := if_pos on
    have theirs : t.layersTorn p o = _ := if_pos on
    rw [mine, theirs]
    exact ⟨ps, k, rfl⟩
  · have mine : s.layersTorn p o = s := if_neg on
    have theirs : t.layersTorn p o = t := if_neg on
    rw [mine, theirs]
    exact ⟨ps, k, rfl⟩

theorem State.layersTorn_outputs : (s.layersTorn p o).outputs.get o =
    if s.outputEnabled o then (s.outputs.get o).torn p else s.outputs.get o := by
  unfold State.layersTorn
  split <;> simp

theorem State.layersTorn_outputs_ne (ne : k ≠ o) : (s.layersTorn p o).outputs.get k = s.outputs.get k := by
  unfold State.layersTorn
  split
  · exact PerOutput.get_set_ne _ _ _ _ ne
  · rfl

theorem State.layersTorn_length : (s.layersTorn p o).layers.length = s.layers.length := by
  unfold State.layersTorn
  split
  · dsimp only
    split
    · exact latchWrite_length ..
    · rfl
  · rfl

theorem State.layersTorn_foreign (own : ¬ ownsLayer p i = true) : (s.layersTorn p o).layers[i]? = s.layers[i]? := by
  unfold State.layersTorn
  split
  · dsimp only
    split
    · simp [latchWrite_getElem?, own]
    · rfl
  · rfl

/-- A record whose pending copy names no output takes it over where its active copy names an ASLEEP output (R38, R47). -/
theorem State.layersTorn_own (own : ownsLayer p i = true) (at' : s.layers[i]? = some r) (cleared : r.pending.output = none) :
    (s.writesNow o ∧ r.active.output = some o → (s.layersTorn p o).layers[i]? = some { r with active := r.pending })
    ∧ (¬ (s.writesNow o ∧ r.active.output = some o) → (s.layersTorn p o).layers[i]? = some r) := by
  have names : r.names o = true ↔ r.active.output = some o := by simp [LayerRecord.names_iff, cleared]
  have latched : r.latched o = if r.active.output = some o then { r with active := r.pending } else r := by
    simp only [LayerRecord.latched, names]
  have after : (s.layersTorn p o).layers[i]? = some (if s.outputEnabled o = true ∧ (s.outputs.get o).panel = .asleep
      then r.latched o else r) := by
    unfold State.layersTorn
    by_cases on : s.outputEnabled o = true <;> by_cases asleep : (s.outputs.get o).panel = .asleep <;>
      simp [on, asleep, latchWrite_getElem?, at', own]
  rw [after, latched]
  refine ⟨fun ⟨⟨on, asleep⟩, active⟩ => ?_, fun not => ?_⟩
  · rw [if_pos ⟨on, asleep⟩, if_pos active]
  · split
    · next now => rw [if_neg fun active => not ⟨now, active⟩]
    · rfl

/-! ## Both outputs -/

/-- The layer teardown on both outputs, before the LATCHes complete and the posters that no layer names are told (R36). -/
def State.layersWritten (p : Port) (s : State) : State :=
  (({ s with layers := clearPending s.layers p } : State).layersTorn p .o0).layersTorn p .o1

theorem State.tearLayers_stems (p : Port) (s : State) :
    ∃ v, (s.layersWritten p).LinkedTo v ∧ s.tearLayers p = State.reportUnnamed s v :=
  ⟨_, ((State.tearLayersOn_linked p .o0 _).layersTorn p .o1).trans (State.tearLayersOn_linked p .o1 _), rfl⟩

theorem State.layersWritten_outputs (p : Port) (s : State) (o : OutputId) : (s.layersWritten p).outputs.get o =
    if s.outputEnabled o then (s.outputs.get o).torn p else s.outputs.get o := by
  let c : State := { s with layers := clearPending s.layers p }
  unfold State.layersWritten
  cases o with
  | o0 =>
    rw [State.layersTorn_outputs_ne (by decide), State.layersTorn_outputs]
    rfl
  | o1 =>
    have same : (c.layersTorn p .o0).outputs.get .o1 = s.outputs.get .o1 := State.layersTorn_outputs_ne (by decide)
    rw [State.layersTorn_outputs, State.outputEnabled, same]
    rfl

/-- What both steps leave apart from the layer records and the outputs. -/
theorem State.layersWritten_eq (p : Port) (s : State) : s.layersWritten p =
    { s with layers := (s.layersWritten p).layers, outputs := (s.layersWritten p).outputs } := by
  have one (o : OutputId) (t : State) : t.layersTorn p o =
      { t with layers := (t.layersTorn p o).layers, outputs := (t.layersTorn p o).outputs } := by
    unfold State.layersTorn
    split <;> rfl
  unfold State.layersWritten
  rw [one .o1, one .o0]

theorem State.layersWritten_length (p : Port) (s : State) : (s.layersWritten p).layers.length = s.layers.length := by
  unfold State.layersWritten
  rw [State.layersTorn_length, State.layersTorn_length]
  exact clearPending_length ..

theorem State.layersWritten_foreign (own : ¬ ownsLayer p i = true) : (s.layersWritten p).layers[i]? = s.layers[i]? := by
  unfold State.layersWritten
  rw [State.layersTorn_foreign own, State.layersTorn_foreign own]
  simp [clearPending, own]

/-- A record of the port names no output in its pending copy; its active copy takes that over where it names an ASLEEP output,
and stays otherwise (R46, R47). -/
theorem State.layersWritten_own (own : ownsLayer p i = true) (at' : s.layers[i]? = some r) :
    ∃ r', (s.layersWritten p).layers[i]? = some r' ∧ r'.pending = { r.pending with output := none }
      ∧ (∀ o, r.active.output = some o → s.writesNow o → r'.active = { r.pending with output := none })
      ∧ ((∀ o, r.active.output = some o → ¬ s.writesNow o) → r'.active = r.active) := by
  let c : State := { s with layers := clearPending s.layers p }
  let r₀ : LayerRecord := { r with pending := { r.pending with output := none } }
  have first : c.layers[i]? = some r₀ := by simp [c, r₀, clearPending, at', own]
  have same : (c.layersTorn p .o0).outputs.get .o1 = s.outputs.get .o1 := State.layersTorn_outputs_ne (by decide)
  have now₀ : c.writesNow .o0 ↔ s.writesNow .o0 := Iff.rfl
  have now₁ : (c.layersTorn p .o0).writesNow .o1 ↔ s.writesNow .o1 := by
    simp only [State.writesNow, State.outputEnabled, same]
  obtain ⟨write₀, keep₀⟩ := State.layersTorn_own (o := .o0) own first rfl
  by_cases on₀ : s.writesNow .o0 ∧ r.active.output = some .o0
  · have second := write₀ (by rwa [now₀])
    have third := (State.layersTorn_own (o := .o1) own second rfl).2 (by rintro ⟨-, e⟩; cases e)
    refine ⟨_, third, rfl, fun _ _ _ => rfl, fun none' => absurd on₀.1 (none' _ on₀.2)⟩
  · have second := keep₀ (by rwa [now₀])
    obtain ⟨write₁, keep₁⟩ := State.layersTorn_own (o := .o1) own second rfl
    by_cases on₁ : s.writesNow .o1 ∧ r.active.output = some .o1
    · exact ⟨_, write₁ (by rwa [now₁]), rfl, fun _ _ _ => rfl, fun none' => absurd on₁.1 (none' _ on₁.2)⟩
    · refine ⟨_, keep₁ (by rwa [now₁]), rfl, fun o active now => ?_, fun _ => rfl⟩
      cases o with
      | o0 => exact absurd ⟨now, active⟩ on₀
      | o1 => exact absurd ⟨now, active⟩ on₁

/-! ## The layer block's part -/

theorem State.tearLayers_outputs (p : Port) (s : State) : (s.tearLayers p).outputs = (s.layersWritten p).outputs := by
  obtain ⟨v, linked, e⟩ := s.tearLayers_stems p
  rw [e, (State.reportUnnamed_curated s v).outputs, linked.outputs]

theorem State.tearLayers_layersFrom (p : Port) (s : State) : State.LayersFrom (s.layersWritten p).layers (s.tearLayers p) := by
  obtain ⟨v, ⟨_, _, rfl⟩, e⟩ := s.tearLayers_stems p
  rw [e]
  exact (layersFrom_stable _).reportUnnamed s (State.layersFrom_self _)

theorem State.tearLayers_cache (p : Port) (s : State) : s.cache.relisted (s.tearLayers p).cache := by
  obtain ⟨v, linked, e⟩ := s.tearLayers_stems p
  have same : v.cache = s.cache := by
    obtain ⟨_, _, rfl⟩ := linked
    rw [s.layersWritten_eq]
  rw [e, ← same]
  exact State.reportUnnamed_relisted s v

theorem State.HoldsDefined.tearLayers (h : State.HoldsDefined i g x s) (p : Port) :
    State.HoldsDefined i g x (s.tearLayers p) := by
  obtain ⟨v, ⟨_, _, rfl⟩, e⟩ := s.tearLayers_stems p
  rw [e]
  refine State.HoldsDefined.reportUnnamed (h.of_surfaces ?_) s
  rw [s.layersWritten_eq]

/-- The LATCHes of the port on an ASLEEP output complete (R47). -/
theorem State.mem_tearLayers {e : LatchEntry} (now : s.writesNow o) (mem : e ∈ (s.outputs.get o).latches) (mine : e.port = p)
    (alive : (s.ports.get p).status ≠ .resetting) :
    Notice.completion e.tag 0x22 .ok none (.latch o (s.outputs.get o).fieldCount) ∈ ((s.tearLayers p).ports.get p).notices := by
  subst mine
  have told (t : State) (same : t.outputs.get o = s.outputs.get o) (alive : (t.ports.get e.port).status ≠ .resetting) :
      Notice.completion e.tag 0x22 .ok none (.latch o (s.outputs.get o).fieldCount)
        ∈ ((t.tearLayersOn e.port o).ports.get e.port).notices := by
    have on : t.outputEnabled o = true := by rw [State.outputEnabled, same]; exact now.1
    rw [State.tearLayersOn, if_neg (by simp [on]), if_pos (by rw [same]; exact now.2), same]
    exact completion_mem_completeLatches (List.mem_filter.mpr ⟨mem, by simp⟩) alive
  let c : State := { s with layers := clearPending s.layers e.port }
  have ports : (s.tearLayers e.port).ports = ((c.tearLayersOn e.port .o0).tearLayersOn e.port .o1).ports :=
    (State.reportUnnamed_curated s _).ports
  have first := c.tearLayersOn_tears (p := e.port) e.port .o0
  rw [ports]
  cases o with
  | o0 => exact ((State.tearLayersOn_tears (p := e.port) e.port .o1 _).keepsNotices _).mem (told c rfl alive)
  | o1 =>
    refine told _ ?_ (by rw [first.status]; exact alive)
    rw [(c.tearLayersOn_linked e.port .o0).outputs]
    exact State.layersTorn_outputs_ne (by decide)

/-! ## The stream block's part (R109) -/

/-- What the teardown does to a stream. -/
def State.StreamTorn (s t : State) (p : Port) (i : StreamId) : Prop :=
  let r := s.streams.get i
  (r.owner = some p → r.state ≠ .closing → r.state ≠ .idleClosed → ∃ slots, s.halted r slots
    ∧ ((∀ x ∈ slots, x.state = .empty) → t.streams.get i = r.closed)
    ∧ ((∃ x ∈ slots, x.state ≠ .empty) → t.streams.get i = { r with
        state := .closing, slots := slots, current := none, ready := [], startStamp := none, lastStamp := none
        closeTag := none }))
  ∧ (r.owner ≠ some p ∨ r.state = .closing → t.streams.get i = r)

theorem State.beginClose_released (i : StreamId) (tag : Option Byte) (s : State) : s.ReleasedTo (s.beginClose i tag) := by
  have closing := (State.modStream_released i _ s).trans (s.closingStream_linked i tag).released
  exact closing.trans (State.finishClose_released i _)

theorem State.beginClose_streams_ne {i i' : StreamId} (ne : i' ≠ i) (tag : Option Byte) :
    (s.beginClose i tag).streams.get i' = s.streams.get i' := by
  rw [State.beginClose_eq, State.finishClose_streams_ne ne, (s.closingStream_linked i tag).streams]
  exact PerStream.get_set_ne _ _ _ _ ne

theorem State.tearStream_released (p : Port) (i : StreamId) (s : State) : s.ReleasedTo (s.tearStream p i) := by
  unfold State.tearStream
  dsimp only
  split
  · exact s.beginClose_released i none
  · exact s.linkedTo_refl.released

theorem State.tearStream_streams_ne {i i' : StreamId} (ne : i' ≠ i) :
    (s.tearStream p i).streams.get i' = s.streams.get i' := by
  unfold State.tearStream
  dsimp only
  split
  · exact State.beginClose_streams_ne ne none
  · rfl

/-- An open stream of the port halts and is CLOSING, or ends at once; another keeps its record. -/
theorem State.tearStream_torn (p : Port) (i : StreamId) (s : State) : s.StreamTorn (s.tearStream p i) p i := by
  refine ⟨fun owner notClosing isOpen => ⟨_, s.halted_haltedRecord _, fun empty => ?_, fun full => ?_⟩, fun other => ?_⟩
  · have record := s.closingStream_record i none
    rw [State.tearStream, if_pos ⟨owner, notClosing, isOpen⟩, State.beginClose_eq,
      (State.finishClose_linked (by rw [record]; rfl) (by rw [record]; exact empty)).streams, State.streamClosed_streams,
      PerStream.get_set, record]
    rfl
  · have record := s.closingStream_record i none
    rw [State.tearStream, if_pos ⟨owner, notClosing, isOpen⟩, State.beginClose_eq,
      State.finishClose_stays (by rw [record]; exact full), record]
    rfl
  · rw [State.tearStream, if_neg]
    rintro ⟨owner, notClosing, -⟩
    rcases other with ne | closing
    · exact ne owner
    · exact notClosing closing

theorem State.ReleasedTo.outputs (h : s.ReleasedTo t) : t.outputs = s.outputs := by
  obtain ⟨_, _, _, _, _, rfl⟩ := h
  rfl

theorem State.StreamTorn.congr {i : StreamId} {v : State} (h : s.StreamTorn t p i) (sets : ∀ j, s.drawn j ↔ u.drawn j)
    (before : s.streams.get i = u.streams.get i) (after : t.streams.get i = v.streams.get i) : u.StreamTorn v p i := by
  unfold State.StreamTorn at h ⊢
  simpa only [State.halted, before, after, sets] using h

theorem State.tearStreams_released (p : Port) (s : State) : s.ReleasedTo (s.tearStreams p) :=
  ((s.tearStream_released p .s0).trans (State.tearStream_released p .s1 _)).trans
    ((State.freeRetired_curated _).released (State.freeRetired_cache _))

theorem State.tearStreams_torn (p : Port) (s : State) (i : StreamId) : s.StreamTorn (s.tearStreams p) p i := by
  have freed : (s.tearStreams p).streams = ((s.tearStream p .s0).tearStream p .s1).streams :=
    (State.freeRetired_curated _).streams
  cases i with
  | s0 =>
    refine (s.tearStream_torn p .s0).congr (fun _ => Iff.rfl) rfl ?_
    rw [freed]
    exact (State.tearStream_streams_ne (by decide)).symm
  | s1 =>
    refine ((s.tearStream p .s0).tearStream_torn p .s1).congr (fun _ => ?_) (State.tearStream_streams_ne (by decide)) ?_
    · exact State.drawn_of_outputs (s.tearStream_released p .s0).outputs
    · rw [freed]

theorem State.HoldsDefined.tearStream (h : State.HoldsDefined i g x s) (p : Port) (k : StreamId) :
    State.HoldsDefined i g x (s.tearStream p k) := by
  unfold State.tearStream
  dsimp only
  split
  · rw [State.beginClose_eq]
    have closing : State.HoldsDefined i g x (s.closingStream k none) :=
      h.of_surfaces (s.closingStream_linked k none).streamed.surfaces
    obtain ⟨xs, closed⟩ := State.finishClose_detached k (s.closingStream k none)
    exact (closing.detachSlots xs).of_surfaces closed.surfaces
  · exact h

theorem State.HoldsDefined.tearStreams (h : State.HoldsDefined i g x s) (p : Port) :
    State.HoldsDefined i g x (s.tearStreams p) :=
  ((h.tearStream p .s0).tearStream p .s1).freeRetired

end Sys2Proof.Machine
end

section
/-! SUPPORT. The surface manager's part of a teardown (R24), and the five teardown requests together (R168). -/

namespace Sys2Proof.Machine

variable {s t u : State} {p : Port} {o : OutputId} {i j : Nat} {g : Byte} {x : Surface}

/-! ## The surface manager's part (R24) -/

/-- The teardown of one surface: a DEFINED one of the port is RETIRING, or FREE. -/
def State.tearSurface (p : Port) (s : State) (i : Nat) : State :=
  match s.surfaceAt i with
  | some x => if x.owner = accountOf p ∧ x.state = .defined then s.retireOrFree i else s
  | none => s

theorem State.tearSurfaces_eq (p : Port) (s : State) : s.tearSurfaces p = surfaceIndices.foldl (State.tearSurface p) s := rfl

theorem State.tearSurface_curated (p : Port) (s : State) (i : Nat) : s.CuratedTo (s.tearSurface p i) := by
  unfold State.tearSurface
  split
  · split
    · exact s.retireOrFree_curated i
    · exact s.curatedTo_refl
  · exact s.curatedTo_refl

theorem State.tearSurface_cache (p : Port) (s : State) (i : Nat) : (s.tearSurface p i).cache = s.cache := by
  unfold State.tearSurface
  split
  · split
    · exact State.retireOrFree_cache i s
    · rfl
  · rfl

theorem State.tearSurface_entry_ne (ne : i ≠ j) :
    (s.tearSurface p j).surfaces.entries[i]? = s.surfaces.entries[i]? := by
  unfold State.tearSurface State.retireOrFree
  split
  · split
    · split
      · exact State.modSurface_entry_ne ne _
      · exact State.becomeFree_entry_ne ne
    · rfl
  · rfl

theorem State.tearSurfaces_curated (p : Port) (s : State) : s.CuratedTo (s.tearSurfaces p) :=
  foldl_keeps (P := s.CuratedTo) (fun t i ht => ht.trans (t.tearSurface_curated p i)) _ s.curatedTo_refl

theorem State.tearSurfaces_cache (p : Port) (s : State) : (s.tearSurfaces p).cache = s.cache :=
  foldl_keeps (P := fun t => t.cache = s.cache) (fun t i ht => (t.tearSurface_cache p i).trans ht) surfaceIndices rfl

theorem State.EntryHas.tearSurfaces {P : SurfaceEntry → Prop} (last : SurfaceEntry.Lasting P) (has : s.EntryHas i P)
    (p : Port) : (s.tearSurfaces p).EntryHas i P :=
  foldl_keeps (P := State.EntryHas i P) (fun t j ht => by
    split
    · split
      · exact State.EntryHas.retireOrFree last ht j
      · exact ht
    · exact ht) surfaceIndices has

/-- How the teardown leaves a DEFINED surface of the port: FREE, or RETIRING and held (R24). -/
def State.SurfaceGone (s : State) (i : Nat) (g : Byte) (x : Surface) (t : State) : Prop :=
  t.surfaces.entries[i]? = some ⟨g + 1, none⟩
    ∨ ∃ y, t.surfaces.entries[i]? = some ⟨g, some y⟩ ∧ y.state = .retiring ∧ (s.drawn i ∨ y.attached ≠ none)
        ∧ (x.attached = none → y.attached = none)

theorem State.SurfaceGone.of_entry (h : s.SurfaceGone i g x t) (e : u.surfaces.entries[i]? = t.surfaces.entries[i]?) :
    s.SurfaceGone i g x u := by
  unfold State.SurfaceGone
  rw [e]
  exact h

/-- A surface that is gone is not torn again. -/
theorem State.SurfaceGone.tearSurface (h : s.SurfaceGone i g x t) (j : Nat) : s.SurfaceGone i g x (t.tearSurface p j) := by
  by_cases same : i = j
  · subst same
    have still : t.tearSurface p i = t := by
      rcases h with free | ⟨y, entry, retiring, -⟩
      · simp [State.tearSurface, State.surfaceAt, free]
      · simp [State.tearSurface, State.surfaceAt, entry, retiring]
    rwa [still]
  · exact h.of_entry (State.tearSurface_entry_ne same)

theorem State.HoldsDefined.tearSurface_gone (h : State.HoldsDefined i g x t) (own : x.owner = accountOf p)
    (kind : x.kind ≠ .fallback) (sets : t.drawn i ↔ s.drawn i) : s.SurfaceGone i g x (t.tearSurface p i) := by
  obtain ⟨y, entry, ⟨rest, attached, -⟩, defined⟩ := h
  have hr : t.resolve ⟨i, g⟩ = some y := State.resolve_eq_some.mpr entry
  have own' : y.owner = accountOf p := by rw [rest]; exact own
  have kind' : y.kind ≠ .fallback := by rw [rest]; exact kind
  have step : t.tearSurface p i = t.retireOrFree i := by
    simp only [State.tearSurface, State.surfaceAt, entry, Option.bind_some, own', defined, and_self, if_true]
  rw [step, State.retireOrFree]
  split
  · next held =>
    refine .inr ⟨_, State.modSurface_entry entry _, rfl, ?_, attached⟩
    exact ((State.held_iff_drawn hr).mp held).imp_left sets.mp
  · obtain ⟨lt, -⟩ := List.getElem?_eq_some_iff.mp entry
    rw [State.becomeFree_of_resolve hr kind']
    exact .inl (by simp [SurfaceManager.release, lt])

theorem State.HoldsDefined.tearSurfaces_gone (h : State.HoldsDefined i g x s) (lt : i < 160) (own : x.owner = accountOf p)
    (kind : x.kind ≠ .fallback) : s.SurfaceGone i g x (s.tearSurfaces p) := by
  rw [State.tearSurfaces_eq]
  refine State.foldl_reaches (Q := fun t => (State.HoldsDefined i g x t ∨ s.SurfaceGone i g x t) ∧ t.outputs = s.outputs)
    (mem_surfaceIndices.mpr lt) (fun t ⟨now, outputs⟩ => ?_) (fun t j ⟨now, outputs⟩ => ⟨?_, ?_⟩)
    (fun t j gone => gone.tearSurface j) ⟨.inl h, rfl⟩
  · rcases now with holds | gone
    · exact holds.tearSurface_gone own kind (State.drawn_of_outputs outputs)
    · exact gone.tearSurface i
  · rcases now with holds | gone
    · by_cases same : i = j
      · subst same
        exact .inr (holds.tearSurface_gone own kind (State.drawn_of_outputs outputs))
      · exact .inl (holds.of_entry (State.tearSurface_entry_ne same))
    · exact .inr (gone.tearSurface j)
  · exact (t.tearSurface_curated p j).outputs.trans outputs

/-- The surfaces of the other port stay. -/
theorem State.HoldsDefined.tearSurfaces (h : State.HoldsDefined i g x s) (other : x.owner ≠ accountOf p) :
    State.HoldsDefined i g x (s.tearSurfaces p) :=
  foldl_keeps (P := State.HoldsDefined i g x) (fun t j ht => by
    by_cases same : i = j
    · subst same
      obtain ⟨y, entry, ⟨rest, -, -⟩, defined⟩ := id ht
      have stays : t.tearSurface p i = t := by
        have other' : y.owner ≠ accountOf p := by rw [rest]; exact other
        simp only [State.tearSurface, State.surfaceAt, entry, Option.bind_some, other', false_and, if_false]
      exact (show State.HoldsDefined i g x (t.tearSurface p i) by rwa [stays])
    · exact ht.of_entry (State.tearSurface_entry_ne same)) surfaceIndices h

/-! ## What the teardown requests leave as it is -/

/-- Nothing differs but what a teardown can reach: neither memory, nor the error block, nor start-up. -/
def State.TornTo (s t : State) : Prop := ∃ m ls outs st c a ps k, t = { s with
  surfaces := m, layers := ls, outputs := outs, streams := st, cache := c, arbiter := a, ports := ps, counters := k }

theorem State.TornTo.trans (h : s.TornTo t) (k : t.TornTo u) : s.TornTo u := by
  obtain ⟨_, _, _, _, _, _, _, _, rfl⟩ := h
  obtain ⟨_, _, _, _, _, _, _, _, rfl⟩ := k
  exact ⟨_, _, _, _, _, _, _, _, rfl⟩

theorem State.TornTo.eq (h : s.TornTo t) : t = { s with
    surfaces := t.surfaces, layers := t.layers, outputs := t.outputs, streams := t.streams, cache := t.cache
    arbiter := t.arbiter, ports := t.ports, counters := t.counters } := by
  obtain ⟨_, _, _, _, _, _, _, _, rfl⟩ := h
  rfl

theorem State.WishedTo.tornTo (h : s.WishedTo t) : s.TornTo t := by
  obtain ⟨_, _, _, rfl⟩ := h
  exact ⟨_, _, _, _, _, _, _, _, rfl⟩

theorem State.ReleasedTo.tornTo (h : s.ReleasedTo t) : s.TornTo t := by
  obtain ⟨_, _, _, _, _, rfl⟩ := h
  exact ⟨_, _, _, _, _, _, _, _, rfl⟩

theorem State.ShelvedTo.tornTo (h : s.ShelvedTo t) : s.TornTo t := by
  obtain ⟨_, _, _, _, _, _, rfl⟩ := h
  exact ⟨_, _, _, _, _, _, _, _, rfl⟩

theorem State.LinkedTo.tornTo (h : s.LinkedTo t) : s.TornTo t := h.wishedTo.tornTo

/-- The layer block's part touches neither the streams nor the arbiter. -/
theorem State.tearLayers_eq (p : Port) (s : State) : s.TornTo (s.tearLayers p)
    ∧ (s.tearLayers p).streams = s.streams ∧ (s.tearLayers p).arbiter = s.arbiter := by
  obtain ⟨v, ⟨ps, k, rfl⟩, e⟩ := s.tearLayers_stems p
  have written : s.TornTo (s.layersWritten p) := ⟨_, _, _, _, _, _, _, _, s.layersWritten_eq p⟩
  have told := State.reportUnnamed_curated s
    { s.layersWritten p with ports := ps, counters := { (s.layersWritten p).counters with port := k } }
  rw [e]
  refine ⟨(written.trans ⟨_, _, _, _, _, _, _, _, rfl⟩).trans told.shelvedTo.tornTo, ?_, ?_⟩
  · rw [told.streams, s.layersWritten_eq]
  · rw [told.eq, s.layersWritten_eq]

end Sys2Proof.Machine
end

section
/-! SUPPORT. The five teardown requests in their order (R168): the states between them, and `TornDown` at their end. -/

namespace Sys2Proof.Machine

variable {s t u : State} {p : Port} {o : OutputId} {i j : Nat} {g : Byte} {x : Surface}

/-! ## The states between the requests -/

/-- The port's wishes, its mask and its baselines are withdrawn (R168 steps 1 and 2). -/
def State.withdrawn (p : Port) (s : State) : State :=
  (State.setWishes p none s).modPort p (fun q => { q with mask := 0, baselines := Counters.zero, cancelled := 0 })

/-- The layer block and the stream block have done their part. -/
def State.drawnDown (p : Port) (s : State) : State := ((s.withdrawn p).tearLayers p).tearStreams p

/-- The poster cache and the arbiter have done theirs. -/
def State.cutOff (p : Port) (s : State) : State := ((s.drawnDown p).tearPosters p).tearFlash p

theorem State.tearDown_eq (p : Port) (s : State) : s.tearDown p = (s.cutOff p).tearSurfaces p := rfl

theorem State.withdrawn_wishedTo (p : Port) (s : State) : s.WishedTo (s.withdrawn p) :=
  (s.setWishes_wishedTo p none).trans (State.modPort_linked p _ _).wishedTo

theorem State.withdrawn_outputs (p : Port) (s : State) (o : OutputId) : (s.withdrawn p).outputs.get o =
    if s.outputEnabled o then (s.outputs.get o).wished p none else s.outputs.get o := s.setWishes_outputs p none o

theorem State.withdrawn_enabled (p : Port) (s : State) (o : OutputId) :
    (s.withdrawn p).outputEnabled o = s.outputEnabled o := by
  rw [State.outputEnabled, State.withdrawn_outputs]
  split
  · rw [(OutputState.wished_kept _ p none).1]
    rfl
  · rfl

theorem State.cutOff_shelvedTo (p : Port) (s : State) : (s.drawnDown p).ShelvedTo (s.cutOff p) :=
  (State.tearPosters_shelvedTo p _).trans (State.tearFlash_shelvedTo p _)

theorem State.ShelvedTo.outputs (h : s.ShelvedTo t) : t.outputs = s.outputs := by
  obtain ⟨_, _, _, _, _, _, rfl⟩ := h
  rfl

theorem State.ShelvedTo.streams (h : s.ShelvedTo t) : t.streams = s.streams := by
  obtain ⟨_, _, _, _, _, _, rfl⟩ := h
  rfl

theorem State.ReleasedTo.cache (h : s.ReleasedTo t) : t.cache = s.cache := by
  obtain ⟨_, _, _, _, _, rfl⟩ := h
  rfl

theorem State.ReleasedTo.arbiter (h : s.ReleasedTo t) : t.arbiter = s.arbiter := by
  obtain ⟨_, _, _, _, _, rfl⟩ := h
  rfl

theorem State.PortsOnly.cache (h : s.PortsOnly t) : t.cache = s.cache := by
  unfold State.PortsOnly at h
  rw [h]

theorem State.PortsOnly.arbiter (h : s.PortsOnly t) : t.arbiter = s.arbiter := by
  unfold State.PortsOnly at h
  rw [h]

theorem State.cancelFlash_cache (p : Port) (s : State) : (s.cancelFlash p).cache = s.cache := (s.cancelFlash_portsOnly p).cache

/-! ## Outputs -/

/-- What the requests leave of an enabled output: the wish is withdrawn, and then the layer block acts. -/
theorem State.tearDown_outputs (p : Port) (s : State) (o : OutputId) : (s.tearDown p).outputs.get o =
    if s.outputEnabled o then ((s.outputs.get o).wished p none).torn p else s.outputs.get o := by
  have later : (s.tearDown p).outputs = ((s.withdrawn p).tearLayers p).outputs := by
    rw [State.tearDown_eq, (State.tearSurfaces_curated p _).outputs, (s.cutOff_shelvedTo p).outputs]
    exact (State.tearStreams_released p _).outputs
  rw [later, State.tearLayers_outputs, State.layersWritten_outputs, State.withdrawn_enabled, State.withdrawn_outputs]
  split <;> rfl

/-- Every set of the field stays. -/
theorem State.tearDown_kept (p : Port) (s : State) (o : OutputId) :
    ((s.tearDown p).outputs.get o).timing = (s.outputs.get o).timing
      ∧ ((s.tearDown p).outputs.get o).layers = (s.outputs.get o).layers
      ∧ ((s.tearDown p).outputs.get o).holdSet = (s.outputs.get o).holdSet
      ∧ ((s.tearDown p).outputs.get o).forcedBlank = (s.outputs.get o).forcedBlank := by
  rw [State.tearDown_outputs]
  split
  · obtain ⟨timing, -, -, layers, holdSet, forced⟩ := ((s.outputs.get o).wished p none).torn_kept p
    obtain ⟨timing', -, -, -, layers', holdSet', forced'⟩ := (s.outputs.get o).wished_kept p none
    exact ⟨timing.trans timing', layers.trans layers', holdSet.trans holdSet', forced.trans forced'⟩
  · exact ⟨rfl, rfl, rfl, rfl⟩

/-- The layer block writes at once on the enabled outputs that are ASLEEP in the end (R47). -/
theorem State.withdrawn_writesNow (p : Port) (s : State) (o : OutputId) : (s.withdrawn p).writesNow o ↔
    s.outputEnabled o = true ∧ ((s.tearDown p).outputs.get o).panel = .asleep := by
  rw [State.writesNow, State.withdrawn_enabled, State.withdrawn_outputs, State.tearDown_outputs]
  refine and_congr_right fun on => ?_
  rw [if_pos on, if_pos on, (((s.outputs.get o).wished p none).torn_kept p).2.1]

/-! ## Layers -/

theorem State.tearDown_layersFrom (p : Port) (s : State) :
    State.LayersFrom ((s.withdrawn p).layersWritten p).layers (s.tearDown p) := by
  have keeps := layersFrom_stable ((s.withdrawn p).layersWritten p).layers
  exact keeps.tearSurfaces p (keeps.tearFlash p (keeps.tearPosters p (keeps.tearStreams p
    (State.tearLayers_layersFrom p (s.withdrawn p)))))

theorem State.withdrawn_rest (p : Port) (s : State) : (s.withdrawn p).layers = s.layers ∧ (s.withdrawn p).streams = s.streams
    ∧ (s.withdrawn p).cache = s.cache ∧ (s.withdrawn p).arbiter = s.arbiter ∧ (s.withdrawn p).surfaces = s.surfaces := by
  rw [(s.withdrawn_wishedTo p).eq]
  exact ⟨rfl, rfl, rfl, rfl, rfl⟩

/-! ## The queues of the loader and of the device -/

theorem State.drawnDown_rest (p : Port) (s : State) : (s.drawnDown p).cache.queue = s.cache.queue
    ∧ (s.drawnDown p).cache.work = s.cache.work ∧ (s.drawnDown p).arbiter = s.arbiter := by
  obtain ⟨-, -, cache, arbiter, -⟩ := s.withdrawn_rest p
  have released := State.tearStreams_released p ((s.withdrawn p).tearLayers p)
  obtain ⟨rest, -, -⟩ := (s.withdrawn p).tearLayers_cache p
  have layers := ((s.withdrawn p).tearLayers_eq p).2.2
  rw [State.drawnDown, released.cache, released.arbiter, layers, arbiter, rest, cache]
  exact ⟨rfl, rfl, rfl⟩

theorem State.drawnDown_waitersOf (p : Port) (s : State) : (s.drawnDown p).waitersOf p = s.waitersOf p := by
  rw [State.waitersOf, (s.drawnDown_rest p).1]
  rfl

/-- The device is at work, or the loader does not wait: no request gives the grant away. -/
theorem State.DeviceSettled.tearPosters (h : s.DeviceSettled) (p : Port) :
    ((s.drawnDown p).tearPosters p).arbiter.grant = s.arbiter.grant
      ∧ ((s.drawnDown p).tearPosters p).arbiter.queues = s.arbiter.queues := by
  obtain ⟨-, work, arbiter⟩ := s.drawnDown_rest p
  have device := (s.drawnDown p).tearPosters_keepsDevice p
  have same := ((s.drawnDown p).countsDropped_cache p).2.2.trans arbiter
  refine ⟨?_, device.queues.trans (by rw [same])⟩
  rcases h with busy | still
  · exact (device.busy (by rw [same]; exact busy)).1.trans (by rw [same])
  · rw [State.tearPosters_settled (by rw [work]; exact still), same]

theorem State.DeviceSettled.cancelledOps (h : s.DeviceSettled) (p : Port) :
    ((s.drawnDown p).tearPosters p).cancelledOps p = s.cancelledOps p := by
  obtain ⟨grant, queues⟩ := h.tearPosters p
  have granted : ((s.drawnDown p).tearPosters p).arbiter.grantedTo p = s.arbiter.grantedTo p := by
    rw [Arbiter.grantedTo, grant]
    rfl
  rw [State.cancelledOps, State.cancelledOps, granted, queues]

/-- What the requests leave of the load queue (R130). -/
theorem State.cutOff_queue (still : s.cache.work ≠ .waiting) :
    (s.cutOff p).cache.queue = dropWaiters p s.cache.work.serving s.cache.queue := by
  obtain ⟨queue, work, -⟩ := s.drawnDown_rest p
  have settled := (s.drawnDown p).tearPosters_settled (p := p) (by rw [work]; exact still)
  obtain ⟨left, work', -⟩ := (s.drawnDown p).countsDropped_cache p
  have waits : ((s.drawnDown p).tearPosters p).cache.work ≠ .waiting := by
    rw [settled, work', work]
    exact still
  rw [State.cutOff, State.tearFlash_settled waits, State.cancelFlash_cache, settled, left, work, queue]

theorem State.tearFlash_queue (p : Port) (s : State) : (s.tearFlash p).cache.queue <:+ s.cache.queue :=
  (queueSuffix_loaderKeeps s.cache.queue).tearFlash (by rw [State.cancelFlash_cache])

theorem State.cutOff_waits (p : Port) (s : State) : ∀ e ∈ (s.cutOff p).cache.queue, ∀ w ∈ e.waiters, w.port ≠ p :=
  fun e mem => (s.drawnDown p).tearPosters_waits p e ((State.tearFlash_queue p _).mem mem)

/-- The flash queues and the grant after a removal that found the queues as they were in `s`. -/
theorem State.tearFlash_removed (queues : t.arbiter.queues = s.arbiter.queues) :
    (t.tearFlash p).arbiter.queues.get p.other = s.arbiter.queues.get p.other
      ∧ ((t.tearFlash p).arbiter.queues.get p ≠ [] → ∃ op, (t.tearFlash p).arbiter.grant = some (.port p op))
      ∧ (t.arbiter.grant = s.arbiter.grant → t.arbiter.grant ≠ none ∨ t.cache.work ≠ .waiting →
        (t.tearFlash p).arbiter.grant = s.arbiter.grant
        ∧ (t.tearFlash p).arbiter.queues.get p = if s.arbiter.grantedTo p then (s.arbiter.queues.get p).take 1 else []) := by
  obtain ⟨other, own, busy⟩ := t.tearFlash_queues p
  refine ⟨other.trans (by rw [queues]), fun left => ?_, fun grant settled => ?_⟩
  · have granted : t.arbiter.grantedTo p = true := by
      by_contra none'
      rw [own, if_neg none'] at left
      exact left rfl
    obtain ⟨op, grant⟩ : ∃ op, t.arbiter.grant = some (.port p op) := by
      by_contra none'
      rw [(Arbiter.grantedTo_eq_false ..).mpr (by simpa using none')] at granted
      cases granted
    exact ⟨op, (busy (by rw [grant]; nofun)).trans grant⟩
  · have same : t.arbiter.grantedTo p = s.arbiter.grantedTo p := by
      rw [Arbiter.grantedTo, grant]
      rfl
    refine ⟨?_, by rw [own, same, queues]⟩
    rcases settled with working | still
    · exact (busy working).trans grant
    · rw [State.tearFlash_settled still, (t.cancelFlash_portsOnly p).arbiter]
      exact grant

/-- What the requests leave of the flash queues and of the grant (R148). -/
theorem State.cutOff_flash (p : Port) (s : State) :
    (s.cutOff p).arbiter.queues.get p.other = s.arbiter.queues.get p.other
      ∧ ((s.cutOff p).arbiter.queues.get p ≠ [] → ∃ op, (s.cutOff p).arbiter.grant = some (.port p op))
      ∧ (s.DeviceSettled → (s.cutOff p).arbiter.grant = s.arbiter.grant
        ∧ (s.cutOff p).arbiter.queues.get p = if s.arbiter.grantedTo p then (s.arbiter.queues.get p).take 1 else []) := by
  obtain ⟨-, work, arbiter⟩ := s.drawnDown_rest p
  have before : ((s.drawnDown p).tearPosters p).arbiter.queues = s.arbiter.queues := by
    rw [((s.drawnDown p).tearPosters_keepsDevice p).queues, ((s.drawnDown p).countsDropped_cache p).2.2, arbiter]
  obtain ⟨other, left, settles⟩ := State.tearFlash_removed (p := p) before
  rw [State.cutOff]
  refine ⟨other, left, fun settled => settles (settled.tearPosters p).1 ?_⟩
  rcases settled with working | still
  · exact .inl (by rw [(State.DeviceSettled.tearPosters (.inl working) p).1]; exact working)
  · rw [(s.drawnDown p).tearPosters_settled (by rw [work]; exact still), ((s.drawnDown p).countsDropped_cache p).2.1, work]
    exact .inr still

/-! ## The ports -/

/-- A port that has left ATTACHED keeps neither mask nor baselines, and its count begins (R168 step 2). -/
def PortState.withdrawn (q : PortState) : PortState := { q with mask := 0, baselines := Counters.zero, cancelled := 0 }

theorem PortState.torn.withdrawn {q r : PortState} (h : q.torn 0 r) : q.withdrawn.torn 0 r.withdrawn where
  notices := h.notices
  lost := h.lost
  rest := by rw [PortState.withdrawn, h.rest]; rfl
  silent resetting := by
    have same := h.silent resetting
    rw [PortState.withdrawn, same]
    rfl
  detaches := h.detaches

theorem State.withdrawn_tears (p : Port) (s : State) :
    (s.modPort p PortState.withdrawn).Tears (s.withdrawn p) p 0 := fun q => by
  have wishes := s.setWishes_tears (p := p) p none
  by_cases e : q = p
  · subst e
    rw [State.withdrawn, State.modPort_ports, State.modPort_ports, PerPort.get_set, PerPort.get_set, ite_self]
    exact wishes.own.withdrawn
  · rw [State.withdrawn, State.modPort_get_ne e, State.modPort_get_ne e]
    exact wishes q

theorem State.tearDown_tears (p : Port) (s : State) : (s.modPort p PortState.withdrawn).Tears (s.tearDown p) p
    ((s.waitersOf p).length + (((s.drawnDown p).tearPosters p).cancelledOps p).length) := by
  have drawn := (s.withdrawn_tears p).andThen
    ((State.tearLayers_tears (p := p) p (s.withdrawn p)).andThen (State.tearStreams_tears (p := p) p _))
  have posters := (s.drawnDown p).tearPosters_tears p
  rw [State.drawnDown_waitersOf] at posters
  have cut := posters.trans (State.tearFlash_tears p _)
  rw [← Nat.zero_add (List.length _ + _)]
  exact (drawn.trans cut).of_ports (State.tearSurfaces_curated p _).ports

/-- The LATCHes of the port on an output that stays ASLEEP complete with the output's count (R47). -/
theorem State.tearDown_latches {e : LatchEntry} (on : s.outputEnabled o = true)
    (asleep : ((s.tearDown p).outputs.get o).panel = .asleep) (mem : e ∈ (s.outputs.get o).latches) (mine : e.port = p)
    (alive : (s.ports.get p).status ≠ .resetting) :
    Notice.completion e.tag 0x22 .ok none (.latch o (s.outputs.get o).fieldCount) ∈ ((s.tearDown p).ports.get p).notices := by
  have now := (s.withdrawn_writesNow p o).mpr ⟨on, asleep⟩
  have still : (s.withdrawn p).outputs.get o = { s.outputs.get o with wishes := (s.outputs.get o).wishes.set p none } := by
    rw [State.withdrawn_outputs, if_pos on]
    rcases (s.outputs.get o).wished_cases p none with e | ⟨-, -, -, e⟩
    · exact e
    · have panel := now.2
      rw [State.withdrawn_outputs, if_pos on, e] at panel
      change (if _ then PanelState.waking else PanelState.blanked) = _ at panel
      split at panel <;> cases panel
  have status : ((s.withdrawn p).ports.get p).status ≠ .resetting := by
    rw [(s.withdrawn_tears p).status, State.modPort_ports, PerPort.get_set]
    exact alive
  have told := State.mem_tearLayers (p := p) now (e := e) (by rw [still]; exact mem) mine status
  rw [still] at told
  have cut := ((s.drawnDown p).tearPosters_tears p).trans (State.tearFlash_tears p _)
  have later := ((State.tearStreams_tears (p := p) p ((s.withdrawn p).tearLayers p)).trans cut).of_ports
    (State.tearSurfaces_curated p _).ports
  exact (later.keepsNotices p).mem told

theorem State.drawnDown_status (p : Port) (s : State) : ((s.drawnDown p).ports.get p).status = (s.ports.get p).status := by
  have drawn := (s.withdrawn_tears p).andThen
    ((State.tearLayers_tears (p := p) p (s.withdrawn p)).andThen (State.tearStreams_tears (p := p) p _))
  rw [State.drawnDown, drawn.status, State.modPort_ports, PerPort.get_set]
  rfl

/-- The loads of the port that waited complete with CANCELLED (R130). -/
theorem State.tearDown_loads {w : Waiter} (mem : w ∈ s.waitersOf p) (alive : (s.ports.get p).status ≠ .resetting) :
    Notice.completion w.tag 0x40 .cancelled none .none ∈ ((s.tearDown p).ports.get p).notices := by
  have told := State.mem_tearPosters (s := s.drawnDown p) (p := p) (w := w) (by rwa [State.drawnDown_waitersOf])
    (by rwa [State.drawnDown_status])
  have later := (State.tearFlash_tears p ((s.drawnDown p).tearPosters p)).of_ports (State.tearSurfaces_curated p _).ports
  exact (later.keepsNotices p).mem told

/-- So do the operations of the port that do not hold the grant (R148). -/
theorem State.tearDown_ops {op : FlashOp} (settled : s.DeviceSettled) (mem : op ∈ s.cancelledOps p)
    (alive : (s.ports.get p).status ≠ .resetting) :
    Notice.completion op.tag (match op.kind with | .read _ _ => 0x50 | .program _ _ => 0x51 | .erase _ => 0x52) .cancelled none
      .none ∈ ((s.tearDown p).ports.get p).notices := by
  have told := State.mem_tearFlash (s := (s.drawnDown p).tearPosters p) (p := p) (op := op)
    (by rwa [settled.cancelledOps]) (by rwa [((s.drawnDown p).tearPosters_tears p).status, State.drawnDown_status])
  have same : ((s.tearDown p).ports.get p) = ((s.cutOff p).ports.get p) := by
    rw [State.tearDown_eq, (State.tearSurfaces_curated p _).ports]
  rw [same, State.cutOff]
  exact told

/-! ## The five requests together (R168) -/

/-- A DEFINED surface comes to the surface manager as it was, but for its stream and its counts. -/
theorem State.cutOff_holds (entry : s.surfaces.entries[i]? = some ⟨g, some x⟩) (defined : x.state = .defined) (p : Port) :
    State.HoldsDefined i g x (s.cutOff p) := by
  have first : State.HoldsDefined i g x (s.withdrawn p) :=
    State.HoldsDefined.of_surfaces ⟨x, entry, x.steady_refl, defined⟩ (s.withdrawn_rest p).2.2.2.2
  exact (((first.tearLayers p).tearStreams p).tearPosters p).tearFlash p

theorem State.cutOff_drawn (p : Port) (s : State) (i : Nat) : (s.cutOff p).drawn i ↔ s.drawn i := by
  refine State.drawn_congr fun o => ?_
  have same : (s.tearDown p).outputs = (s.cutOff p).outputs := by
    rw [State.tearDown_eq, (State.tearSurfaces_curated p _).outputs]
  rw [← same]
  exact (s.tearDown_kept p o).2.2.1

theorem State.tearDown_streams (p : Port) (s : State) (k : StreamId) : s.StreamTorn (s.tearDown p) p k := by
  have later : (s.tearDown p).streams = (s.drawnDown p).streams := by
    rw [State.tearDown_eq, (State.tearSurfaces_curated p _).streams, (s.cutOff_shelvedTo p).streams]
  have same : ((s.withdrawn p).tearLayers p).streams = s.streams :=
    ((s.withdrawn p).tearLayers_eq p).2.1.trans (s.withdrawn_rest p).2.1
  refine (State.tearStreams_torn p ((s.withdrawn p).tearLayers p) k).congr (fun i => ?_) (by rw [same]) (by rw [later]; rfl)
  have outputs : ((s.withdrawn p).tearLayers p).outputs = (s.cutOff p).outputs := by
    rw [(s.cutOff_shelvedTo p).outputs]
    exact (State.tearStreams_released p _).outputs.symm
  exact (State.drawn_of_outputs outputs).trans (s.cutOff_drawn p i)

theorem State.tearDown_tornTo (p : Port) (s : State) : s.TornTo (s.tearDown p) := by
  have drawn := ((s.withdrawn_wishedTo p).tornTo.trans ((s.withdrawn p).tearLayers_eq p).1).trans
    (State.tearStreams_released p _).tornTo
  exact (drawn.trans (s.cutOff_shelvedTo p).tornTo).trans (State.tearSurfaces_curated p _).shelvedTo.tornTo

/-- A poster of the table at the end was in the table when the counts were dropped. -/
theorem State.tearDown_uncounted (lt : i < 160) (at' : (s.tearDown p).surfaceAt i = some x) (poster : x.kind = .poster) :
    x.refs.get p = 0 := by
  obtain ⟨g, entry⟩ := State.entry_of_surfaceAt at'
  obtain ⟨inside, -⟩ := List.getElem?_eq_some_iff.mp entry
  have stable := entriesLength_stable (s.drawnDown p).surfaces.entries.length
  have length : (s.tearDown p).surfaces.entries.length = (s.drawnDown p).surfaces.entries.length := by
    rw [State.tearDown_eq, State.cutOff]
    exact stable.tearSurfaces p (stable.tearFlash p (stable.tearPosters p rfl))
  rw [length] at inside
  have has : (s.drawnDown p).EntryHas i fun _ => True := ⟨_, List.getElem?_eq_getElem inside, trivial⟩
  obtain ⟨e, entry', holds⟩ := State.EntryHas.tearSurfaces (SurfaceEntry.uncounted_lasting p)
    ((State.tearPosters_uncounted (p := p) lt has).tearFlash) p
  rw [State.tearDown_eq, State.cutOff] at entry
  obtain rfl : e = ⟨g, some x⟩ := Option.some.inj (entry'.symm.trans entry)
  exact holds x rfl poster

/-- What the five requests have done (R168). -/
theorem State.tearDown_tornDown (p : Port) (s : State) : s.TornDown (s.tearDown p) p where
  mask := by
    have own := (s.tearDown_tears p).own
    rw [State.modPort_ports, PerPort.get_set] at own
    exact ⟨own.mask, own.baselines⟩
  outputs o := by
    obtain ⟨timing, layers, holdSet, forced⟩ := s.tearDown_kept p o
    refine ⟨fun off => ?_, fun on => ?_, timing, layers, holdSet, forced⟩
    · rw [State.tearDown_outputs, if_neg (by simp [off])]
    · rw [State.tearDown_outputs, if_pos on, (OutputState.torn_kept p _).2.2.1, (OutputState.wished_kept _ p none).2.1]
  awake o on awake := by
    have panel : ((s.outputs.get o).wished p none).panel ≠ .asleep := by
      rwa [State.tearDown_outputs, if_pos on, (OutputState.torn_kept p _).2.1] at awake
    obtain ⟨-, -, latches, internal, -⟩ := (s.outputs.get o).wished_kept p none
    rw [State.tearDown_outputs, if_pos on, OutputState.torn_awake panel]
    exact ⟨latches, congrArg (PerPort.set · p true) internal⟩
  asleep o on asleep := by
    have panel : ((s.outputs.get o).wished p none).panel = .asleep := by
      rwa [State.tearDown_outputs, if_pos on, (OutputState.torn_kept p _).2.1] at asleep
    obtain ⟨-, -, latches, internal, -⟩ := (s.outputs.get o).wished_kept p none
    rw [State.tearDown_outputs, if_pos on, OutputState.torn_asleep panel]
    exact ⟨congrArg (List.filter _) latches, internal⟩
  layers := by
    have from' := s.tearDown_layersFrom p
    have same := (s.withdrawn_rest p).1
    refine ⟨by rw [from'.length, State.layersWritten_length, same], fun id r at' => ?_⟩
    rw [← same] at at'
    by_cases own : ownsLayer p id = true
    · obtain ⟨w, written, pending, now, later⟩ := State.layersWritten_own own at'
      obtain ⟨r', there, active', pending'⟩ := from'.getElem? written
      refine ⟨r', there, fun _ => pending ▸ pending', fun foreign => absurd (ownsLayer_eq_true.mp own) foreign,
        fun _ o names on asleep => ?_, fun _ awake => ?_⟩
      · rw [now o names ((s.withdrawn_writesNow p o).mpr ⟨on, asleep⟩)] at active'
        exact active'
      · rw [later fun o names writes => ?_] at active'
        · exact active'
        · obtain ⟨on, asleep⟩ := (s.withdrawn_writesNow p o).mp writes
          exact awake o names on asleep
    · obtain ⟨r', there, active', pending'⟩ := from'.getElem? ((State.layersWritten_foreign own).trans at')
      have foreign : ¬ layerIdOf p id := fun mine => own (ownsLayer_eq_true.mpr mine)
      exact ⟨r', there, fun mine => absurd mine foreign, fun _ => ⟨pending', active'⟩, fun mine => absurd mine foreign,
        fun mine => absurd mine foreign⟩
  streams := s.tearDown_streams p
  posters := by
    have cache : (s.tearDown p).cache = (s.cutOff p).cache := by rw [State.tearDown_eq, State.tearSurfaces_cache]
    refine ⟨fun e mem => ?_, fun still => ⟨fun filling => ?_, fun idle => ?_⟩, fun i x lt at' poster =>
      State.tearDown_uncounted lt at' poster⟩
    · rw [cache] at mem
      exact s.cutOff_waits p e mem
    · rw [cache, State.cutOff_queue still, LoaderWork.serving_iff.mpr filling]
      exact dropWaiters_serving p _
    · have off : s.cache.work.serving = false := Bool.eq_false_iff.mpr fun serving => by
        obtain ⟨l, e⟩ := LoaderWork.serving_iff.mp serving
        exact idle l e
      rw [cache, State.cutOff_queue still, off]
      exact dropWaiters_idle p _
  flash := by
    have arbiter : (s.tearDown p).arbiter = (s.cutOff p).arbiter := by
      rw [State.tearDown_eq, (State.tearSurfaces_curated p _).eq]
    rw [arbiter]
    exact s.cutOff_flash p
  surfaces i e x lt entry body defined := by
    obtain ⟨g, b⟩ := e
    obtain rfl : b = some x := body
    have holds := State.cutOff_holds entry defined p
    rw [State.tearDown_eq]
    refine ⟨fun own kind => ?_, fun kind other => ?_⟩
    · rcases holds.tearSurfaces_gone lt own kind with free | ⟨y, at', retiring, held, attached⟩
      · exact ⟨fun _ _ => free, .inl free⟩
      · have held' := held.imp_left (s.cutOff_drawn p i).mp
        refine ⟨fun undrawn none' => ?_, .inr ⟨y, at', retiring, held'⟩⟩
        rcases held' with drawn | some'
        · exact absurd drawn undrawn
        · exact absurd (attached none') some'
    · obtain ⟨y, at', ⟨rest, -, refs⟩, -⟩ := holds.tearSurfaces other
      refine ⟨y, at', rest.trans ?_⟩
      rw [refs kind]

end Sys2Proof.Machine
end

section
/-! SUPPORT. PORT RESET ASSERT and DETACH (R168 to R171): the teardown requests, PORT CHANGE, and the end of what is over. -/

namespace Sys2Proof.Machine

variable {s t u v w : State} {p q : Port} {f : Frame} {rest : List Frame} {n : Nat} {tag : Byte} {note : Notice}

/-! ## The end of a teardown, seen from its port (R169, R171) -/

theorem State.settlePort_queue (p q : Port) (s : State) : ((s.settlePort p).ports.get q).queue = (s.ports.get q).queue := by
  have told (u : State) : ((u.portChange p).ports.get q).queue = (u.ports.get q).queue :=
    (State.notifyIf_tears (p := p) _ _ _ u q).queue
  have changed (u : State) (f : PortState → PortState) (keeps : ∀ r, (f r).queue = r.queue) :
      ((u.modPort p f).ports.get q).queue = (u.ports.get q).queue := by
    by_cases e : q = p
    · subst e
      rw [State.modPort_ports, PerPort.get_set, keeps]
    · rw [State.modPort_get_ne e]
  cases h : (s.ports.get p).status with
  | detaching =>
    rcases State.settlePort_detaching h with ⟨-, e⟩ | ⟨tag, -, -, e⟩ <;> rw [e]
    rw [told]
    exact (changed _ (fun r => { r with status := .detached, cancelled := 0 }) fun _ => rfl).trans
      (State.completeHeld_serves _ _ _ _ _ _ s q).queue
  | resetting =>
    rcases State.settlePort_resetting h with ⟨-, e⟩ | ⟨-, e⟩ | ⟨-, -, e⟩ <;> rw [e]
    · exact changed _ _ fun _ => rfl
    · rw [told]
      exact changed _ _ fun _ => rfl
  | absent | detached | attached => rw [State.settlePort_stays (by simp [h]) (by simp [h])]

theorem State.settle_queue (q : Port) (s : State) : (s.settle.ports.get q).queue = (s.ports.get q).queue :=
  (State.settlePort_queue .b q _).trans (State.settlePort_queue .a q s)

/-- Where a port is offered no notices, only the end of its own teardown acts on it. -/
theorem State.settle_port (away : (s.ports.get p).status ≠ .attached) :
    ∃ v, s.LinkedTo v ∧ v.ports.get p = s.ports.get p ∧ s.settle.ports.get p = (v.settlePort p).ports.get p := by
  cases p with
  | a => exact ⟨s, s.linkedTo_refl, rfl, State.settlePort_get_ne (by decide) (State.settlePort_away away)⟩
  | b => exact ⟨s.settlePort .a, State.settlePort_linked .a s, State.settlePort_get_ne (by decide) away, rfl⟩

/-- A RESETTING port whose line is asserted stays so (R171; log 37). -/
theorem State.settle_asserted (resetting : (s.ports.get p).status = .resetting) (line : (s.ports.get p).resetLine = true) :
    ∃ es, s.settle.ports.get p = { s.ports.get p with inFlight := es } := by
  obtain ⟨v, -, same, settled⟩ := State.settle_port (s := s) (p := p) (by simp [resetting])
  rw [settled, ← same]
  rcases State.settlePort_resetting (s := v) (p := p) (by rw [same]; exact resetting) with
    ⟨-, e⟩ | ⟨-, e⟩ | ⟨released, -, -⟩
  · rw [e]
    exact ⟨_, rfl⟩
  · rw [e, State.modPort_ports, PerPort.get_set]
    exact ⟨_, rfl⟩
  · rw [same, line] at released
    cases released

/-- A DETACHING port ends with its DETACH, the last in its table, or goes on as it was (R169). -/
theorem State.settle_detaching (detaching : (s.ports.get p).status = .detaching) :
    (s.settle.ports.get p = s.ports.get p ∧ (¬ s.settle.TeardownOver p ∨ loneDetach (s.ports.get p).inFlight = none))
    ∨ ∃ tag, (s.ports.get p).inFlight = [⟨0x02, tag⟩] ∧ s.settle.TeardownOver p
        ∧ (s.settle.ports.get p).status = .detached ∧ (s.settle.ports.get p).inFlight = []
        ∧ (s.settle.ports.get p).mask = (s.ports.get p).mask ∧ (s.settle.ports.get p).baselines = (s.ports.get p).baselines
        ∧ (s.settle.ports.get p).notices.getLast? =
          some (.completion tag 0x02 .ok none (.detach (s.ports.get p).cancelled)) := by
  obtain ⟨v, linked, same, settled⟩ := State.settle_port (s := s) (p := p) (by simp [detaching])
  have finished : s.settle.TeardownOver p ↔ v.TeardownOver p :=
    s.settle_linked.teardownOver.trans linked.teardownOver.symm
  have mine : (v.ports.get p).status = .detaching := by rw [same]; exact detaching
  rw [settled, ← same, finished]
  rcases State.settlePort_detaching mine with ⟨goesOn, e⟩ | ⟨tag, lone, ends, e⟩
  · rw [e]
    exact .inl ⟨rfl, goesOn.symm⟩
  · have only : (v.ports.get p).inFlight = [⟨0x02, tag⟩] := loneDetach_eq_some lone
    have port : ((v.detachEnded p tag).portChange p).ports.get p = (v.detachEnded p tag).ports.get p :=
      State.notifyIf_get_ne p.other_ne.symm _ _ _
    rw [e, port, State.detachEnded, State.modPort_ports, PerPort.get_set, State.completeHeld_get (by simp [mine])]
    refine .inr ⟨tag, only, ends, rfl, ?_, rfl, rfl, List.getLast?_concat⟩
    change (v.ports.get p).inFlight.erase ⟨0x02, tag⟩ = []
    rw [only]
    simp

/-! ## Notices to the other port (R167) -/

/-- PORT CHANGE stays in the queue of an ATTACHED port that lost no notice. -/
theorem State.told_between (told : v.told w q note) (before : (s.ports.get q).torn 0 (v.ports.get q))
    (after : (v.ports.get q).status = .attached →
      (v.ports.get q).lost ≤ (w.ports.get q).lost ∧ (w.ports.get q).noticed (t.ports.get q)) : s.told t q note := by
  intro attached room kept
  have status : (v.ports.get q).status = .attached := before.status.trans attached
  obtain ⟨more, notices, lost, -⟩ := after status
  have first := before.lost
  exact notices.mem (told status (by omega) (by omega))

theorem State.portChange_tears (p : Port) (s : State) : s.Tears (s.portChange p) q 0 := State.notifyIf_tears _ _ _ s

theorem State.portChange_own (p : Port) (s : State) : (s.portChange p).ports.get p = s.ports.get p :=
  State.notifyIf_get_ne p.other_ne.symm _ _ _

/-- A port whose teardown begins or ends tells the other one (R167). -/
theorem State.told_portChange (subscribed : (s.ports.get p.other).mask.getLsbD 3 = true)
    (before : (s.ports.get p.other).torn 0 (v.ports.get p.other)) :
    s.told (v.portChange p).settle p.other (.portChange p (v.ports.get p).status) := by
  have told : v.told (v.portChange p) p.other (.portChange p (v.ports.get p).status) :=
    State.told_notifyIf rfl (x := .portChange) (by rw [before.mask]; exact subscribed) _
  have change := (v.portChange_tears (q := p) p).other
  exact State.told_between told before fun attached =>
    ⟨change.lost, State.settle_noticed (change.status.trans attached)⟩

/-- The five teardown requests are read from what a change of the ports leaves alone, but for the mask and the baselines. -/
theorem State.TornDown.linked (torn : u.TornDown v p) (before : s.LinkedTo u) (after : v.LinkedTo t)
    (mask : (t.ports.get p).mask = 0 ∧ (t.ports.get p).baselines = Counters.zero) : s.TornDown t p := by
  obtain ⟨_, _, rfl⟩ := before
  obtain ⟨_, _, rfl⟩ := after
  exact ⟨mask, torn.outputs, torn.awake, torn.asleep, torn.layers, torn.streams, torn.posters, torn.flash, torn.surfaces⟩

/-! ## A teardown, PORT CHANGE and the test of R169 -/

theorem State.settled_linked (p : Port) (v : State) : v.LinkedTo (v.portChange p).settle :=
  (State.notifyIf_linked _ _ _ _).trans (State.settle_linked _)

/-- The other port keeps its queue. -/
theorem State.settled_queue (p q : Port) (v : State) : ((v.portChange p).settle.ports.get q).queue = (v.ports.get q).queue := by
  rw [State.settle_queue]
  exact (v.portChange_tears (q := p) p q).queue

theorem State.tearDown_own (p : Port) (s : State) : (s.ports.get p).withdrawn.torn
    ((s.waitersOf p).length + (((s.drawnDown p).tearPosters p).cancelledOps p).length) ((s.tearDown p).ports.get p) := by
  have own := (s.tearDown_tears p).own
  rwa [State.modPort_ports, PerPort.get_set] at own

theorem State.tearDown_other (p : Port) (s : State) :
    (s.ports.get p.other).torn 0 ((s.tearDown p).ports.get p.other) := by
  have other := (s.tearDown_tears p).other
  rwa [State.modPort_get_ne p.other_ne] at other

/-! ## PORT RESET ASSERT (R170) -/

/-- The state in which a port in RESETTING has made the teardown requests, if it left ATTACHED. -/
def State.resetBegun (p : Port) (s : State) : State :=
  if (s.ports.get p).status = .attached then (s.modPort p PortState.resetting).tearDown p else s.modPort p PortState.resetting

theorem State.portReset_eq (p : Port) (s : State) : s.portReset p = ((s.resetBegun p).portChange p).settle := rfl

/-- A port in RESETTING sees nothing of its own teardown but freed entries (R178). -/
theorem State.resetBegun_port (p : Port) (s : State) : ∃ m b es n, (s.resetBegun p).ports.get p =
    { (s.ports.get p).resetting with mask := m, baselines := b, inFlight := es, cancelled := n } := by
  have reset : (s.modPort p PortState.resetting).ports.get p = (s.ports.get p).resetting := PerPort.get_set ..
  unfold State.resetBegun
  split
  · have silent := ((s.modPort p PortState.resetting).tearDown_own p).silent (by rw [reset]; rfl)
    rw [silent, reset]
    exact ⟨_, _, _, _, rfl⟩
  · rw [reset]
    exact ⟨_, _, _, _, rfl⟩

theorem State.resetBegun_other (p : Port) (s : State) : (s.ports.get p.other).torn 0 ((s.resetBegun p).ports.get p.other) := by
  have same : (s.modPort p PortState.resetting).ports.get p.other = s.ports.get p.other := State.modPort_get_ne p.other_ne _
  unfold State.resetBegun
  split
  · have other := (s.modPort p PortState.resetting).tearDown_other p
    rwa [same] at other
  · rw [same]
    exact PortState.torn_refl _

/-- Settles O20: the port empties itself before the teardown requests, which tell a port in RESETTING nothing. -/
theorem portResetAsserted : Obligations.PortResetAsserted := by
  intro s p released
  have open' : ¬ s.startUp.resetPin = true := by simp [released]
  refine ⟨fun absent => ?_, fun resetting => ?_, fun present notResetting => ?_⟩
  · simp only [exec, execPortResetAssert, if_neg open', absent]
  · simp only [exec, execPortResetAssert, if_neg open', resetting]
  · have run : exec (.portResetAssert p) s = .next (s.portReset p) := by
      cases h : (s.ports.get p).status with
      | absent => exact absurd h present
      | resetting => exact absurd h notResetting
      | detached | attached | detaching => simp only [exec, execPortResetAssert, if_neg open', h]
    obtain ⟨m, b, es, k, port⟩ := s.resetBegun_port p
    have other := s.resetBegun_other p
    have status : ((s.resetBegun p).ports.get p).status = .resetting := by rw [port]; rfl
    have own := (s.resetBegun p).portChange_own p
    obtain ⟨es', left⟩ := State.settle_asserted (s := (s.resetBegun p).portChange p) (p := p) (by rw [own]; exact status)
      (by rw [own, port]; rfl)
    rw [own, port] at left
    have linked := State.settled_linked p (s.resetBegun p)
    have frame : s.TornTo (s.resetBegun p) := by
      unfold State.resetBegun
      split
      · exact (s.modPort_linked p _).tornTo.trans (State.tearDown_tornTo p _)
      · exact (s.modPort_linked p _).tornTo
    have told := fun subscribed => State.told_portChange (s := s) (p := p) subscribed other
    rw [status] at told
    rw [run, State.portReset_eq]
    refine ⟨_, rfl, (frame.trans linked.tornTo).eq, ?_, ?_, ?_, ?_, ?_, ?_, ?_, ?_, ?_, fun attached => ?_, fun away => ?_,
      told, ?_⟩
    · rw [left]; rfl
    · rw [left]; rfl
    · rw [left]; rfl
    · rw [left]; rfl
    · rw [left]; rfl
    · rw [left]; rfl
    · rw [left]; rfl
    · rw [left]; rfl
    · rw [left]; rfl
    · have torn := State.tearDown_tornDown p (s.modPort p PortState.resetting)
      have begun : s.resetBegun p = (s.modPort p PortState.resetting).tearDown p := if_pos attached
      rw [← begun] at torn
      refine torn.linked (s.modPort_linked p _) linked ?_
      have mask := torn.mask
      rw [port] at mask
      rw [left]
      exact mask
    · have begun : s.resetBegun p = s.modPort p PortState.resetting := if_neg away
      have all : s.LinkedTo ((s.resetBegun p).portChange p).settle := by
        rw [begun] at linked ⊢
        exact (s.modPort_linked p _).trans linked
      obtain ⟨_, _, e⟩ := all
      rw [e]
    · rw [State.settled_queue, other.queue]

end Sys2Proof.Machine
end

section
/-! SUPPORT. DETACH by its owning block (R168, R169). -/

namespace Sys2Proof.Machine

variable {s : State} {p : Port} {f : Frame} {rest : List Frame}

/-- The state in which a port has left ATTACHED, its DETACH in flight (R168, R177). -/
def State.detachBegun (p : Port) (f : Frame) (rest : List Frame) (s : State) : State :=
  (s.dispatched p f rest).setStatus p .detaching

theorem Takes.detaches (takes : Takes s p .detach f rest) : exec (.detach p) s =
    .next (((s.detachBegun p f rest).tearDown p).portChange p).settle := by
  refine congrArg Host.Outcome.next ((takes.taking _).trans ?_)
  rw [detach, State.enter_taken]
  rfl

theorem State.detachBegun_linked (p : Port) (f : Frame) (rest : List Frame) (s : State) :
    s.LinkedTo (s.detachBegun p f rest) := ⟨_, _, rfl⟩

theorem State.detachBegun_port (p : Port) (f : Frame) (rest : List Frame) (s : State) :
    (s.detachBegun p f rest).ports.get p = { s.ports.get p with
      status := .detaching, queue := rest, inFlight := (s.ports.get p).inFlight ++ [⟨f.code, f.tag⟩] } := by
  rw [State.detachBegun, State.setStatus, State.modPort_ports, PerPort.get_set, State.dispatched_port]

theorem State.detachBegun_other (p : Port) (f : Frame) (rest : List Frame) (s : State) :
    (s.detachBegun p f rest).ports.get p.other = s.ports.get p.other := by
  rw [State.detachBegun, State.setStatus, State.modPort_get_ne p.other_ne, State.dispatched, State.modPort_get_ne p.other_ne]

/-- What the port itself sees of its teardown: notices, freed entries, and the count of the commands it cancelled. -/
theorem State.detachBegun_torn (p : Port) (f : Frame) (rest : List Frame) (s : State) :
    let u := s.detachBegun p f rest
    ∃ n, ({ s.ports.get p with status := .detaching, queue := rest
                               inFlight := (s.ports.get p).inFlight ++ [⟨f.code, f.tag⟩] } : PortState).withdrawn.torn n
        ((u.tearDown p).ports.get p)
      ∧ (s.DeviceSettled → n = (s.waitersOf p).length + (s.cancelledOps p).length) := by
  intro u
  have own := u.tearDown_own p
  have port : u.ports.get p = _ := s.detachBegun_port p f rest
  have linked : s.LinkedTo u := s.detachBegun_linked p f rest
  rw [port] at own
  refine ⟨_, own, fun settled => ?_⟩
  have same : u.waitersOf p = s.waitersOf p ∧ u.cancelledOps p = s.cancelledOps p ∧ u.DeviceSettled := by
    obtain ⟨_, _, e⟩ := linked
    rw [e]
    exact ⟨rfl, rfl, settled⟩
  obtain ⟨waiters, ops, settled'⟩ := same
  rw [settled'.cancelledOps, waiters, ops]

/-- Settles O19: the five requests are made in order, and the test of R169 follows PORT CHANGE. -/
theorem detachTaken : Obligations.DetachTaken := by
  intro s p f rest takes
  let u := s.detachBegun p f rest
  let v := u.tearDown p
  have before : s.LinkedTo u := s.detachBegun_linked p f rest
  have after : v.LinkedTo (v.portChange p).settle := State.settled_linked p v
  obtain ⟨n, own, counted⟩ := s.detachBegun_torn p f rest
  have other : (s.ports.get p.other).torn 0 (v.ports.get p.other) := by
    have torn := u.tearDown_other p
    rwa [s.detachBegun_other p f rest] at torn
  have status : (v.ports.get p).status = .detaching := own.status
  have mine : (v.portChange p).ports.get p = v.ports.get p := v.portChange_own p
  have cancelled : (v.ports.get p).cancelled = n := own.cancelled.trans (Nat.zero_add n)
  have alive : (u.ports.get p).status ≠ .resetting := by rw [s.detachBegun_port p f rest]; nofun
  have keeps : v.KeepsNotices (v.portChange p).settle :=
    (State.KeepsNotices.portChange (State.keepsNotices_refl v) p).settle
  have torn : u.TornDown v p := State.tearDown_tornDown p u
  obtain ⟨outputs, work⟩ : u.outputs = s.outputs ∧ u.cancelledOps p = s.cancelledOps p ∧ u.waitersOf p = s.waitersOf p
      ∧ (s.DeviceSettled → u.DeviceSettled) := by
    obtain ⟨_, _, e⟩ := before
    rw [e]
    exact ⟨rfl, rfl, rfl, id⟩
  obtain ⟨ops, waiters, settled⟩ := work
  have told := fun subscribed => State.told_portChange (s := s) (p := p) subscribed other
  rw [status] at told
  have ends := State.settle_detaching (s := v.portChange p) (p := p) (by rw [mine]; exact status)
  rw [mine] at ends
  have final : (v.portChange p).settle.outputs = v.outputs := after.outputs
  refine ⟨(v.portChange p).settle, takes.detaches, ?_, ?_, ?_, ?_, ?_, ?_, ?_, ?_, ?_⟩
  · exact ((before.tornTo.trans (State.tearDown_tornTo p u)).trans after.tornTo).eq
  · refine torn.linked before after ?_
    rcases ends with ⟨same, -⟩ | ⟨tag, -, -, -, -, mask, baselines, -⟩
    · rw [same]
      exact torn.mask
    · rw [mask, baselines]
      exact torn.mask
  · rw [State.settled_queue, own.queue]
    rfl
  · rw [State.settled_queue, other.queue]
  · rcases ends with ⟨same, goesOn⟩ | ⟨tag, only, finished, detached, empty, -, -, last⟩
    · rw [same]
      exact .inr ⟨status, goesOn, fun settled => cancelled.trans (counted settled)⟩
    · have code : f.code = 0x02 := Frame.code_of_cmd? takes.head.command
      have count : List.count (⟨0x02, f.tag⟩ : InFlight) [⟨0x02, tag⟩]
          = List.count ⟨0x02, f.tag⟩ ((s.ports.get p).inFlight ++ [⟨f.code, f.tag⟩]) := by
        rw [← only]
        exact own.detaches f.tag
      have issued : tag = f.tag := by
        by_contra ne
        rw [code, List.count_append, List.count_singleton_self, List.count_singleton, if_neg (by simp [ne])] at count
        omega
      refine .inl ⟨detached, finished, empty, n, ?_, counted⟩
      rw [last, cancelled, issued, code]
  · intro subscribed
    refine ⟨told subscribed, fun detached => ?_⟩
    have change := (v.portChange_tears (q := p) p).other
    have heard : (s.ports.get p.other).torn 0 ((v.portChange p).ports.get p.other) := other.trans change
    rcases ((v.portChange p).settle_ends p).1 (by rw [mine]; exact status) with ⟨⟨-, -, -, tells⟩, -⟩ | ⟨goesOn, -⟩
    · refine State.told_between (tells (by rw [heard.mask]; exact subscribed)) heard fun attached => ?_
      exact ⟨(State.settle_noticed attached).2.1, PortState.noticed_refl _⟩
    · rw [detached] at goesOn
      cases goesOn
  · intro o on asleep e mem mine'
    rw [final] at asleep
    rw [← outputs] at mem ⊢
    have on' : u.outputEnabled o = true := by rw [State.outputEnabled, outputs]; exact on
    exact (keeps p).mem (State.tearDown_latches on' asleep mem mine' alive)
  · intro w mem
    exact (keeps p).mem (State.tearDown_loads (by rw [waiters]; exact mem) alive)
  · intro settled' op mem
    exact (keeps p).mem (State.tearDown_ops (settled settled') (by rw [ops]; exact mem) alive)

end Sys2Proof.Machine
end
